-- ==== Sys2Proof/Word.lean ====
section
/-! DEFINITION. The words the 4280 carries: bytes, node numbers, check codes, zone sets; and fixed
tables with their one read and one write. -/

namespace Sys2Proof

/-- One byte of a frame or of a table section (R1, R167). -/
abbrev Byte := BitVec 8

/-- A node number 0..62, or 63 for every node on the deck line (R2). -/
abbrev NodeNo := BitVec 6

/-- A check code (R5). -/
abbrev Check := BitVec 16

/-- A set of loudspeaker zones: bit z stands for zone z (R167). -/
abbrev ZoneSet := BitVec 12

/-- A fixed number of like records. -/
abbrev Tab (α : Type) (n : Nat) := Vector α n

/-- The record at a place of a table. -/
abbrev Tab.at {α : Type} {n : Nat} (t : Tab α n) (i : Fin n) : α := t[i.val]

/-- A table with the record at one place replaced. -/
def Tab.put {α : Type} {n : Nat} (t : Tab α n) (i : Fin n) (x : α) : Tab α n := t.set i.val x i.isLt

/-- The table whose record at place i is `f i`. -/
def Tab.make {α : Type} {n : Nat} (f : Fin n → α) : Tab α n := ⟨⟨List.ofFn f⟩, by simp⟩

/-- A table of n copies of one record. -/
abbrev Tab.fill {α : Type} (n : Nat) (x : α) : Tab α n := Vector.replicate n x

@[simp] theorem Tab.at_put_self {α : Type} {n : Nat} (t : Tab α n) (i : Fin n) (x : α) :
    (t.put i x).at i = x := by
  simp [Tab.at, Tab.put]

theorem Tab.at_put_ne {α : Type} {n : Nat} (t : Tab α n) {i j : Fin n} (x : α) (h : i ≠ j) :
    (t.put i x).at j = t.at j := by
  have : i.val ≠ j.val := fun e => h (Fin.ext e)
  simp [Tab.at, Tab.put, Vector.getElem_set_ne _ _ this]

@[simp] theorem Tab.at_make {α : Type} {n : Nat} (f : Fin n → α) (i : Fin n) :
    (Tab.make f).at i = f i := by
  simp [Tab.at, Tab.make]

@[simp] theorem Tab.at_fill {α : Type} {n : Nat} (x : α) (i : Fin n) : (Tab.fill n x).at i = x := by
  simp [Tab.at, Tab.fill]

end Sys2Proof
end

