-- ==== Sys2Proof/Syntax.lean ====
section
/-! DEFINITION. The commands of the 4280: one constructor per row of spec/opcode_table.json, with the
row's operands. -/

namespace Sys2Proof

/-- The two ramp channels: A serves the bow ramp, B the stern ramp (chapter 5). -/
inductive Channel where
  | a | b
  deriving DecidableEq, Repr

/-- The four switch inputs of a ramp channel (R82). -/
inductive Switch where
  | stow | land | pinsIn | pinsOut
  deriving DecidableEq, Repr

/-- One received character: eight data bits, the parity bit and the level of the stop bit (R6). -/
structure RxChar where
  data : Byte
  parity : Bool
  stop : Bool
  deriving DecidableEq, Repr

/-- A request of the bridge console as it reaches its owner: the source node of its frame and the
frame's payload. Destination, class, object and verb are the row's own (R62, R83, R148, R168). -/
structure Request where
  source : NodeNo
  payload : List Byte
  deriving DecidableEq, Repr

/-- The commands, in the order of spec/opcode_table.json. -/
inductive Instr where
  | fullReset (straps : BitVec 6)
  | bridgeFrameEnd (chars : List RxChar)
  | bridgeFrameSent
  | bridgeSilenceExpiry
  | load (q : Request)
  | commit (q : Request)
  | abort (q : Request)
  | readTable (q : Request)
  | readImage (q : Request)
  | readState (q : Request)
  | readFlags (q : Request)
  | clearFlags (q : Request)
  | proofTest (q : Request)
  | restart (q : Request)
  | identify (q : Request)
  | restartTakesEffect
  | setCondition (q : Request)
  | acceptIncomplete (q : Request)
  | recover (q : Request)
  | fireAlarmAccepted (active : Bool)
  | heldRecordExpiry
  | deckFrameSent
  | replyWindowExpiry
  | settlingEnd
  | deckFrameEnd (chars : List RxChar)
  | freshnessExpiry (d : Fin 96)
  | lower (ch : Channel) (q : Request)
  | raise (ch : Channel) (q : Request)
  | rampStop (ch : Channel) (q : Request)
  | jog (ch : Channel) (q : Request)
  | resetFault (ch : Channel) (q : Request)
  | rampSwitchAccepted (ch : Channel) (sw : Switch) (active : Bool)
  | estopAccepted (active : Bool)
  | pinTimerExpiry (ch : Channel)
  | rampWarningExpiry (ch : Channel)
  | deadManExpiry (ch : Channel)
  | periodEnd (ch : Channel)
  | encoderTransition (ch : Channel) (levelA levelB : Bool)
  | recentTimerExpiry (ch : Channel)
  | pwmPeriodStart (ch : Channel)
  | pwmCentre (ch : Channel)
  | pressureConversionDone (ch : Channel) (sample : BitVec 12)
  | close (g : Fin 4) (q : Request)
  | openDoors (g : Fin 4) (q : Request)
  | groupStop (g : Fin 4) (q : Request)
  | groupWarningExpiry (g : Fin 4)
  | spacingExpiry (g : Fin 4)
  | travelExpiry (g : Fin 4) (k : Fin 8)
  | retryExpiry (g : Fin 4) (k : Fin 8)
  | place (q : Request)
  | cancel (q : Request)
  | waitTimerExpiry (e : Fin 16)
  | beaconStepExpiry (b : Fin 8)
  | commitExpiry
  | copyComplete
  | scrubSlotEnd
  | deckLineStartBit
  deriving DecidableEq, Repr

end Sys2Proof
end

