-- ==== Sys2Proof/Decode.lean ====
section
/-! DEFINITION. The command a word spells by the bits of spec/opcode_table.json. The table gives its
rows no bits (no row has a "fixed" or a non-empty "fields"), so no word spells a command. -/

namespace Sys2Proof

/-- The command the table's bits spell: none, for any word. -/
def decodeTableWord (_nbits _w : Nat) : Option Instr := none

end Sys2Proof
end

