-- ==== Sys2Proof/Config.lean ====
section
/-! DEFINITION. What the spec fixes as numbers for every 4280, and the one value it leaves open. -/

namespace Sys2Proof.Config

/-- Ticks of 250 ns in a microsecond: the PWM counter is clocked at 4 MHz (R120). -/
def usec : Nat := 4
/-- Ticks in a millisecond. -/
def msec : Nat := 4000
/-- Ticks in a second. -/
def second : Nat := 4000000
/-- One character on either line: 22 µs (R6). -/
def charTime : Nat := 22 * usec
/-- Two character times: the gap that ends a frame (R6). -/
def gapTime : Nat := 44 * usec
/-- The reply window (R13). -/
def windowTime : Nat := 1 * msec
/-- The control period of a ramp channel (R93). -/
def periodTime : Nat := 10 * msec
/-- The dead-man timer (R87). -/
def deadManTime : Nat := 300 * msec
/-- The recent timer (R110). -/
def recentTime : Nat := 250 * msec
/-- A pressure conversion (R123). -/
def conversionTime : Nat := 6 * usec
/-- The expiry of a pending commit (R173). -/
def commitTime : Nat := 120 * second
/-- One slot of the scrub (R180). -/
def slotTime : Nat := 125 * msec
/-- The unit of a pattern's step length (R163). -/
def stepUnit : Nat := 50 * msec
/-- The unit of a hold time (R57). -/
def holdUnit : Nat := 250 * msec
/-- The bridge transmit queue (R76). -/
def bridgeQueueSize : Nat := 32
/-- The deck transmit queue (R69). -/
def deckQueueSize : Nat := 24
/-- The places non-urgent frames may take in the deck transmit queue (R69). -/
def deckNormalSize : Nat := 16
/-- The held list (R64). -/
def heldSize : Nat := 8
/-- Consecutive samples for FIRE_ALARM (R52). -/
def fireSamples : Nat := 20
/-- Consecutive samples for a ramp switch (R82). -/
def switchSamples : Nat := 5
/-- Consecutive samples for ESTOP_N (R82). -/
def estopSamples : Nat := 10

/-- FREE VALUE (log 12): R177 gives the copy 1 ms for each 64 bytes and R170 says a READ_TABLE during
the copy returns the bytes the copy has reached, but no rule says how many of the 64 are written some
ticks into the millisecond. -/
opaque copyReached : Nat → Nat

end Sys2Proof.Config
end

