-- ==== Sys2Proof/Machine/State.lean ====
section
/-! DEFINITION. The state of the 4280, block by block, as plain data, and the state after full reset. -/

namespace Sys2Proof.Machine

open Sys2Proof

/-- A timer: the tick of its expiry while it runs, none while it is stopped. -/
abbrev Timer := Option Nat

/-- One record for each ramp channel. -/
structure Pair (α : Type) where
  a : α
  b : α
  deriving DecidableEq, Repr

/-- The record of a channel. -/
def Pair.get {α : Type} (p : Pair α) : Channel → α
  | .a => p.a
  | .b => p.b

/-- The pair with the record of a channel replaced. -/
def Pair.put {α : Type} (p : Pair α) (ch : Channel) (x : α) : Pair α :=
  match ch with
  | .a => { p with a := x }
  | .b => { p with b := x }

/-! ### Frames (chapter 1) -/

/-- The six classes (R3). -/
inductive FrameClass where
  | poll | status | command | reply | call | manage
  deriving DecidableEq, Repr

/-- A frame: header fields and payload; the check code is computed (R1, R2, R5). -/
structure Frame where
  dest : NodeNo
  urgent : Bool
  src : NodeNo
  cls : FrameClass
  object : Byte
  verb : Byte
  payload : List Byte
  deriving DecidableEq, Repr

/-! ### Bridge Line Interface -/

/-- A frame waiting in the bridge transmit queue; the mark tells the RESTART reply (R76, R181). -/
structure BridgeRec where
  frame : Frame
  restartReply : Bool
  deriving DecidableEq, Repr

/-- The frame in transmission on the bridge line: its last stop bit, and the end of its gap (R10). -/
structure BridgeTx where
  frame : Frame
  restartReply : Bool
  lastStop : Nat
  idleAt : Nat
  deriving DecidableEq, Repr

/-- The bridge silence timer (R18). -/
inductive Silence where
  | stopped
  | running (deadline : Nat)
  | expired
  deriving DecidableEq, Repr

/-- Bridge Line Interface: transmit queue, transmitter, silence timer, pending restart (R10, R18, R76,
R181). -/
structure Bli where
  queue : List BridgeRec
  tx : Option BridgeTx
  silence : Silence
  restarting : Bool
  deriving DecidableEq, Repr

/-! ### Deck Line Interface and Scheduler -/

/-- The three kinds of door command, with their verbs (R130). -/
inductive DoorCmd where
  | close | openDoor | stop
  deriving DecidableEq, Repr

/-- Who a queued deck frame belongs to (R69): a bridge source, a door group step with the issue and kind of
its frame and the image entry of its door (R130), or a zone with the issue of its frame, a PLAY or a CUT
(R154). -/
inductive DeckOrigin where
  | bridge (src : NodeNo)
  | door (g : Fin 4) (k : Fin 8) (issue : Byte) (cmd : DoorCmd) (d : Fin 96)
  | zone (z : Fin 12) (issue : Byte) (play : Bool)
  deriving DecidableEq, Repr

/-- A record of the deck transmit queue (R69). -/
structure DeckRec where
  frame : Frame
  urgent : Bool
  cond : Option Byte
  origin : DeckOrigin
  deriving DecidableEq, Repr

/-- The alternation field (R73). -/
inductive Alternation where
  | poll | frame
  deriving DecidableEq, Repr

/-- The states of the deck line (R11). RECEIVING knows whether its frame began in a window. -/
inductive Line where
  | free
  | sending (frame : Frame) (lastStop : Nat)
  | window (expiry : Nat)
  | receiving (candidate : Bool)
  | settling (until_ : Nat)
  deriving DecidableEq, Repr

/-- The kind of a transaction (R12). -/
inductive TxKind where
  | poll | command | call
  deriving DecidableEq, Repr

/-- The origin of a transaction: the entry polled, or the owner of the frame (R12). -/
inductive TxOrigin where
  | entry (d : Fin 96)
  | owner (o : DeckOrigin)
  deriving DecidableEq, Repr

/-- The transaction record (R12), with the mark that its outcome is to be discarded (R17, R36). -/
structure Transaction where
  kind : TxKind
  node : NodeNo
  object : Byte
  origin : TxOrigin
  discard : Bool
  deriving DecidableEq, Repr

/-- Deck Line Interface and Scheduler (R11, R12, R69, R73). -/
structure Dls where
  urgent : List DeckRec
  normal : List DeckRec
  alternation : Alternation
  line : Line
  tx : Option Transaction
  choose : Bool
  deriving DecidableEq, Repr

/-! ### Object Image -/

/-- The standing of an entry (R23). -/
inductive Standing where
  | awaiting | valid | stale
  deriving DecidableEq, Repr

/-- The kind of a remote entry (R22). -/
inductive Kind where
  | none | door | zone | sensor | generic
  deriving DecidableEq, Repr

/-- Poll classes (R22). -/
inductive PollClass where
  | fast | slow
  deriving DecidableEq, Repr

/-- The definition of a remote entry (R22); the node is kept as the whole byte of its record, 1 to 62 in a used
definition. -/
structure ObjDef where
  kind : Kind
  nodeByte : Byte
  object : Byte
  poll : PollClass
  limit : Nat
  deriving DecidableEq, Repr

/-- The runtime record of a remote entry (R23); `since` is the tick at which its age was last 0. -/
structure Remote where
  value : Byte
  detail : List Byte
  standing : Standing
  since : Nat
  deriving DecidableEq, Repr

/-- The Object Image and the poll rotation; pointer d stands for index 32 + d (R19, R22, R32). -/
structure Image where
  locals : Tab Byte 32
  remotes : Tab Remote 96
  defs : Tab ObjDef 96
  pointer : Fin 96
  pass : Fin 8
  deriving DecidableEq, Repr

/-! ### Deck Condition Controller -/

/-- The deck condition (section 3.2). -/
inductive DeckCondition where
  | harbour | loading | closingUp | sea | emergency
  deriving DecidableEq, Repr

/-- An input that is accepted after a number of consecutive samples (R52, R82): the accepted level,
whether a level has been accepted since full reset, the level last sampled and how many consecutive
samples have read it. -/
structure InputFilter where
  level : Bool
  seen : Bool
  sampled : Bool
  run : Nat
  deriving DecidableEq, Repr

/-- Deck Condition Controller (R43, R52). -/
structure Dcc where
  deck : DeckCondition
  fire : InputFilter
  deriving DecidableEq, Repr

/-! ### Passage Filter -/

/-- A record of the held list; its bridge source is the frame's source (R64). -/
structure HeldRec where
  frame : Frame
  cond : Byte
  urgent : Bool
  expiry : Nat
  deriving DecidableEq, Repr

/-! ### Ramp channels -/

/-- The thirteen states of a channel (R80). -/
inductive RampState where
  | disabled | stowedLocked | starting | lowering | landing | landed | raising | stowing | locking
  | halting | halted | jog | fault
  deriving DecidableEq, Repr

/-- A direction of a ramp (R79). -/
inductive Dir where
  | none | lower | raise
  deriving DecidableEq, Repr

/-- Fault causes (R79). -/
inductive Cause where
  | none | encoder | overspeed | stall | overload | overtravel | pinTimeout | motionTimeout
  deriving DecidableEq, Repr

/-- A compare of the valve PWM: a magnitude and the output it names, `Dir.none` for no output (R121). -/
structure Compare where
  mag : Nat
  out : Dir
  deriving DecidableEq, Repr

/-- An encoder input filter (R107): the accepted level, the run count, and whether the last sample brought
the run count to F, so that the other level is accepted at that sample. -/
structure EncFilter where
  level : Bool
  run : Nat
  reached : Bool
  deriving DecidableEq, Repr

/-- A channel's RAMPS record (R124). T_pin is in units of 100 ms, T_motion and T_prewarn in seconds
(R167). -/
structure RampParams where
  enable : Bool
  stowPos : Nat
  deployPos : Nat
  wLand : Nat
  wStow : Nat
  wOver : Nat
  wUnder : Nat
  vMax : Nat
  vCreep : Nat
  vStill : Nat
  vMargin : Nat
  accel : Nat
  accelStop : Nat
  gSlow : Nat
  filter : Nat
  kff : Nat
  kp : Nat
  ki : Nat
  iLim : Nat
  pwmN : Nat
  f0 : Nat
  dMax : Nat
  nSettle : Nat
  nLift : Nat
  nStall : Nat
  nOver : Nat
  pMax : Nat
  tPin : Nat
  tMotion : Nat
  tPrewarn : Nat
  lowerPermit : Byte
  raisePermit : Byte
  zones : ZoneSet
  message : Byte
  pattern : Nat
  deriving DecidableEq, Repr

/-- The ramp record (R79, R125). -/
structure Ramp where
  state : RampState
  dir : Dir
  pendingStart : Dir
  cause : Cause
  referenced : Bool
  x : Int
  xPrev : Int
  s : Int
  vTarget : Int
  vCmd : Int
  integrator : Int
  haltSign : Int
  jogSpeed : Nat
  silence : Bool
  pinTimer : Timer
  warnTimer : Timer
  warned : Bool
  deadTimer : Timer
  motionTime : Nat
  settle : Nat
  overspeed : Nat
  stall : Nat
  overload : Nat
  lift : Nat
  params : RampParams
  encA : EncFilter
  encB : EncFilter
  lastDir : Dir
  lastCapture : BitVec 20
  interval : Nat
  recent : Timer
  buffered : Compare
  active : Compare
  pwmZero : Option Nat
  pwmCentred : Bool
  conversion : Timer
  lastSample : BitVec 12
  pinOut : Bool
  pinIn : Bool
  periodAt : Nat
  stow : InputFilter
  land : InputFilter
  pinsIn : InputFilter
  pinsOut : InputFilter
  deriving DecidableEq, Repr

/-! ### Door group sequencers -/

/-- The states of a door group (R128). -/
inductive GroupState where
  | idle | warning | waitPermit | closing | closed | incomplete | opening | stopped
  deriving DecidableEq, Repr

/-- Step states (R127). -/
inductive StepState where
  | waiting | commanded | confirmed | failed
  deriving DecidableEq, Repr

/-- Failure causes of a step; `none` unless it is FAILED (R127). -/
inductive StepCause where
  | none | timeout | obstructed | rejected | noAnswer | localControl | fault
  deriving DecidableEq, Repr

/-- A step record. A pending frame is the queue record that found no place (R127, R130). -/
structure Step where
  state : StepState
  cause : StepCause
  attempts : Nat
  travel : Timer
  retry : Timer
  pendingStop : Option DeckRec
  pendingCmd : Option DeckRec
  issue : Byte
  deriving DecidableEq, Repr

/-- A group's DOORS record (R126); `doors` is empty for an undefined group. Times are in seconds. -/
structure GroupDef where
  sea : Bool
  fire : Bool
  doors : List (Fin 96)
  zones : ZoneSet
  message : Byte
  pattern : Nat
  tWarn : Nat
  tEwarn : Nat
  tSpace : Nat
  tTravel : Nat
  tRetry : Nat
  closePermit : Byte
  openPermit : Byte
  deriving DecidableEq, Repr

/-- A group record with its steps (R127). -/
structure Group where
  state : GroupState
  mark : Bool
  ready : Bool
  warnTimer : Timer
  spacing : Timer
  defn : GroupDef
  steps : Tab Step 8
  deriving DecidableEq, Repr

/-! ### Call list and beacons -/

/-- Call priorities, highest first (R146). -/
inductive Priority where
  | emergency | safety | operational | information
  deriving DecidableEq, Repr

/-- The origin of a call (R146). -/
inductive CallOrigin where
  | group (g : Fin 4)
  | ramp (ch : Channel)
  | emergency
  | bridge (src : NodeNo)
  deriving DecidableEq, Repr

/-- The progress of a PLAYING zone (R146). -/
inductive Progress where
  | sent | accepted | heard
  deriving DecidableEq, Repr

/-- A call's mark in a zone, with the node wait of a PENDING zone and the progress of a PLAYING one
(R146). -/
inductive Mark where
  | none
  | pending (nodeWait : Bool)
  | playing (progress : Progress)
  | done
  deriving DecidableEq, Repr

/-- A present call-list entry (R146). -/
structure Call where
  origin : CallOrigin
  zones : ZoneSet
  message : Byte
  priority : Priority
  reps : Nat
  pattern : Nat
  ready : Option Nat
  wait : Timer
  marks : Tab Mark 12
  deriving DecidableEq, Repr

/-- A record of the zone owner table (R152); image index 0 leaves the zone unfitted (R159). -/
structure Zone where
  owner : Option (Fin 16)
  issue : Byte
  pendingCut : Option DeckRec
  pendingPlay : Option DeckRec
  index : Nat
  deriving DecidableEq, Repr

/-- Call List and Zone Allocator (R146, R152). -/
structure CallList where
  calls : Tab (Option Call) 16
  order : List (Fin 16)
  zones : Tab Zone 12
  deriving DecidableEq, Repr

/-- The source of a beacon (R162). -/
inductive BeaconSource where
  | none
  | zone (z : Fin 12)
  | ramp (ch : Channel)
  deriving DecidableEq, Repr

/-- A beacon's record (R162). -/
structure BeaconRec where
  source : BeaconSource
  intensity : Nat
  opposite : Bool
  deriving DecidableEq, Repr

/-- A pattern: 16 steps and a step length in units of 50 ms (R163). -/
structure Pattern where
  steps : BitVec 16
  length : Nat
  deriving DecidableEq, Repr

/-- What a beacon shows: pattern 1..8 or 0, step position, step timer, and n of the lit step in
progress, 0 when it is dark (R162, R164). -/
structure Shown where
  pattern : Nat
  step : Fin 16
  timer : Timer
  level : Nat
  deriving DecidableEq, Repr

/-- Beacon Driver (R162, R163). -/
structure Bd where
  recs : Tab BeaconRec 8
  patterns : Tab Pattern 8
  shown : Tab Shown 8
  deriving DecidableEq, Repr

/-! ### Table Store -/

/-- A copy of a section: (offset, byte) cells, offsets strictly rising, no cell holding 0; an
unlisted offset reads 0, the fill of full reset (R166). -/
abbrev Memory := List Host.Cell

/-- ACTIVE statuses (R166). -/
inductive ActiveStatus where
  | empty | valid | corrupt
  deriving DecidableEq, Repr

/-- A section: its two copies, their statuses and the recorded check code (R166). -/
structure Sec where
  active : Memory
  standby : Memory
  status : ActiveStatus
  standbyValid : Bool
  code : Option Check
  deriving DecidableEq, Repr

/-- The commit-pending record (R173). -/
structure CommitRec where
  set : Byte
  expiry : Nat
  deriving DecidableEq, Repr

/-- The copy-in-progress record; the position reached is computed from its start (R177). -/
structure CopyRec where
  set : Byte
  start : Nat
  deriving DecidableEq, Repr

/-- Table Store (R166, R173, R177, R180, R194). -/
structure Ts where
  secs : Tab Sec 8
  commit : Option CommitRec
  copy : Option CopyRec
  slot : Fin 8
  slotEnd : Nat
  slotSwapped : Bool
  testArea : List Byte
  testCode : Check
  deriving DecidableEq, Repr

/-! ### Fault Collector and settings -/

/-- The proof tests (R190). -/
inductive TestId where
  | overspeed (ch : Channel)
  | overload (ch : Channel)
  | landInput (ch : Channel)
  | scrub
  deriving DecidableEq, Repr

/-- Results of a proof test (R191). -/
inductive TestResult where
  | pass | fail | aborted
  deriving DecidableEq, Repr

/-- The running fields of the proof-test record (R191). -/
structure ProofTest where
  id : TestId
  arg : Byte
  steps : Nat
  deriving DecidableEq, Repr

/-- Fault Collector (R184, R188, R189, R191); `owed` is the model's own mark that the summary value or the alarm
state has changed at the event in hand, so that the summary notice is to be placed at its end (log 48). -/
structure Fc where
  flags : BitVec 35
  masks : BitVec 35
  summaryMasks : BitVec 7
  summary : BitVec 7
  alarm : Bool
  owed : Bool
  test : Option ProofTest
  last : Option (TestId × TestResult)
  deriving DecidableEq, Repr

/-- The SETTINGS fields as the blocks last took them (R176). T_bridge is in ms, T_warnwait in s. -/
structure Settings where
  tBridge : Nat
  tWarnwait : Nat
  loadingPermit : Byte
  fireEnable : Bool
  emZones : ZoneSet
  emMessage : Byte
  emPattern : Nat
  faultPattern : Nat
  deriving DecidableEq, Repr

/-! ### Pins -/

/-- The input pins of one channel: switches active or inactive, encoder levels, PRESS_x as converted
(section 7 of spec/00_scope.md). -/
structure ChannelPins where
  stow : Bool
  land : Bool
  pinsIn : Bool
  pinsOut : Bool
  encA : Bool
  encB : Bool
  pressure : BitVec 12
  deriving DecidableEq, Repr

/-- The input pins the part samples; ESTOP_N and FIRE_ALARM as active or inactive. -/
structure Pins where
  fireAlarm : Bool
  estop : Bool
  channels : Pair ChannelPins
  deriving DecidableEq, Repr

/-- An event raised for another block inside a command and not yet handled: an image change with the
value after it (R31), a call become ready (R156), the removal of entry 6 (R135, R156), the discard of
the RESTART reply (R181). -/
inductive Task where
  | imageChange (index : Fin 128) (before after : Byte)
  | callReady (e : Fin 16)
  | emergencyCallRemoved
  | restartEffect
  deriving DecidableEq, Repr

/-- The state of the part. -/
structure State where
  pending : List Instr
  now : Nat
  agenda : List Task
  straps : BitVec 6
  node : NodeNo
  pins : Pins
  bli : Bli
  dls : Dls
  img : Image
  dcc : Dcc
  held : List HeldRec
  ramps : Pair Ramp
  estop : InputFilter
  groups : Tab Group 4
  cl : CallList
  bd : Bd
  ts : Ts
  fc : Fc
  settings : Settings
  deriving DecidableEq, Repr

/-- The spec gives no event at which the part stops: every command leaves a next state, so no reason
for a fault exists. -/
inductive Fault where
  deriving DecidableEq, Repr

/-- Why a step is refused. -/
inductive Refusal where
  /-- A command without a meaning: raised by an arm of `exec` that has none; safe, since the model
  stops where the part goes on. No arm raises it. -/
  | notModelled (mnemonic : String)
  deriving DecidableEq, Repr

/-! ### Values after full reset -/

/-- An input before its first acceptance: inactive (R52, R82). -/
def InputFilter.reset : InputFilter := { level := false, seen := false, sampled := false, run := 0 }

/-- The zero-filled RAMPS record (R106). -/
def RampParams.reset : RampParams :=
  { enable := false, stowPos := 0, deployPos := 0, wLand := 0, wStow := 0, wOver := 0, wUnder := 0,
    vMax := 0, vCreep := 0, vStill := 0, vMargin := 0, accel := 0, accelStop := 0, gSlow := 0,
    filter := 0, kff := 0, kp := 0, ki := 0, iLim := 0, pwmN := 0, f0 := 0, dMax := 0, nSettle := 0,
    nLift := 0, nStall := 0, nOver := 0, pMax := 0, tPin := 0, tMotion := 0, tPrewarn := 0,
    lowerPermit := 0, raisePermit := 0, zones := 0, message := 0, pattern := 0 }

/-- An encoder filter that has taken a level, with nothing counted (R107). -/
def EncFilter.at (level : Bool) : EncFilter := { level := level, run := 0, reached := false }

/-- No magnitude, no output (R125). -/
def Compare.off : Compare := { mag := 0, out := .none }

/-- The ramp record after full reset (R106, R125). -/
def Ramp.reset : Ramp :=
  { state := .disabled, dir := .none, pendingStart := .none, cause := .none, referenced := false,
    x := 0, xPrev := 0, s := 0, vTarget := 0, vCmd := 0, integrator := 0, haltSign := 1,
    jogSpeed := 0, silence := false, pinTimer := none, warnTimer := none, warned := false,
    deadTimer := none, motionTime := 0, settle := 0, overspeed := 0, stall := 0, overload := 0,
    lift := 0, params := .reset, encA := .at false, encB := .at false, lastDir := .none,
    lastCapture := 0, interval := 65535, recent := none, buffered := .off, active := .off,
    pwmZero := none, pwmCentred := false, conversion := none, lastSample := 0, pinOut := false,
    pinIn := false, periodAt := Config.periodTime, stow := .reset, land := .reset, pinsIn := .reset,
    pinsOut := .reset }

/-- A step at WAITING with nothing running (R145); every step place counts its issues from 0, used by the list
or not (log 50). -/
def Step.reset : Step :=
  { state := .waiting, cause := .none, attempts := 0, travel := none, retry := none,
    pendingStop := none, pendingCmd := none, issue := 0 }

/-- An undefined group (R126, R145). -/
def GroupDef.reset : GroupDef :=
  { sea := false, fire := false, doors := [], zones := 0, message := 0, pattern := 0, tWarn := 0,
    tEwarn := 0, tSpace := 0, tTravel := 0, tRetry := 0, closePermit := 0, openPermit := 0 }

/-- A group record after full reset (R145). -/
def Group.reset : Group :=
  { state := .idle, mark := false, ready := false, warnTimer := none, spacing := none,
    defn := .reset, steps := .fill 8 .reset }

/-- An unused remote entry's definition (R22). -/
def ObjDef.reset : ObjDef := { kind := .none, nodeByte := 0, object := 0, poll := .fast, limit := 0 }

/-- A remote entry as R37 leaves it at full reset. -/
def Remote.reset : Remote := { value := 255, detail := [], standing := .awaiting, since := 0 }

/-- The local entries after full reset (R21): 0, but for the fault summary 64 in entry 11 (R196) and
255 in entries 12..23. -/
def localsReset : Tab Byte 32 :=
  Tab.make fun i => if i.val = 11 then 64 else if 12 ≤ i.val ∧ i.val ≤ 23 then 255 else 0

/-- A section after full reset (R166, R183). -/
def Sec.reset : Sec :=
  { active := [], standby := [], status := .empty, standbyValid := false, code := none }

/-- The input pins at rest (log 5). -/
def ChannelPins.reset : ChannelPins :=
  { stow := false, land := false, pinsIn := false, pinsOut := false, encA := false, encB := false,
    pressure := 0 }

/-- The machine right after full reset, with the straps at 0 (log 5). -/
def State.reset : State :=
  { pending := [], now := 0, agenda := [], straps := 0, node := 0,
    pins := { fireAlarm := false, estop := false, channels := ⟨.reset, .reset⟩ },
    bli := { queue := [], tx := none, silence := .stopped, restarting := false },
    dls := { urgent := [], normal := [], alternation := .frame, line := .free, tx := none,
             choose := false },
    img := { locals := localsReset, remotes := .fill 96 .reset, defs := .fill 96 .reset,
             pointer := 0, pass := 0 },
    dcc := { deck := .harbour, fire := .reset },
    held := [],
    ramps := ⟨.reset, .reset⟩,
    estop := .reset,
    groups := .fill 4 .reset,
    cl := { calls := .fill 16 none, order := [],
            zones := .fill 12 { owner := none, issue := 0, pendingCut := none, pendingPlay := none,
                                index := 0 } },
    bd := { recs := .fill 8 { source := .none, intensity := 0, opposite := false },
            patterns := .fill 8 { steps := 0, length := 0 },
            shown := .fill 8 { pattern := 0, step := 0, timer := none, level := 0 } },
    ts := { secs := .fill 8 .reset, commit := none, copy := none, slot := 0,
            slotEnd := Config.slotTime, slotSwapped := false,
            testArea := List.replicate 64 0, testCode := 0 },
    fc := { flags := 0x100000000#35, masks := 0, summaryMasks := 0, summary := 64, alarm := true,
            owed := false, test := none, last := none },
    settings := { tBridge := 0, tWarnwait := 0, loadingPermit := 0, fireEnable := false,
                  emZones := 0, emMessage := 0, emPattern := 0, faultPattern := 0 } }

end Sys2Proof.Machine
end

