-- ==== Sys2Proof/Machine/Ops.lean ====
section
/-! DEFINITION. The named operations over the state: record updates, time and timers, table bytes,
the check code, frames and their bytes, image entries, the two transmit queues. -/

namespace Sys2Proof

/-- Ramp channel A is object 1, channel B object 2 (R62). -/
def Channel.object : Channel → Byte
  | .a => 1 | .b => 2

/-- A channel's reserved call-list entry: 4 for A, 5 for B (R81). -/
def Channel.callEntry : Channel → Fin 16
  | .a => 4 | .b => 5

/-- The local entry of a channel's state (R80). -/
def Channel.stateEntry : Channel → Fin 32
  | .a => 1 | .b => 2

/-- The local entry of a channel's land switch (R93). -/
def Channel.landEntry : Channel → Fin 32
  | .a => 3 | .b => 4

/-- Even parity over eight data bits: the bit that makes the number of ones even (R6). -/
def evenParity (b : Byte) : Bool := [0, 1, 2, 3, 4, 5, 6, 7].foldl (fun p i => p != b.getLsbD i) false

/-- The character that carries a byte (R6). -/
def charOf (b : Byte) : RxChar := { data := b, parity := evenParity b, stop := true }

/-- A received character without a parity or stop-bit error (R7). -/
def RxChar.good (c : RxChar) : Bool := c.stop && c.parity == evenParity c.data

end Sys2Proof

namespace Sys2Proof.Machine

open Sys2Proof

/-! ### Record updates -/

/-- A channel's record. -/
def State.ramp (s : State) (ch : Channel) : Ramp := s.ramps.get ch

/-- The state with a channel's record replaced. -/
def State.setRamp (s : State) (ch : Channel) (r : Ramp) : State := { s with ramps := s.ramps.put ch r }

/-- A group's record. -/
def State.group (s : State) (g : Fin 4) : Group := s.groups.at g

/-- The state with a group's record replaced. -/
def State.setGroup (s : State) (g : Fin 4) (r : Group) : State := { s with groups := s.groups.put g r }

/-- The state with one step record of a group replaced. -/
def State.setStep (s : State) (g : Fin 4) (k : Fin 8) (t : Step) : State :=
  s.setGroup g { s.group g with steps := (s.group g).steps.put k t }

/-- The state with one zone record replaced. -/
def State.setZone (s : State) (z : Fin 12) (r : Zone) : State :=
  { s with cl := { s.cl with zones := s.cl.zones.put z r } }

/-- The state with one call-list entry replaced. -/
def State.setCall (s : State) (e : Fin 16) (c : Option Call) : State :=
  { s with cl := { s.cl with calls := s.cl.calls.put e c } }

/-- The state with what one beacon shows replaced. -/
def State.setShown (s : State) (b : Fin 8) (x : Shown) : State :=
  { s with bd := { s.bd with shown := s.bd.shown.put b x } }

/-- The state with one remote entry's record replaced. -/
def State.setRemote (s : State) (d : Fin 96) (r : Remote) : State :=
  { s with img := { s.img with remotes := s.img.remotes.put d r } }

/-- The state with one table section replaced. -/
def State.setSec (s : State) (i : Fin 8) (x : Sec) : State :=
  { s with ts := { s.ts with secs := s.ts.secs.put i x } }

/-- The state with an event for another block raised (log 7). -/
def State.push (s : State) (t : Task) : State := { s with agenda := s.agenda ++ [t] }

/-- The state at the expiry named by a command: the clock moves forward to it (log 2). -/
def State.reach (s : State) (deadline : Nat) : State := { s with now := max s.now deadline }

/-! ### Time -/

/-- A timer started now for a number of ticks. -/
def State.timerFor (s : State) (ticks : Nat) : Timer := some (s.now + ticks)

/-- The capture timer: 20 bits, one count each microsecond from full reset (R110). -/
def State.capture (s : State) : BitVec 20 := BitVec.ofNat 20 (s.now / Config.usec)

/-! ### Codes -/

/-- Class codes (R3). -/
def FrameClass.code : FrameClass → BitVec 3
  | .poll => 0 | .status => 1 | .command => 2 | .reply => 3 | .call => 4 | .manage => 5

/-- The class of a code; 6 and 7 are not classes (R3). -/
def FrameClass.ofCode (c : BitVec 3) : Option FrameClass :=
  match c.toNat with
  | 0 => some .poll | 1 => some .status | 2 => some .command
  | 3 => some .reply | 4 => some .call | 5 => some .manage
  | _ => none

/-- Result codes (R4). -/
inductive Result where
  | done | accepted | refused | busy | full | late | noAnswer | noRule | badRequest | crcMismatch
  | inconsistent | notReferenced | testing | rejected
  deriving DecidableEq, Repr

/-- The number of a result code (R4). -/
def Result.code : Result → Byte
  | .done => 0 | .accepted => 1 | .refused => 2 | .busy => 3 | .full => 4 | .late => 5
  | .noAnswer => 6 | .noRule => 7 | .badRequest => 8 | .crcMismatch => 9 | .inconsistent => 10
  | .notReferenced => 11 | .testing => 12 | .rejected => 13

/-- Refusal reasons (R4). -/
inductive Reason where
  | conditionFalse (cond : Byte)
  | transition | deckCondition | passageRule | state | estop | corrupt
  deriving DecidableEq, Repr

/-- The reason code (R4). -/
def Reason.code : Reason → Byte
  | .conditionFalse _ => 1 | .transition => 2 | .deckCondition => 3 | .passageRule => 4
  | .state => 5 | .estop => 6 | .corrupt => 7

/-- The argument of a refusal: the condition number for CONDITION_FALSE, 0 otherwise (R4). -/
def Reason.arg : Reason → Byte
  | .conditionFalse c => c
  | .transition | .deckCondition | .passageRule | .state | .estop | .corrupt => 0

/-- Deck condition codes (section 3.2). -/
def DeckCondition.code : DeckCondition → Byte
  | .harbour => 0 | .loading => 1 | .closingUp => 2 | .sea => 3 | .emergency => 4

/-- Ramp state codes (R80). -/
def RampState.code : RampState → Byte
  | .disabled => 0 | .stowedLocked => 1 | .starting => 2 | .lowering => 3 | .landing => 4
  | .landed => 5 | .raising => 6 | .stowing => 7 | .locking => 8 | .halting => 9 | .halted => 10
  | .jog => 11 | .fault => 12

/-- The motion states (R80). -/
def RampState.isMotion : RampState → Bool
  | .lowering | .landing | .raising | .stowing | .halting | .jog => true
  | .disabled | .stowedLocked | .starting | .landed | .locking | .halted | .fault => false

/-- The rest states (R80). -/
def RampState.isRest : RampState → Bool
  | .disabled | .stowedLocked | .landed | .halted | .fault => true
  | .starting | .lowering | .landing | .raising | .stowing | .locking | .halting | .jog => false

/-- Group state codes (R128). -/
def GroupState.code : GroupState → Byte
  | .idle => 0 | .warning => 1 | .waitPermit => 2 | .closing => 3 | .closed => 4 | .incomplete => 5
  | .opening => 6 | .stopped => 7

/-- Priority codes (R146): a lower number is a higher priority. -/
def Priority.code : Priority → Nat
  | .emergency => 0 | .safety => 1 | .operational => 2 | .information => 3

/-- Direction codes of READ_STATE (R172). -/
def Dir.code : Dir → Nat
  | .none => 0 | .lower => 1 | .raise => 2

/-- The sign of a direction: + for LOWER, − for RAISE (R87, R113). -/
def Dir.sign : Dir → Int
  | .none => 0 | .lower => 1 | .raise => -1

/-- Fault cause codes of READ_STATE (R172). -/
def Cause.code : Cause → Byte
  | .none => 0 | .encoder => 1 | .overspeed => 2 | .stall => 3 | .overload => 4 | .overtravel => 5
  | .pinTimeout => 6 | .motionTimeout => 7

/-- Proof-test identifiers (R190). -/
def TestId.code : TestId → Byte
  | .overspeed .a => 1 | .overspeed .b => 2 | .overload .a => 3 | .overload .b => 4
  | .landInput .a => 5 | .landInput .b => 6 | .scrub => 7

/-- Result values of a proof test (R191). -/
def TestResult.code : TestResult → Byte
  | .pass => 16 | .fail => 17 | .aborted => 18

/-- A Bool as a byte, 1 for true. -/
def bit (b : Bool) : Byte := if b then 1 else 0

/-- The two bytes of a 16-bit number, high byte first (R2). -/
def bytes16 (n : Nat) : List Byte := [BitVec.ofNat 8 (n / 256), BitVec.ofNat 8 n]

/-- A 16-bit number from its bytes, high byte first (R2). -/
def word16 (hi lo : Byte) : Nat := hi.toNat * 256 + lo.toNat

/-! ### Table bytes (R166, R167) -/

/-- The byte at an offset of a copy: 0 where nothing is listed. -/
def Memory.read : Memory → Nat → Byte
  | [], _ => 0
  | (b, v) :: rest, a => if b = a then v else Memory.read rest a

/-- The copy with the cell of one offset removed. -/
def Memory.erase : Memory → Nat → Memory
  | [], _ => []
  | (b, v) :: rest, a => if b = a then rest else (b, v) :: Memory.erase rest a

/-- The copy with a cell put at its place in the order; the offset is not listed in the copy. -/
def Memory.insert : Memory → Nat → Byte → Memory
  | [], a, x => [(a, x)]
  | (b, v) :: rest, a, x => if a < b then (a, x) :: (b, v) :: rest else (b, v) :: Memory.insert rest a x

/-- The copy with one byte written; a written 0 is what an unlisted offset reads, so it is not listed. -/
def Memory.write (m : Memory) (a : Nat) (x : Byte) : Memory :=
  if x = 0 then m.erase a else (m.erase a).insert a x

/-- The copy with bytes written from an offset on (R169). -/
def Memory.writes : Memory → Nat → List Byte → Memory
  | m, _, [] => m
  | m, a, x :: xs => Memory.writes (m.write a x) (a + 1) xs

/-- The canonical form: offsets strictly rising and no cell holding 0. -/
def Memory.wf : Memory → Bool
  | [] => true
  | [(_, v)] => v != 0
  | (a, v) :: (b, w) :: rest => v != 0 && decide (a < b) && Memory.wf ((b, w) :: rest)

/-- Section sizes in bytes (section 9.1). -/
def secSize (i : Fin 8) : Nat :=
  match i.val with
  | 0 => 576 | 1 => 403 | 2 => 770 | 3 => 128 | 4 => 96 | 5 => 12 | 6 => 48 | _ => 16

/-- The bytes of a copy from an offset on. -/
def Memory.slice (m : Memory) (off n : Nat) : List Byte := (List.range n).map fun i => m.read (off + i)

/-- A number of two bytes at an offset, high byte first (R167). -/
def Memory.read16 (m : Memory) (off : Nat) : Nat := word16 (m.read off) (m.read (off + 1))

/-- The section of the state. -/
def State.sec (s : State) (i : Fin 8) : Sec := s.ts.secs.at i

/-- Whether a section is in a section set: bit s stands for section s (section 9.1). -/
def inSet (set : Byte) (i : Fin 8) : Bool := set.getLsbD i.val

/-- The eight sections, in section order. -/
def allSecs : List (Fin 8) := [0, 1, 2, 3, 4, 5, 6, 7]

/-! ### The check code (R5) -/

/-- One bit fed to the check register: polynomial x^16 + x^15 + x^2 + 1. -/
def checkBit (c : Check) (b : Bool) : Check := if c.msb != b then (c <<< 1) ^^^ 0x8005#16 else c <<< 1

/-- One byte fed to the check register, most significant bit first. -/
def checkByte (c : Check) (b : Byte) : Check :=
  [7, 6, 5, 4, 3, 2, 1, 0].foldl (fun c i => checkBit c (b.getLsbD i)) c

/-- The check code over bytes: the register starts at all ones, the final value is not inverted. -/
def checkCode (bytes : List Byte) : Check := bytes.foldl checkByte 0xFFFF#16

/-! ### Frames and their bytes (R1, R5, R6, R7) -/

/-- Bytes 0 to 4+L of a frame (R1). -/
def Frame.body (f : Frame) : List Byte :=
  [(0#1 ++ (if f.urgent then 1#1 else 0#1) ++ f.dest : BitVec 8),
   (0#2 ++ f.src : BitVec 8),
   (f.cls.code ++ 0#1 ++ BitVec.ofNat 4 f.payload.length : BitVec 8),
   f.object, f.verb] ++ f.payload

/-- The bytes of a frame on a line: the check code follows, high byte first (R1, R5). -/
def Frame.bytes (f : Frame) : List Byte := f.body ++ bytes16 (checkCode f.body).toNat

/-- The number of bytes a frame takes on a line: 7 + L (R2). -/
def Frame.size (f : Frame) : Nat := 7 + f.payload.length

/-- The frame that a list of bytes carries, by the checks of R7 that read bytes: length, class code,
zero bits, source, check code. -/
def Frame.ofBytes (bs : List Byte) : Option Frame :=
  match bs with
  | b0 :: b1 :: b2 :: obj :: verb :: rest =>
    let len := (b2.extractLsb' 0 4).toNat
    match FrameClass.ofCode (b2.extractLsb' 5 3) with
    | none => none
    | some cls =>
      if len ≤ 12 ∧ bs.length = 7 + len ∧ b0.getLsbD 7 = false ∧ b1.extractLsb' 6 2 = 0#2
          ∧ b2.getLsbD 4 = false ∧ b1.extractLsb' 0 6 ≠ 63#6
          ∧ bytes16 (checkCode (bs.take (5 + len))).toNat = bs.drop (5 + len) then
        some { dest := b0.extractLsb' 0 6, urgent := b0.getLsbD 6, src := b1.extractLsb' 0 6,
               cls := cls, object := obj, verb := verb, payload := rest.take len }
      else none
  | _ => none

/-- Receive validation: the valid frame the collected characters carry, or none (R7). -/
def receive (chars : List RxChar) : Option Frame :=
  if chars.all RxChar.good then Frame.ofBytes (chars.map RxChar.data) else none

/-! ### Image entries (R19, R20, R31) -/

/-- The value of an image entry; 255, UNKNOWN, for a number that is no index. -/
def State.value (s : State) (i : Nat) : Byte :=
  if h : i < 32 then s.img.locals.at ⟨i, h⟩
  else if h : i - 32 < 96 then (s.img.remotes.at ⟨i - 32, h⟩).value
  else 255

/-- The image index of definition d (R22). -/
def remoteIndex (d : Fin 96) : Fin 128 := ⟨32 + d.val, by omega⟩

/-- The definition number of an image index, for a remote entry. -/
def remoteOf? (i : Nat) : Option (Fin 96) :=
  if 32 ≤ i then (if h : i - 32 < 96 then some ⟨i - 32, h⟩ else none) else none

/-- A write to a local entry: an image-change event when the value differs (R20). -/
def State.writeLocal (s : State) (i : Fin 32) (v : Byte) : State :=
  if s.img.locals.at i = v then s
  else
    { s with
      img := { s.img with locals := s.img.locals.put i v }
      agenda := s.agenda ++ [.imageChange ⟨i.val, by omega⟩ (s.img.locals.at i) v] }

/-- A remote entry's record replaced: an image-change event when the value differs (R25, R28, R36). -/
def State.changeRemote (s : State) (d : Fin 96) (r : Remote) : State :=
  let old := (s.img.remotes.at d).value
  let s := s.setRemote d r
  if old = r.value then s else s.push (.imageChange (remoteIndex d) old r.value)

/-- The node of a definition: the low six bits of its node byte, all of it in a used definition (R22). -/
def ObjDef.node (d : ObjDef) : NodeNo := d.nodeByte.truncate 6

/-- Whether an entry is used (R22). -/
def ObjDef.used (d : ObjDef) : Bool := d.kind != .none

/-- The age of a remote entry in whole ms, saturating at 65,535; an unused entry's age is 0 (R27). -/
def State.age (s : State) (d : Fin 96) : Nat :=
  if (s.img.defs.at d).used then min 65535 ((s.now - (s.img.remotes.at d).since) / Config.msec) else 0

/-- The tick at which a remote entry's age reaches its limit plus 1 ms (R28). -/
def State.freshnessAt (s : State) (d : Fin 96) : Nat :=
  (s.img.remotes.at d).since + ((s.img.defs.at d).limit + 1) * Config.msec

/-- The condition of OBJECT_STALE: a used remote entry is STALE (R30). -/
def State.anyStale (s : State) : Bool :=
  (List.finRange 96).any fun d => (s.img.defs.at d).used && (s.img.remotes.at d).standing == .stale

/-! ### Frames the part builds -/

/-- A REPLY of the part to a frame from a source about an object (R4). -/
def State.replyFrame (s : State) (dest : NodeNo) (object : Byte) (code : Result) (payload : List Byte) :
    Frame :=
  { dest := dest, urgent := false, src := s.node, cls := .reply, object := object, verb := code.code,
    payload := payload }

/-- A notice of one of the part's own objects (R10, R43, R129). -/
def State.noticeFrame (s : State) (object value : Byte) (payload : List Byte) : Frame :=
  { dest := s.node, urgent := false, src := s.node, cls := .status, object := object, verb := value,
    payload := payload }

/-! ### The bridge transmit queue (R10, R76, R77) -/

/-- Two STATUS frames of the same source node and object (R76). -/
def sameKey (f g : Frame) : Bool :=
  f.cls == .status && g.cls == .status && f.src == g.src && f.object == g.object

/-- A queue whose frame with the key of `r` is replaced in place by `r` (R76). -/
def replaceKey (r : BridgeRec) : List BridgeRec → List BridgeRec
  | [] => []
  | x :: xs => if sameKey x.frame r.frame then r :: xs else x :: replaceKey r xs

/-- A queue without its oldest STATUS (R77). -/
def dropOldestStatus : List BridgeRec → List BridgeRec
  | [] => []
  | x :: xs => if x.frame.cls = .status then xs else x :: dropOldestStatus xs

/-- What became of a frame placed in the bridge transmit queue. -/
inductive Placed where
  | joined     -- in the queue, nothing lost
  | overran    -- in the queue, an older STATUS lost
  | discarded  -- the frame itself lost
  deriving DecidableEq, Repr

/-- A frame placed in the bridge transmit queue (R76, R77). -/
def enqueue (q : List BridgeRec) (r : BridgeRec) : List BridgeRec × Placed :=
  if q.any (fun x => sameKey x.frame r.frame) then (replaceKey r q, .joined)
  else if q.length < Config.bridgeQueueSize then (q ++ [r], .joined)
  else if q.any (fun x => x.frame.cls == .status) then (dropOldestStatus q ++ [r], .overran)
  else (q, .discarded)

/-- An idle transmitter with a frame queued takes the oldest and begins its transmission (R10). -/
def State.kickBridge (s : State) : State :=
  match s.bli.tx, s.bli.queue with
  | none, r :: rest =>
    let stop := s.now + r.frame.size * Config.charTime
    { s with bli := { s.bli with
        queue := rest
        tx := some { frame := r.frame, restartReply := r.restartReply, lastStop := stop,
                     idleAt := stop + Config.gapTime } } }
  | _, _ => s

/-- A frame placed, without the flag of an overrun; the transmitter takes it if it is idle. -/
def State.placeRaw (s : State) (r : BridgeRec) : State × Placed :=
  let (q, out) := enqueue s.bli.queue r
  (({ s with bli := { s.bli with queue := q } }).kickBridge, out)

/-! ### The deck transmit queue (R69, R70) -/

/-- Whether the queue has a place for a frame (R69). -/
def Dls.hasPlace (d : Dls) (urgent : Bool) : Bool :=
  decide (d.urgent.length + d.normal.length < Config.deckQueueSize)
    && (urgent || decide (d.normal.length < Config.deckNormalSize))

/-- A frame joins the end of its order; with the line FREE the arbiter is to choose (R69, R73). -/
def Dls.accept (d : Dls) (r : DeckRec) : Dls :=
  let d := { d with choose := d.choose || decide (d.line = Line.free) }
  if r.urgent then { d with urgent := d.urgent ++ [r] } else { d with normal := d.normal ++ [r] }

/-- A frame offered to the deck transmit queue: the state and whether it was admitted (R69). -/
def State.offer (s : State) (r : DeckRec) : State × Bool :=
  if s.dls.hasPlace r.urgent then ({ s with dls := s.dls.accept r }, true) else (s, false)

/-- Whether a frame forwarded from the bridge is urgent (R70). -/
def forwardUrgent (f : Frame) (opt : Bool) : Bool := opt || (f.cls == .command && f.verb == 3)

end Sys2Proof.Machine
end

