-- ==== Sys2Proof/Machine/Flags.lean ====
section
/-! DEFINITION. The Fault Collector: raising and clearing flags, the summaries and the alarm state; placing a
frame in the bridge transmit queue, as an overrun raises a flag; and the summary notice, placed once at the end
of an event. -/

namespace Sys2Proof.Machine

open Sys2Proof

/-- The ten flags of a ramp channel, in the order of their numbers (R184). -/
inductive RampFlag where
  | encoder | overspeed | stall | overload | overtravel | pinTimeout | motionTimeout | permitLost
  | lifted | estop
  deriving DecidableEq, Repr

/-- The place of a ramp flag among the ten of its channel (R184). -/
def RampFlag.place : RampFlag → Nat
  | .encoder => 0 | .overspeed => 1 | .stall => 2 | .overload => 3 | .overtravel => 4
  | .pinTimeout => 5 | .motionTimeout => 6 | .permitLost => 7 | .lifted => 8 | .estop => 9

/-- The individual flags (R184). -/
inductive Flag where
  | blFormat | dlFormat | bridgeSilent | bridgeQueueOverrun | dlNoAnswer | objectStale
  | ramp (ch : Channel) (f : RampFlag)
  | doorFailed | doorBreach | groupIncomplete
  | zoneLost | warnDegraded | callEvicted
  | sectionEmpty | sectionCorrupt | commitExpired
  deriving DecidableEq, Repr

/-- The number of a flag, 0 to 34 (R184). -/
def Flag.number : Flag → Nat
  | .blFormat => 0 | .dlFormat => 1 | .bridgeSilent => 2 | .bridgeQueueOverrun => 3
  | .dlNoAnswer => 4 | .objectStale => 5
  | .ramp .a f => 6 + f.place
  | .ramp .b f => 16 + f.place
  | .doorFailed => 26 | .doorBreach => 27 | .groupIncomplete => 28
  | .zoneLost => 29 | .warnDegraded => 30 | .callEvicted => 31
  | .sectionEmpty => 32 | .sectionCorrupt => 33 | .commitExpired => 34

/-- The flag set with one flag in it. -/
def Flag.bit (f : Flag) : BitVec 35 := 1#35 <<< f.number

/-- The flag sets of the seven summaries, bit 0 LINE to bit 6 TABLES (R184, R186). -/
def summaryGroups : List (BitVec 35) :=
  [0x1F#35,            -- LINE: 0..4
   0x20#35,            -- NODES: 5
   0xFFC0#35,          -- RAMP_A: 6..15
   0x3FF0000#35,       -- RAMP_B: 16..25
   0x1C000000#35,      -- DOORS: 26..28
   0xE0000000#35,      -- CALLS: 29..31
   0x700000000#35]     -- TABLES: 32..34

/-- The number formed from truth values, the first in bit 0. -/
def bitsToNat : List Bool → Nat
  | [] => 0
  | b :: bs => (if b then 1 else 0) + 2 * bitsToNat bs

/-- The summary value: a summary is set while a flag of its own is set with its mask clear (R188). -/
def summaryOf (flags masks : BitVec 35) : BitVec 7 :=
  BitVec.ofNat 7 (bitsToNat (summaryGroups.map fun g => flags &&& ~~~masks &&& g != 0#35))

/-- Whether ALARM_N is active: an unmasked summary, or SECTION_CORRUPT whatever the masks (R189). -/
def alarmOf (flags : BitVec 35) (summary summaryMasks : BitVec 7) : Bool :=
  summary &&& ~~~summaryMasks != 0#7 || flags.getLsbD 33

/-- The flags with one more set. -/
def State.setFlag (s : State) (f : Flag) : State :=
  { s with fc := { s.fc with flags := s.fc.flags ||| f.bit } }

/-- A summary value and an alarm state taken, their notice owed; a changed summary value goes to local entry 11
(R188, R189). -/
def State.takeSummary (s : State) (summary : BitVec 7) (alarm : Bool) : State :=
  ({ s with fc := { s.fc with summary := summary, alarm := alarm, owed := true } }).writeLocal 11
    (summary.zeroExtend 8)

/-- The summaries and the alarm state formed again; a change of either is to be told at the end of the event
(R188, R189, log 48). -/
def State.reform (s : State) : State :=
  let sum := summaryOf s.fc.flags s.fc.masks
  let alarm := alarmOf s.fc.flags sum s.fc.summaryMasks
  if sum = s.fc.summary ∧ alarm = s.fc.alarm then s else s.takeSummary sum alarm

/-- A flag raised: it becomes set, and the summaries and the alarm state are formed again (R184). -/
def State.raiseFlag (s : State) (f : Flag) : State := (s.setFlag f).reform

/-- A frame placed in the bridge transmit queue (R76, R77); the discard of the RESTART reply is the
event at which that restart takes effect (R181). -/
def State.place (s : State) (r : BridgeRec) : State :=
  match s.placeRaw r with
  | (s, .joined) => s
  | (s, .overran) => s.raiseFlag .bridgeQueueOverrun
  | (s, .discarded) =>
    let s := s.raiseFlag .bridgeQueueOverrun
    if r.restartReply then s.push .restartEffect else s

/-- A REPLY of the part placed in the bridge transmit queue (R4). -/
def State.reply (s : State) (dest : NodeNo) (object : Byte) (code : Result) (payload : List Byte := []) :
    State :=
  s.place { frame := s.replyFrame dest object code payload, restartReply := false }

/-- A REPLY REFUSED: reason, argument, late marker (R4). -/
def State.refuse (s : State) (dest : NodeNo) (object : Byte) (r : Reason) (late : Bool := false) : State :=
  s.reply dest object .refused [r.code, r.arg, Machine.bit late]

/-- A notice of one of the part's own objects placed in the bridge transmit queue. -/
def State.notice (s : State) (object value : Byte) (payload : List Byte) : State :=
  s.place { frame := s.noticeFrame object value payload, restartReply := false }

/-- The notice of object 31 that an event owes, placed at its end: the summary value and the alarm state as they
stand (R187, R189, log 48). -/
def State.announce (s : State) : State :=
  ({ s with fc := { s.fc with owed := false } }).notice 31 (s.fc.summary.zeroExtend 8)
    [Machine.bit s.fc.alarm]

/-! ### Condition flags (R185) -/

/-- Whether the ESTOP condition of a channel holds: the level active and the channel not DISABLED. -/
def State.estopHolds (s : State) (ch : Channel) : Bool :=
  s.estop.level && (s.ramp ch).state != .disabled

/-- Whether one or more ACTIVE sections have a status. -/
def State.anySec (s : State) (st : ActiveStatus) : Bool := allSecs.any fun i => (s.sec i).status == st

/-- The condition flags whose condition holds (R185). -/
def State.holding (s : State) : BitVec 35 :=
  (if s.bli.silence = .expired then Flag.bridgeSilent.bit else 0)
    ||| (if s.anyStale then Flag.objectStale.bit else 0)
    ||| (if s.estopHolds .a then (Flag.ramp .a .estop).bit else 0)
    ||| (if s.estopHolds .b then (Flag.ramp .b .estop).bit else 0)
    ||| (if s.anySec .empty then Flag.sectionEmpty.bit else 0)
    ||| (if s.anySec .corrupt then Flag.sectionCorrupt.bit else 0)

/-- The flags left by a clear of a set: a condition flag whose condition holds stays (R185, R187). -/
def State.flagsAfterClear (s : State) (set : BitVec 35) : BitVec 35 :=
  s.fc.flags &&& ~~~(set &&& ~~~s.holding)

/-- The five bytes of a flag set: flag b is bit b mod 8 of byte b div 8 (R184). -/
def flagBytes (f : BitVec 35) : List Byte :=
  [f.extractLsb' 0 8, f.extractLsb' 8 8, f.extractLsb' 16 8, f.extractLsb' 24 8,
   (f.extractLsb' 32 3).zeroExtend 8]

/-- The flag set of five bytes; bits 35 to 39 belong to no flag (R184). -/
def flagsOfBytes (b0 b1 b2 b3 b4 : Byte) : BitVec 35 := (b4 ++ b3 ++ b2 ++ b1 ++ b0 : BitVec 40).truncate 35

/-! ### Proof tests (R191) -/

/-- The count of the monitor under test set to 0 when its test starts or ends (R192, R195). -/
def State.zeroTestCount (s : State) (id : TestId) : State :=
  match id with
  | .overspeed ch => s.setRamp ch { s.ramp ch with overspeed := 0 }
  | .overload ch => s.setRamp ch { s.ramp ch with overload := 0 }
  | .landInput _ => s
  | .scrub => s

/-- A running test ends: the record takes its identifier and result, and the notice of object 30 is
placed (R191). -/
def State.endTest (s : State) (result : TestResult) : State :=
  match s.fc.test with
  | none => s
  | some t =>
    let s := s.zeroTestCount t.id
    let s := { s with fc := { s.fc with test := none, last := some (t.id, result) } }
    s.notice 30 result.code [t.id.code, t.arg]

/-- The channel a test acts on; none for SCRUB (R190). -/
def TestId.channel? : TestId → Option Channel
  | .overspeed ch | .overload ch | .landInput ch => some ch
  | .scrub => none

/-- Whether a ramp test runs on a channel (R191). -/
def State.testingOn (s : State) (ch : Channel) : Bool :=
  match s.fc.test with
  | some t => t.id.channel? == some ch
  | none => false

/-- Whether a given test runs. -/
def State.runsTest (s : State) (id : TestId) : Bool :=
  match s.fc.test with
  | some t => t.id == id
  | none => false

/-- The ramp test of a channel, if one runs, is aborted (R195). -/
def State.abortTestOn (s : State) (ch : Channel) : State :=
  if s.testingOn ch then s.endTest .aborted else s

end Sys2Proof.Machine
end

