-- ==== Sys2Proof/Machine/Operands.lean ====
section
/-! DEFINITION. Operand forms: the records the part reads from the bytes of a table section (R167), the
evaluation of a condition (R38 to R42) and of the passage entries (R57, R59). -/

namespace Sys2Proof.Machine

open Sys2Proof

/-- A zone set of two bytes (R167). -/
def zoneSetOf (n : Nat) : ZoneSet := BitVec.ofNat 12 n

/-! ### OBJECTS -/

/-- The kind a byte stands for; a byte above 4 is refused at commit (R167, R174). -/
def Kind.ofByte (b : Byte) : Kind :=
  match b.toNat with
  | 1 => .door | 2 => .zone | 3 => .sensor | 4 => .generic | _ => .none

/-- Kind codes (R22). -/
def Kind.code : Kind → Nat
  | .none => 0 | .door => 1 | .zone => 2 | .sensor => 3 | .generic => 4

/-- Definition d, at offset 6d (R167). The poll class of an unused definition, whose byte no check reads, is
FAST for 0 and SLOW for any other byte (log 35). -/
def readDef (m : Memory) (d : Fin 96) : ObjDef :=
  let o := 6 * d.val
  { kind := Kind.ofByte (m.read o), nodeByte := m.read (o + 1), object := m.read (o + 2),
    poll := if m.read (o + 3) = 0 then .fast else .slow, limit := m.read16 (o + 4) }

/-- The 96 definitions. -/
def readDefs (m : Memory) : Tab ObjDef 96 := Tab.make (readDef m)

/-! ### RAMPS -/

/-- The offset of a channel's record: A at 0, B at 64 (R167). -/
def rampOffset : Channel → Nat
  | .a => 0 | .b => 64

/-- A channel's record (R167). -/
def readRamp (m : Memory) (ch : Channel) : RampParams :=
  let o := rampOffset ch
  let b := fun i => (m.read (o + i)).toNat
  let w := fun i => m.read16 (o + i)
  { enable := b 0 != 0, stowPos := w 1, deployPos := w 3, wLand := w 5, wStow := w 7, wOver := w 9,
    wUnder := w 11, vMax := w 13, vCreep := w 15, vStill := w 17, vMargin := w 19, accel := w 21,
    accelStop := w 23, gSlow := b 25, filter := b 26, kff := w 27, kp := w 29, ki := b 31,
    iLim := w 32, pwmN := w 34, f0 := w 36, dMax := w 38, nSettle := b 40, nLift := b 41,
    nStall := b 42, nOver := b 43, pMax := w 44, tPin := w 46, tMotion := w 48, tPrewarn := b 50,
    lowerPermit := m.read (o + 51), raisePermit := m.read (o + 52), zones := zoneSetOf (w 53),
    message := m.read (o + 55), pattern := b 56 }

/-! ### DOORS -/

/-- Group g, at offset 24g; a group with door count 0 is undefined and carries no attribute (R126,
R167). -/
def readGroup (m : Memory) (g : Fin 4) : GroupDef :=
  let o := 24 * g.val
  let b := fun i => (m.read (o + i)).toNat
  let n := b 1
  { sea := n != 0 && (m.read o).getLsbD 0, fire := n != 0 && (m.read o).getLsbD 1,
    doors := (List.range (min n 8)).filterMap fun i => remoteOf? (b (2 + i)),
    zones := zoneSetOf (m.read16 (o + 10)), message := m.read (o + 12), pattern := b 13,
    tWarn := b 14, tEwarn := b 15, tSpace := b 16, tTravel := b 17, tRetry := b 18,
    closePermit := m.read (o + 19), openPermit := m.read (o + 20) }

/-! ### CALLS, BEACONS, SETTINGS -/

/-- Zone z's image index, 0 for an unfitted zone (R159, R167). -/
def readZoneIndex (m : Memory) (z : Fin 12) : Nat := (m.read z.val).toNat

/-- The zone a byte names, if it is 0..11. -/
def zoneOf? (n : Nat) : Option (Fin 12) := if h : n < 12 then some ⟨n, h⟩ else none

/-- Beacon b, at offset 3b (R162, R167). -/
def readBeacon (m : Memory) (b : Fin 8) : BeaconRec :=
  let o := 3 * b.val
  { source := match (m.read o).toNat with
      | 1 => (zoneOf? (m.read (o + 1)).toNat).elim .none .zone
      | 2 => .ramp .a
      | 3 => .ramp .b
      | _ => .none
    intensity := ((m.read (o + 2)).extractLsb' 0 5).toNat
    opposite := (m.read (o + 2)).getLsbD 7 }

/-- Pattern p + 1, at offset 24 + 3p (R163, R167). -/
def readPattern (m : Memory) (p : Fin 8) : Pattern :=
  { steps := BitVec.ofNat 16 (m.read16 (24 + 3 * p.val)), length := (m.read (26 + 3 * p.val)).toNat }

/-- The SETTINGS fields the blocks take (R167, R176). -/
def readSettings (m : Memory) : Settings :=
  { tBridge := m.read16 6, tWarnwait := (m.read 8).toNat, loadingPermit := m.read 9,
    fireEnable := m.read 10 != 0, emZones := zoneSetOf (m.read16 11), emMessage := m.read 13,
    emPattern := (m.read 14).toNat, faultPattern := (m.read 15).toNat }

/-- The individual masks of SETTINGS (R167, R188). -/
def readMasks (m : Memory) : BitVec 35 :=
  flagsOfBytes (m.read 0) (m.read 1) (m.read 2) (m.read 3) (m.read 4)

/-- The summary masks of SETTINGS (R167, R188). -/
def readSummaryMasks (m : Memory) : BitVec 7 := (m.read 5).truncate 7

/-! ### CONDITIONS (R38 to R42) -/

/-- The comparison of a term; codes as R167 gives them, and any other code false (R38, R39). -/
def compareTerm (test value operand : Byte) : Bool :=
  match test.toNat with
  | 0 => value == operand
  | 1 => value != operand
  | 2 => decide (value.toNat ≤ operand.toNat)
  | 3 => decide (operand.toNat ≤ value.toNat)
  | _ => false

/-- A term: false on an entry that reads 255, otherwise its comparison (R39). -/
def State.evalTerm (s : State) (index test operand : Byte) : Bool :=
  let v := s.value index.toNat
  v != 255 && compareTerm test v operand

/-- The terms of condition c's record that its term count admits, evaluated (R38, R40). -/
def State.evalTerms (s : State) (c : Nat) : List Bool :=
  let m := (s.sec 1).active
  let o := 13 * (c - 1)
  let count := ((m.read o).extractLsb' 0 4).toNat
  (List.range (min count 4)).map fun t =>
    s.evalTerm (m.read (o + 1 + 3 * t)) (m.read (o + 2 + 3 * t)) (m.read (o + 3 + 3 * t))

/-- A condition: 0 is always true; another is false while CONDITIONS is EMPTY or CORRUPT, and otherwise
its terms combined by ALL or ANY (R38, R40, R42). -/
def State.condition (s : State) (cond : Byte) : Bool :=
  if cond = 0 then true
  else if (s.sec 1).status = .valid then
    let anyMode := ((s.sec 1).active.read (13 * (cond.toNat - 1))).extractLsb' 4 4 != 0#4
    if anyMode then (s.evalTerms cond.toNat).any id else (s.evalTerms cond.toNat).all id
  else false

/-! ### PASSAGE (R57, R59) -/

/-- Directions a passage entry can name (R57). -/
inductive PassDir where
  | bridgeToDeck | deckToBridge | either
  deriving DecidableEq, Repr

/-- The actions (R57). -/
inductive Action where
  | pass | drop | refuse | take | guard | hold
  deriving DecidableEq, Repr

/-- A passage entry with an action other than NONE (R57). -/
structure PassEntry where
  dir : PassDir
  cls : BitVec 3
  clsMask : BitVec 3
  dest : BitVec 6
  destMask : BitVec 6
  object : Byte
  objectMask : Byte
  verb : Byte
  verbMask : Byte
  action : Action
  urgent : Bool
  cond : Byte
  hold : Nat
  deriving DecidableEq, Repr

/-- The action a code names; NONE, and a code refused at commit, name none (R57). -/
def actionOf? (n : Nat) : Option Action :=
  match n with
  | 1 => some .pass | 2 => some .drop | 3 => some .refuse | 4 => some .take | 5 => some .guard
  | 6 => some .hold | _ => none

/-- Entry e, at offset 2 + 12e; none when its action is NONE (R57, R167). -/
def readPassEntry (m : Memory) (e : Nat) : Option PassEntry :=
  let o := 2 + 12 * e
  let b0 := m.read o
  match actionOf? (b0.extractLsb' 0 4).toNat with
  | none => none
  | some act =>
    some
      { dir := match (b0.extractLsb' 4 2).toNat with
          | 0 => .bridgeToDeck | 1 => .deckToBridge | _ => .either
        cls := (m.read (o + 1)).extractLsb' 4 3, clsMask := (m.read (o + 1)).extractLsb' 0 3
        dest := (m.read (o + 2)).extractLsb' 0 6, destMask := (m.read (o + 3)).extractLsb' 0 6
        object := m.read (o + 4), objectMask := m.read (o + 5)
        verb := m.read (o + 6), verbMask := m.read (o + 7)
        action := act, urgent := b0.getLsbD 7, cond := m.read (o + 8)
        hold := (m.read (o + 9)).toNat }

/-- A value and mask pair agrees with a key: every bit clear in the mask is the same in both (R59). -/
def agrees {w : Nat} (value mask key : BitVec w) : Bool := (value ^^^ key) &&& ~~~mask == 0#w

/-- Whether an entry matches a frame offered in a direction; the destination key of a deck-to-bridge
STATUS is its source (R58, R59). -/
def PassEntry.matchesFrame (p : PassEntry) (toDeck : Bool) (f : Frame) : Bool :=
  (match p.dir with
    | .either => true
    | .bridgeToDeck => toDeck
    | .deckToBridge => !toDeck)
    && agrees p.cls p.clsMask f.cls.code
    && agrees p.dest p.destMask (if toDeck then f.dest else f.src)
    && agrees p.object p.objectMask f.object
    && agrees p.verb p.verbMask f.verb

/-- The first entry, in index order, that matches a frame (R59). -/
def State.firstMatch (s : State) (toDeck : Bool) (f : Frame) : Option PassEntry :=
  (List.range 64).findSome? fun e =>
    match readPassEntry (s.sec 2).active e with
    | some p => if p.matchesFrame toDeck f then some p else none
    | none => none

/-- Whether the header default of the bridge-to-deck direction drops (1) or refuses (0) (R57). -/
def State.defaultDrops (s : State) : Bool := (s.sec 2).active.read 0 != 0

end Sys2Proof.Machine
end

