-- ==== Sys2Proof/Machine/BeaconDriver.lean ====
section
/-! DEFINITION. The Beacon Driver: shown patterns, restarts, steps and intensities (R162 to R165). -/

namespace Sys2Proof.Machine

open Sys2Proof

/-- The eight beacons, in order. -/
def allBeacons : List (Fin 8) := [0, 1, 2, 3, 4, 5, 6, 7]

/-- The shown pattern of a source (R162). -/
def State.sourcePattern (s : State) : BeaconSource → Nat
  | .none => 0
  | .zone z =>
    match (s.cl.zones.at z).owner with
    | none => 0
    | some e => ((s.cl.calls.at e).map Call.pattern).getD 0
  | .ramp ch =>
    let r := s.ramp ch
    if r.state = .starting ∨ r.state = .locking ∨ r.state.isMotion then r.params.pattern
    else if r.state = .fault then s.settings.faultPattern
    else 0

/-- The record of pattern p, 1 to 8 (R163). -/
def Bd.pattern (b : Bd) (p : Nat) : Pattern :=
  if h : p - 1 < 8 then b.patterns.at ⟨p - 1, h⟩ else { steps := 0, length := 0 }

/-- Whether a step of a pattern is lit on a beacon: the opposite-phase option exchanges lit and dark
(R163). -/
def State.stepLit (s : State) (b : Fin 8) (p : Nat) (i : Fin 16) : Bool :=
  p != 0 && ((s.bd.pattern p).steps.getLsbD i.val != (s.bd.recs.at b).opposite)

/-- The n formed at the start of a lit step: the beacon's intensity, or 31 in EMERGENCY (R164). -/
def State.intensity (s : State) (b : Fin 8) : Nat :=
  if s.dcc.deck = .emergency then 31 else (s.bd.recs.at b).intensity

/-- A beacon at a step of a pattern, its step timer started for the step length; without a pattern the timer is
stopped and the output dark, and the step position is 0 when the pattern has become none (R162, R163, log 54). -/
def State.beaconAt (s : State) (b : Fin 8) (p : Nat) (i : Fin 16) : Shown :=
  { pattern := p, step := i
    timer := if p = 0 then none else s.timerFor ((s.bd.pattern p).length * Config.stepUnit)
    level := if s.stepLit b p i then s.intensity b else 0 }

/-- A beacon's shown pattern formed afresh: it restarts at step 0 when the pattern changes, or goes
dark; otherwise it goes on (R162). -/
def State.formBeacon (s : State) (b : Fin 8) : State :=
  let p := s.sourcePattern (s.bd.recs.at b).source
  if p = (s.bd.shown.at b).pattern then s else s.setShown b (s.beaconAt b p 0)

/-- Every beacon's shown pattern formed afresh (R162). -/
def State.formBeacons (s : State) : State := allBeacons.foldl State.formBeacon s

/-- A swap of BEACONS: every beacon restarts, whether or not its shown pattern changed (R165). -/
def State.restartBeacons (s : State) : State :=
  allBeacons.foldl (fun s b => s.setShown b (s.beaconAt b (s.sourcePattern (s.bd.recs.at b).source) 0)) s

/-- The entry to EMERGENCY: every lit step in progress is raised to 31 (R164). -/
def State.raiseBeacons (s : State) : State :=
  allBeacons.foldl
    (fun s b =>
      let x := s.bd.shown.at b
      if s.stepLit b x.pattern x.step then s.setShown b { x with level := 31 } else s) s

/-- The expiry of a beacon's step timer: the next step, 15 going back to 0, and the timer again
(R163). -/
def State.stepBeacon (s : State) (b : Fin 8) : State :=
  let x := s.bd.shown.at b
  match x.timer with
  | none => s
  | some d =>
    let s := s.reach d
    s.setShown b (s.beaconAt b x.pattern (x.step + 1))

end Sys2Proof.Machine
end

