-- ==== Sys2Proof/Machine/Calls.lean ====
section
/-! DEFINITION. The Call List and Zone Allocator: placing, removing and preempting calls, PLAY and CUT
frames, ready times, progress of calls (R146 to R161). -/

namespace Sys2Proof.Machine

open Sys2Proof

/-- The twelve zones, in order. -/
def allZones : List (Fin 12) := [0, 1, 2, 3, 4, 5, 6, 7, 8, 9, 10, 11]

/-- The sixteen entries, in order. -/
def allEntries : List (Fin 16) := [0, 1, 2, 3, 4, 5, 6, 7, 8, 9, 10, 11, 12, 13, 14, 15]

/-- The general entries (R146). -/
def generalEntries : List (Fin 16) := [7, 8, 9, 10, 11, 12, 13, 14, 15]

/-- A finite call has repetitions 1 to 15 (R146). -/
def Call.finite (c : Call) : Bool := c.reps != 0

/-- A call of priority EMERGENCY: its PLAY and CUT frames are urgent (R70, R153). -/
def Call.isEmergency (c : Call) : Bool := decide (c.priority = Priority.emergency)

/-- A call that wants a zone: the zone is in its set and its mark there is not DONE (R152). -/
def Call.wants (c : Call) (z : Fin 12) : Bool :=
  match c.marks.at z with
  | .pending _ | .playing _ => true
  | .none | .done => false

/-- Whether a call's mark in a zone is PLAYING. -/
def Call.isPlaying (c : Call) (z : Fin 12) : Bool :=
  match c.marks.at z with
  | .playing _ => true
  | .none | .pending _ | .done => false

/-- A call with one mark replaced. -/
def Call.setMark (c : Call) (z : Fin 12) (m : Mark) : Call := { c with marks := c.marks.put z m }

/-- The marks of a call newly placed: PENDING with node wait clear in each zone of its set (R147). -/
def freshMarks (set : ZoneSet) : Tab Mark 12 :=
  Tab.make fun z => if set.getLsbD z.val then .pending false else .none

/-- T_warnwait in ticks; a zero-filled SETTINGS gives 0, and the call list then uses 5 s (R156). -/
def State.warnwait (s : State) : Nat :=
  (if s.settings.tWarnwait = 0 then 5 else s.settings.tWarnwait) * Config.second

/-- A call filled for placement now (R147). -/
def State.newCall (s : State) (origin : CallOrigin) (set : ZoneSet) (message : Byte) (p : Priority)
    (reps pattern : Nat) : Call :=
  { origin := origin, zones := set, message := message, priority := p, reps := reps,
    pattern := pattern, ready := none, wait := s.timerFor s.warnwait, marks := freshMarks set }

/-- The entry that is to own a zone: highest priority, earliest in the placement order among equals,
among the calls that want it (R152). -/
def CallList.choose (cl : CallList) (z : Fin 12) : Option (Fin 16) :=
  (cl.order.foldl
    (fun best e =>
      match cl.calls.at e with
      | none => best
      | some c =>
        if c.wants z then
          match best with
          | none => some (e, c.priority.code)
          | some (_, p) => if c.priority.code < p then some (e, c.priority.code) else best
        else best)
    none).map Prod.fst

/-- The call that owns a zone, with its entry number. -/
def State.ownerCall (s : State) (z : Fin 12) : Option (Fin 16 × Call) :=
  match (s.cl.zones.at z).owner with
  | none => none
  | some e => (s.cl.calls.at e).map fun c => (e, c)

/-- Whether an entry is present with its ready time reached (R156). -/
def State.callReadyAt (s : State) (e : Fin 16) : Bool :=
  match s.cl.calls.at e with
  | none => false
  | some c => c.ready.isSome

/-- The mark of an entry in a zone replaced. -/
def State.setMark (s : State) (e : Fin 16) (z : Fin 12) (m : Mark) : State :=
  match s.cl.calls.at e with
  | none => s
  | some c => s.setCall e (some (c.setMark z m))

/-! ### PLAY and CUT frames (R154) -/

/-- The node and object of a zone's mapped image entry, as the Object Image defines it; none for an
unfitted zone (R154, R159). -/
def State.zoneTarget (s : State) (z : Fin 12) : Option (NodeNo × Byte) :=
  (remoteOf? (s.cl.zones.at z).index).map fun d => ((s.img.defs.at d).node, (s.img.defs.at d).object)

/-- A CUT to a node and object, with the zone's issue, offered or kept as the zone's pending CUT; one
built while one is pending is not kept twice (R154). -/
def State.cutTo (s : State) (z : Fin 12) (node : NodeNo) (object : Byte) (urgent : Bool) : State :=
  let zn := s.cl.zones.at z
  let r : DeckRec :=
    { frame := { dest := node, urgent := false, src := s.node, cls := .call, object := object,
                 verb := 2, payload := [] }
      urgent := urgent, cond := none, origin := .zone z zn.issue false }
  match s.offer r with
  | (s, true) => s
  | (s, false) => if zn.pendingCut.isSome then s else s.setZone z { zn with pendingCut := some r }

/-- A CUT built for a zone; none for an unfitted zone (R153). -/
def State.buildCut (s : State) (z : Fin 12) (urgent : Bool) : State :=
  match s.zoneTarget z with
  | none => s
  | some (node, object) => s.cutTo z node object urgent

/-- A PLAY of a call built for a zone with the zone's issue: it replaces a pending PLAY, whether it finds a
place at once or is kept as the zone's pending PLAY itself (R154). -/
def State.buildPlay (s : State) (z : Fin 12) (node : NodeNo) (object : Byte) (c : Call) : State :=
  let zn := s.cl.zones.at z
  let r : DeckRec :=
    { frame := { dest := node, urgent := false, src := s.node, cls := .call, object := object,
                 verb := 1, payload := [c.message, BitVec.ofNat 8 c.reps] }
      urgent := c.isEmergency, cond := none, origin := .zone z zn.issue true }
  match s.offer r with
  | (s, true) => s.setZone z { zn with pendingPlay := none }
  | (s, false) => s.setZone z { zn with pendingPlay := some r }

/-- A zone's issue advanced by 1, 255 going back to 0 (R153). -/
def State.advanceIssue (s : State) (z : Fin 12) : State :=
  let zn := s.cl.zones.at z
  s.setZone z { zn with issue := zn.issue + 1 }

/-- A zone dealt with for its present owner: the issue advanced and, with an owner, its node wait
cleared and a PLAY built; in an unfitted zone the owner's mark is set instead (R153 steps 2 and 3). -/
def State.playOwner (s : State) (z : Fin 12) : State :=
  let s := s.advanceIssue z
  match s.ownerCall z with
  | none => s
  | some (e, c) =>
    match s.zoneTarget z with
    | some (node, object) =>
      let s := if c.marks.at z = .pending true then s.setMark e z (.pending false) else s
      s.buildPlay z node object c
    | none => s.setMark e z (if c.finite then .done else .playing .accepted)

/-! ### Owners (R152, R153) -/

/-- One zone at a recompute: `before` is the call list before the change, `gone` the entries removed
by it. -/
def State.recomputeZone (before : CallList) (gone : List (Fin 16)) (s : State) (z : Fin 12) : State :=
  let old := (before.zones.at z).owner
  let new := s.cl.choose z
  let removed := match old with
    | some e => gone.contains e
    | none => false
  if old = new ∧ removed = false then s
  else
    -- the entry whose mark was PLAYING when it lost the zone, if there is one
    let lost : Option Call := match old with
      | none => none
      | some e =>
        match (if removed then before.calls.at e else s.cl.calls.at e) with
        | none => none
        | some c => if c.isPlaying z then some c else none
    let s := match old with
      | some e => if lost.isSome ∧ removed = false then s.setMark e z (.pending false) else s
      | none => s
    let s := s.setZone z { s.cl.zones.at z with owner := new }
    let s := match lost with
      | none => s
      | some c =>
        let cause : Call := match s.ownerCall z with
          | some (_, owner) => owner
          | none => c
        s.buildCut z (cause.isEmergency)
    s.playOwner z

/-- The local entry of a zone: 12 + z (section 2.2). -/
def zoneEntry (z : Fin 12) : Fin 32 := ⟨12 + z.val, by omega⟩

/-- The priority of each zone's owner written into entries 12 to 23, 255 for none (R152). -/
def State.writeOwners (s : State) : State :=
  allZones.foldl
    (fun s z =>
      s.writeLocal (zoneEntry z)
        (match s.ownerCall z with
          | none => 255
          | some (_, c) => BitVec.ofNat 8 c.priority.code)) s

/-- Whether, for every zone of its set, an entry owns the zone or its mark there is DONE (R156). -/
def State.entryReady (s : State) (e : Fin 16) (c : Call) : Bool :=
  allZones.all fun z =>
    !c.zones.getLsbD z.val || (s.cl.zones.at z).owner == some e || c.marks.at z == .done

/-- An entry made ready now: its wait timer stops, and a reserved origin is told (R156). -/
def State.makeReady (s : State) (e : Fin 16) (c : Call) : State :=
  let s := s.setCall e (some { c with ready := some s.now, wait := none })
  if e.val ≤ 6 then s.push (.callReady e) else s

/-- Every entry whose ready time is absent tested for readiness, entries 0 to 15 in order (R152, R156,
log 51). -/
def State.testReady (s : State) : State :=
  allEntries.foldl
    (fun s e =>
      match s.cl.calls.at e with
      | none => s
      | some c => if c.ready.isNone && s.entryReady e c then s.makeReady e c else s) s

/-- One recompute of the owners: every zone from 0 to 11 (log 43), entries 12 to 23, readiness (R152, R153,
R156). -/
def State.recompute (s : State) (before : CallList) (gone : List (Fin 16)) : State :=
  (allZones.foldl (State.recomputeZone before gone) s).writeOwners.testReady

/-- An entry is finished when each zone of its set is DONE (R157). -/
def Call.finished (c : Call) : Bool :=
  c.finite && allZones.all fun z => c.marks.at z == .none || c.marks.at z == .done

/-- The call list with entries taken out, of the placement order too (R152). -/
def CallList.remove (cl : CallList) (es : List (Fin 16)) : CallList :=
  { cl with
    calls := es.foldl (fun t e => t.put e none) cl.calls
    order := cl.order.filter fun e => !es.contains e }

/-- The entries that are finished. -/
def CallList.finishedEntries (cl : CallList) : List (Fin 16) :=
  allEntries.filter fun e => ((cl.calls.at e).map Call.finished).getD false

/-- Whether some zone's owner has the mark DONE there, or some entry is finished. -/
def State.doneToHandle (s : State) : Bool :=
  !s.cl.finishedEntries.isEmpty
    || allZones.any fun z =>
      match s.ownerCall z with
      | none => false
      | some (_, c) => c.marks.at z == .done

/-- Every mark that became DONE makes the owners be recomputed, and a finished entry is removed with
that recompute (R152, R157). Each round takes a zone from a call for good, so 16 × 12 rounds and one
more are enough. -/
def State.handleDone : Nat → State → State
  | 0, s => s
  | n + 1, s =>
    if s.doneToHandle then
      let before := s.cl
      let gone := s.cl.finishedEntries
      State.handleDone n (({ s with cl := s.cl.remove gone }).recompute before gone)
    else s

/-- The owners recomputed after a change of the call list, the DONE marks that follow handled, and the
beacons' patterns formed afresh, once, after the last recompute (R152, R162, log 44). -/
def State.reallocate (s : State) (before : CallList) (gone : List (Fin 16)) : State :=
  (State.handleDone 193 (s.recompute before gone)).formBeacons

/-- The rounds that a mark become DONE by a report or an outcome asks for, and the patterns formed once after
them (R152, R162, log 44). -/
def State.settleDone (s : State) : State := (State.handleDone 193 s).formBeacons

/-! ### Reserved calls (R147) -/

/-- An entry placed, replacing the present one if there is one (R147). -/
def State.placeEntry (s : State) (e : Fin 16) (c : Call) : State :=
  let before := s.cl
  let gone := if (s.cl.calls.at e).isSome then [e] else []
  let cl := s.cl.remove gone
  ({ s with cl := { cl with calls := cl.calls.put e (some c), order := cl.order ++ [e] } }).reallocate
    before gone

/-- Entries removed; the owners are recomputed once (R151, R152). The removal of entry 6 is told to the
door groups (R156). -/
def State.removeEntries (s : State) (es : List (Fin 16)) : State :=
  let gone := es.filter fun e => (s.cl.calls.at e).isSome
  let before := s.cl
  let s := ({ s with cl := s.cl.remove gone }).reallocate before gone
  if gone.contains 6 then s.push .emergencyCallRemoved else s

/-- A removal request for an absent entry does nothing (R147). -/
def State.removeEntry (s : State) (e : Fin 16) : State :=
  if (s.cl.calls.at e).isSome then s.removeEntries [e] else s

/-- The emergency general call placed in entry 6 with the SETTINGS fields in use; the empty zone set of EMPTY
settings gives a call without zones, ready at once (R53, R147, log 42). -/
def State.placeEmergency (s : State) : State :=
  s.placeEntry 6
    (s.newCall .emergency s.settings.emZones s.settings.emMessage .emergency 0 s.settings.emPattern)

/-! ### Calls from the bridge (R148 to R151) -/

/-- A PLACE of good form (R149). -/
structure PlaceReq where
  zones : ZoneSet
  message : Byte
  priority : Priority
  reps : Nat
  pattern : Nat
  deriving DecidableEq, Repr

/-- The priority of a code 0..3 (R146). -/
def Priority.ofCode? (n : Nat) : Option Priority :=
  match n with
  | 0 => some .emergency | 1 => some .safety | 2 => some .operational | 3 => some .information
  | _ => none

/-- The form of a PLACE: six bytes, a zone set not empty and within 0..11, message, priority,
repetitions and pattern in range (R148, R149). -/
def placeForm (payload : List Byte) : Option PlaceReq :=
  match payload with
  | [z1, z0, msg, pri, reps, pat] =>
    match Priority.ofCode? pri.toNat with
    | none => none
    | some p =>
      if word16 z1 z0 ≠ 0 ∧ word16 z1 z0 < 4096 ∧ msg.toNat ≤ 63 ∧ reps.toNat ≤ 15 ∧ pat.toNat ≤ 8 then
        some { zones := zoneSetOf (word16 z1 z0), message := msg, priority := p,
               reps := reps.toNat, pattern := pat.toNat }
      else none
  | _ => none

/-- The general entry with a source node, zone set and message (R149). -/
def State.sameCall (s : State) (src : NodeNo) (p : PlaceReq) : Option (Fin 16) :=
  generalEntries.find? fun e =>
    match s.cl.calls.at e with
    | none => false
    | some c => c.origin == .bridge src && c.zones == p.zones && c.message == p.message

/-- The lowest-numbered absent general entry (R149). -/
def State.freeEntry (s : State) : Option (Fin 16) :=
  generalEntries.find? fun e => (s.cl.calls.at e).isNone

/-- The general entry of lowest priority, the latest in the placement order among equals (R150). -/
def State.victim (s : State) : Option (Fin 16 × Priority) :=
  s.cl.order.foldl
    (fun best e =>
      if 7 ≤ e.val then
        match s.cl.calls.at e with
        | none => best
        | some c =>
          match best with
          | none => some (e, c.priority)
          | some (_, p) => if p.code ≤ c.priority.code then some (e, c.priority) else best
      else best)
    none

/-- A general entry refreshed (R149): its fields and marks as for a placement, its place in the order
kept; the zones it owned and still owns get a PLAY again, without a CUT, before the other zones are dealt with
(log 43). -/
def State.refreshCall (s : State) (e : Fin 16) (p : PlaceReq) : State :=
  match s.cl.calls.at e with
  | none => s
  | some c =>
    let before := s.cl
    let s := s.setCall e (some
      { c with priority := p.priority, reps := p.reps, pattern := p.pattern, ready := none,
               wait := s.timerFor s.warnwait, marks := freshMarks c.zones })
    let kept := allZones.filter fun z =>
      (before.zones.at z).owner == some e && s.cl.choose z == some e
    let s := kept.foldl State.playOwner s
    s.reallocate before []

/-- A CALL PLACE delivered to the call list (R149, R150). -/
def State.placeCall (s : State) (src : NodeNo) (payload : List Byte) : State :=
  match placeForm payload with
  | none => s.reply src 16 .badRequest
  | some p =>
    let c := s.newCall (.bridge src) p.zones p.message p.priority p.reps p.pattern
    match s.sameCall src p with
    | some e => (s.reply src 16 .done).refreshCall e p
    | none =>
      match s.freeEntry with
      | some e => (s.reply src 16 .accepted).placeEntry e c
      | none =>
        match s.victim with
        | none => s.reply src 16 .full
        | some (e, pr) =>
          if p.priority.code < pr.code then
            ((s.reply src 16 .accepted).raiseFlag .callEvicted).placeEntry e c
          else s.reply src 16 .full

/-- A CALL CANCEL delivered to the call list (R151). -/
def State.cancelCall (s : State) (src : NodeNo) (payload : List Byte) : State :=
  match payload with
  | [msg] =>
    if 63 < msg.toNat then s.reply src 16 .badRequest
    else
      let es := generalEntries.filter fun e =>
        match s.cl.calls.at e with
        | none => false
        | some c => c.origin == .bridge src && c.message == msg
      (s.reply src 16 .done).removeEntries es
  | _ => s.reply src 16 .badRequest

/-! ### Transmission and outcome of a zone's frames (R155, R157, R158) -/

/-- The owner's current PLAY lost its node: a finite call is DONE in the zone, a continuous call waits
for the node; ZONE_LOST either way (R157, R158). -/
def State.loseZone (s : State) (z : Fin 12) (e : Fin 16) (c : Call) : State :=
  let s := s.setMark e z (if c.finite then .done else .pending true)
  (s.raiseFlag .zoneLost).settleDone

/-- Whether a zone's image entry shows PLAYING a message (R157). -/
def State.showsMessage (s : State) (z : Fin 12) (message : Byte) : Bool :=
  match remoteOf? (s.cl.zones.at z).index with
  | none => false
  | some d => (s.img.remotes.at d).value == 1 && (s.img.remotes.at d).detail.head? == some message

/-- The start of transmission of a PLAY or CUT, told to the call list. After a stale PLAY to a node the zone is
not mapped to, a CUT goes to that PLAY's own destination and object, built before the owner's issue advances
(R154). A CUT built after a stale PLAY takes the urgency of that PLAY, which is of the call that has lost the
zone (R153, R155, log 21). -/
def State.zoneFrameStarted (s : State) (z : Fin 12) (issue : Byte) (play urgent : Bool) (f : Frame) : State :=
  let zn := s.cl.zones.at z
  if issue = zn.issue then
    if play then
      match s.ownerCall z with
      | none => s
      | some (e, _) => s.setMark e z (.playing .sent)
    else s
  else
    let stray := play ∧ (s.zoneTarget z).map Prod.fst ≠ some f.dest
    let cutStray := fun s : State => if stray then s.cutTo z f.dest f.object urgent else s
    match s.ownerCall z with
    | none => cutStray (if play then s.buildCut z urgent else s)
    | some (e, c) =>
      if c.isPlaying z then (((cutStray s).setMark e z (.pending false)).playOwner z).settleDone
      else cutStray s

/-- The outcome of a PLAY or CUT, told to the call list; only that of the owner's current PLAY is acted
on (R155, R157, R158). -/
def State.zoneOutcome (s : State) (z : Fin 12) (issue : Byte) (play accepted : Bool) : State :=
  if play ∧ issue = (s.cl.zones.at z).issue then
    match s.ownerCall z with
    | none => s
    | some (e, c) =>
      if c.isPlaying z then
        if accepted then
          s.setMark e z
            (.playing (if c.finite && s.showsMessage z c.message then .heard else .accepted))
        else s.loseZone z e c
      else s
  else s

/-- An image-change event of a zone's image entry (R157, R158). -/
def State.zoneReport (s : State) (z : Fin 12) (value : Byte) : State :=
  match s.ownerCall z with
  | none => s
  | some (e, c) =>
    match c.marks.at z with
    | .pending true => if value = 255 then s else (s.setMark e z (.pending false)).playOwner z
    | .playing p =>
      if value = 2 then s.loseZone z e c
      else if c.finite then
        if value = 1 ∧ p = .accepted ∧ s.showsMessage z c.message then s.setMark e z (.playing .heard)
        else if value = 0 ∧ p = .heard then (s.setMark e z .done).settleDone
        else s
      else s
    | .pending false | .none | .done => s

/-- An image-change event, as the call list follows it: every zone mapped to the entry, zones 0 to 11 in order
(R31, R157, log 7). -/
def State.callsImageChange (s : State) (index : Nat) (value : Byte) : State :=
  if index < 32 then s
  else
    allZones.foldl (fun s z => if (s.cl.zones.at z).index = index then s.zoneReport z value else s) s

/-- The wait timer of an entry expires: the ready time is forced (R156). -/
def State.waitExpired (s : State) (e : Fin 16) : State :=
  match s.cl.calls.at e with
  | none => s
  | some c =>
    match c.wait with
    | none => s
    | some d => ((s.reach d).makeReady e c).raiseFlag .warnDegraded

/-! ### Send-pending frames of the zones (R71, R154) -/

/-- A zone offers its pending CUT, then its pending PLAY (R154). -/
def State.offerZonePending (s : State) (z : Fin 12) : State :=
  let s :=
    match (s.cl.zones.at z).pendingCut with
    | none => s
    | some r =>
      match s.offer r with
      | (s, true) => s.setZone z { s.cl.zones.at z with pendingCut := none }
      | (s, false) => s
  match (s.cl.zones.at z).pendingPlay with
  | none => s
  | some r =>
    match s.offer r with
    | (s, true) => s.setZone z { s.cl.zones.at z with pendingPlay := none }
    | (s, false) => s

/-! ### Tables and restart (R159, R161) -/

/-- A zone moved to another node at a swap: `oldTarget` is the node and object of the old mapping and
definition (R159). -/
def State.moveZone (s : State) (z : Fin 12) (oldTarget : Option (NodeNo × Byte)) : State :=
  let s := s.setZone z { s.cl.zones.at z with pendingCut := none, pendingPlay := none }
  let s :=
    match s.ownerCall z with
    | none => s
    | some (e, c) =>
      let s :=
        match oldTarget with
        | some (node, object) =>
          if c.isPlaying z then s.cutTo z node object (c.isEmergency) else s
        | none => s
      s.setMark e z (.pending false)
  s.playOwner z

/-- The swap of CALLS, of OBJECTS, or of both: the new map is taken, and each zone whose index changes,
or whose kept entry changes its node or object, is moved (R159). `oldDefs` are the definitions before
the swap; the image already holds the new ones. -/
def State.swapZones (s : State) (oldDefs : Tab ObjDef 96) (newIndex : Fin 12 → Nat) : State :=
  let target := fun (defs : Tab ObjDef 96) (i : Nat) =>
    (remoteOf? i).map fun d => ((defs.at d).node, (defs.at d).object)
  (allZones.foldl
    (fun s z =>
      let old := (s.cl.zones.at z).index
      let new := newIndex z
      let s := s.setZone z { s.cl.zones.at z with index := new }
      if old = new ∧ target oldDefs old = target s.img.defs new then s
      else s.moveZone z (target oldDefs old)) s).settleDone

/-- The call list at RESTART (R161): CUTs to the zones that were playing, every entry removed, issues
advanced, pending frames discarded, no owner, entries 12 to 23 written 255. -/
def State.restartCalls (s : State) : State :=
  let s := allZones.foldl
    (fun s z =>
      match s.ownerCall z with
      | none => s
      | some (_, c) => if c.isPlaying z then s.buildCut z (c.isEmergency) else s) s
  let s := { s with cl := { s.cl with calls := .fill 16 none, order := [] } }
  let s := allZones.foldl
    (fun s z =>
      let zn := s.cl.zones.at z
      s.setZone z { zn with owner := none, issue := zn.issue + 1, pendingCut := none,
                            pendingPlay := none }) s
  s.writeOwners

end Sys2Proof.Machine
end

