-- ==== Sys2Proof/Machine/Ramps.lean ====
section
/-! DEFINITION. Ramp channels: states, commands, starting and locking, interruptions, FAULT, enabling
and disabling, values at RESTART (chapter 5, R104, R106, R125). -/

namespace Sys2Proof.Machine

open Sys2Proof

/-- The sign of a number: +1, 0 or −1. -/
def sign (n : Int) : Int := if 0 < n then 1 else if n < 0 then -1 else 0

/-- The first of three signs that is not 0: of V_cmd, of V_target, of the record's direction (R114). -/
def Ramp.jogSign (r : Ramp) : Int :=
  if r.vCmd ≠ 0 then sign r.vCmd else if r.vTarget ≠ 0 then sign r.vTarget else r.dir.sign

/-- The halting sign taken at the entry to HALTING (R114). -/
def Ramp.signAtHalt (r : Ramp) : Int :=
  match r.state with
  | .lowering | .landing => 1
  | .raising | .stowing => -1
  | .jog => r.jogSign
  | .disabled | .stowedLocked | .starting | .landed | .locking | .halting | .halted | .fault => r.haltSign

/-- What the entry to a state does to the channel's own record (R79, R80, R87, R94, R101, R114, R119):
outside the motion states the integrator and both compares become 0; the drives and timers of the state
left behind stop; counts start at 0, the motion time also on leaving STARTING. -/
def Ramp.enter (r : Ramp) (st : RampState) : Ramp :=
  { r with
    state := st
    dir := if st.isRest then .none else r.dir
    integrator := if st.isMotion then r.integrator else 0
    buffered := if st.isMotion then r.buffered else .off
    active := if st.isMotion then r.active else .off
    pinOut := false
    pinIn := false
    pinTimer := none
    warnTimer := none
    warned := false
    deadTimer := none
    motionTime := if st = .jog ∨ r.state = .starting then 0 else r.motionTime
    settle := if st = .landing ∨ st = .stowing then 0 else r.settle
    lift := if st = .landed then 0 else r.lift
    haltSign := if st = .halting then r.signAtHalt else r.haltSign }

/-- The channel's warning call (R81). -/
def State.rampCall (s : State) (ch : Channel) : Call :=
  let p := (s.ramp ch).params
  s.newCall (.ramp ch) p.zones p.message .safety 0 p.pattern

/-- A channel enters a state: the record, the published entry, the warning call placed at STARTING and
JOG and removed at the rest states, the beacons; leaving STOWED_LOCKED aborts the channel's proof test
(R80, R81, R162, R195). The beacons' patterns are formed at each entry, at one that is passed through within one
event too (log 55). -/
def State.enterRamp (s : State) (ch : Channel) (st : RampState) : State :=
  let s := s.setRamp ch ((s.ramp ch).enter st)
  let s := s.writeLocal ch.stateEntry st.code
  let s := if st = .stowedLocked then s else s.abortTestOn ch
  let s :=
    if st.isRest then s.removeEntry ch.callEntry
    else if st = .starting ∨ st = .jog then s.placeEntry ch.callEntry (s.rampCall ch)
    else s
  s.formBeacons

/-- T_pin in ticks: stored in units of 100 ms (R167). -/
def RampParams.pinTime (p : RampParams) : Nat := p.tPin * (100 * Config.msec)

/-- PIN_DRV_OUT_x on and the pin timer started (R90). -/
def State.drivePinsOut (s : State) (ch : Channel) : State :=
  let r := s.ramp ch
  s.setRamp ch { r with pinOut := true, pinTimer := s.timerFor r.params.pinTime }

/-- The entry to STARTING with a direction (R90). -/
def State.startRamp (s : State) (ch : Channel) (d : Dir) : State :=
  let s := s.setRamp ch { s.ramp ch with dir := d, pendingStart := .none }
  let s := s.enterRamp ch .starting
  if (s.ramp ch).pinsOut.level then s else s.drivePinsOut ch

/-- The permit of a direction: LOWER_PERMIT or RAISE_PERMIT (R84). -/
def RampParams.permit (p : RampParams) (d : Dir) : Byte :=
  match d with
  | .lower | .none => p.lowerPermit
  | .raise => p.raisePermit

/-- X set to STOW_POS, the reference position X_prev moved by as much, so that it is not seen as motion
(R94, R109, R112, log 37). -/
def Ramp.reReference (r : Ramp) : Ramp :=
  { r with x := r.params.stowPos, xPrev := r.xPrev + (r.params.stowPos - r.x) }

/-- The entry to LOCKING: X set to STOW_POS, the pins driven in, or STOWED_LOCKED at once when they are in
(R92, R94, R109). -/
def State.enterLocking (s : State) (ch : Channel) : State :=
  let s := (s.setRamp ch (s.ramp ch).reReference).enterRamp ch .locking
  let r := s.ramp ch
  if r.pinsIn.level then s.enterRamp ch .stowedLocked
  else s.setRamp ch { r with pinIn := true, pinTimer := s.timerFor r.params.pinTime }

/-- A channel leaves STARTING once its warning time has run and its pins are out: the permit decides
(R91). -/
def State.leaveStarting (s : State) (ch : Channel) : State :=
  let r := s.ramp ch
  if r.state = .starting ∧ r.warned = true ∧ r.pinsOut.level = true then
    if s.condition (r.params.permit r.dir) then
      let s := s.setRamp ch { r with motionTime := 0, settle := 0, stall := 0 }
      if r.dir = .raise then
        if r.stow.level then s.enterLocking ch else s.enterRamp ch .raising
      else s.enterRamp ch .lowering
    else (s.enterRamp ch .halted).raiseFlag (.ramp ch .permitLost)
  else s

/-- The warning time has run (R90, R91). -/
def State.rampWarned (s : State) (ch : Channel) : State :=
  (s.setRamp ch { s.ramp ch with warnTimer := none, warned := true }).leaveStarting ch

/-- The call list reports the channel's call ready: in STARTING the warning timer starts, or has run
when T_prewarn is 0 (R90); the report of a call that another has replaced meanwhile counts for nothing (R91). -/
def State.rampCallReady (s : State) (ch : Channel) : State :=
  let r := s.ramp ch
  if s.callReadyAt ch.callEntry ∧ r.state = .starting ∧ r.warned = false ∧ r.warnTimer = none then
    if r.params.tPrewarn = 0 then s.rampWarned ch
    else s.setRamp ch { r with warnTimer := s.timerFor (r.params.tPrewarn * Config.second) }
  else s

/-- The flag of a fault cause (R103). -/
def Cause.flag : Cause → RampFlag
  | .encoder | .none => .encoder
  | .overspeed => .overspeed
  | .stall => .stall
  | .overload => .overload
  | .overtravel => .overtravel
  | .pinTimeout => .pinTimeout
  | .motionTimeout => .motionTimeout

/-- A fault: outputs off, timers stopped, motion fields 0, the cause recorded, FAULT entered, the flag
raised (R103). -/
def State.faultRamp (s : State) (ch : Channel) (c : Cause) : State :=
  let s := s.setRamp ch
    { s.ramp ch with vCmd := 0, overspeed := 0, stall := 0, overload := 0, motionTime := 0,
                     pendingStart := .none, cause := c }
  (s.enterRamp ch .fault).raiseFlag (.ramp ch c.flag)

/-- A halt by STOP, for EMERGENCY, for bridge silence or because RAMPS became CORRUPT: motion states go
to HALTING, STARTING to HALTED, a pending start is cleared (R88, R99, R100). -/
def State.haltRamp (s : State) (ch : Channel) : State :=
  match (s.ramp ch).state with
  | .lowering | .landing | .raising | .stowing | .jog => s.enterRamp ch .halting
  | .halting => s.setRamp ch { s.ramp ch with pendingStart := .none }
  | .starting => s.enterRamp ch .halted
  | .disabled | .stowedLocked | .landed | .halted | .locking | .fault => s

/-! ### Commands (R83 to R89) -/

/-- A reply that turns a command away. -/
inductive Answer where
  | refuse (r : Reason)
  | code (c : Result)
  deriving DecidableEq, Repr

/-- A reply of one of these kinds. -/
def State.answer (s : State) (dest : NodeNo) (object : Byte) : Answer → State
  | .refuse r => s.refuse dest object r
  | .code c => s.reply dest object c

/-- The silence mark set to the value of local entry 10, before anything else (R84). -/
def State.markSilence (s : State) (ch : Channel) : State :=
  s.setRamp ch { s.ramp ch with silence := s.value 10 == 1 }

/-- The seven checks of LOWER, RAISE and JOG in order: the first that fails gives the reply (R84). -/
def State.rampChecks (s : State) (ch : Channel) (d : Dir) (isJog : Bool) : Option Answer :=
  let r := s.ramp ch
  if s.dcc.deck = .closingUp ∨ s.dcc.deck = .sea ∨ s.dcc.deck = .emergency then
    some (.refuse .deckCondition)
  else if s.estop.level then some (.refuse .estop)
  else if s.testingOn ch then some (.code .testing)
  else if (s.sec 3).status = .corrupt then some (.refuse .corrupt)
  else if isJog = false ∧ r.referenced = false ∧ r.state ≠ .disabled then some (.code .notReferenced)
  else if s.condition (r.params.permit d) = false then
    some (.refuse (.conditionFalse (r.params.permit d)))
  else if r.silence then some (.refuse .state)
  else none

/-- A LOWER or RAISE taken in JOG: the jog halts with the start recorded (R86). -/
def State.pendStart (s : State) (ch : Channel) (d : Dir) : State :=
  (s.setRamp ch { s.ramp ch with pendingStart := d }).enterRamp ch .halting

/-- A LOWER or RAISE that passed the checks, by state (R85). -/
def State.moveByState (s : State) (ch : Channel) (d : Dir) (src : NodeNo) : State :=
  let obj := ch.object
  match (s.ramp ch).state with
  | .disabled | .fault => s.refuse src obj .state
  | .stowedLocked =>
    if d = .lower then (s.reply src obj .accepted).startRamp ch d else s.reply src obj .done
  | .starting | .locking | .halting => s.reply src obj .busy
  | .lowering | .landing => s.reply src obj (if d = .lower then .done else .busy)
  | .landed =>
    if d = .lower then s.reply src obj .done else (s.reply src obj .accepted).startRamp ch d
  | .raising | .stowing => s.reply src obj (if d = .lower then .busy else .done)
  | .halted => (s.reply src obj .accepted).startRamp ch d
  | .jog => (s.reply src obj .accepted).pendStart ch d

/-- LOWER or RAISE delivered to a channel (R84, R85). -/
def State.moveRamp (s : State) (ch : Channel) (d : Dir) (q : Request) : State :=
  let s := s.markSilence ch
  if q.payload ≠ [] then s.reply q.source ch.object .badRequest
  else
    match s.rampChecks ch d false with
    | some a => s.answer q.source ch.object a
    | none => s.moveByState ch d q.source

/-- The clamp of a jog speed: V_max when referenced, V_creep when not, with the sign of the direction
(R87). -/
def Ramp.jogTarget (r : Ramp) : Int :=
  r.dir.sign * (min r.jogSpeed (if r.referenced then r.params.vMax else r.params.vCreep) : Nat)

/-- The direction, jog speed and V_target taken from a JOG frame (R87). -/
def Ramp.takeJog (r : Ramp) (d : Dir) (speed : Nat) : Ramp :=
  let r := { r with dir := d, jogSpeed := speed }
  { r with vTarget := r.jogTarget }

/-- The dead-man timer started for 300 ms (R87). -/
def State.startDeadMan (s : State) (ch : Channel) : State :=
  s.setRamp ch { s.ramp ch with deadTimer := s.timerFor Config.deadManTime }

/-- A JOG that passed the checks, by state (R87). -/
def State.jogByState (s : State) (ch : Channel) (d : Dir) (speed : Nat) (src : NodeNo) : State :=
  let obj := ch.object
  let r := s.ramp ch
  match r.state with
  | .halted | .landed =>
    if r.pinsOut.level then
      let s := s.reply src obj .accepted
      let s := s.setRamp ch ((s.ramp ch).takeJog d speed)
      (s.enterRamp ch .jog).startDeadMan ch
    else s.refuse src obj .state
  | .jog =>
    let s := s.reply src obj .done
    (s.setRamp ch ((s.ramp ch).takeJog d speed)).startDeadMan ch
  | .stowedLocked | .fault | .disabled => s.refuse src obj .state
  | .starting | .locking | .lowering | .landing | .raising | .stowing | .halting =>
    s.reply src obj .busy

/-- The form of a JOG: direction 0 or 1, speed 1 to 8000 (R83, R84). -/
def jogForm (payload : List Byte) : Option (Dir × Nat) :=
  match payload with
  | [d, hi, lo] =>
    if d.toNat ≤ 1 ∧ 1 ≤ word16 hi lo ∧ word16 hi lo ≤ 8000 then
      some (if d = 0 then .lower else .raise, word16 hi lo)
    else none
  | _ => none

/-- JOG delivered to a channel (R84, R87). -/
def State.jogRamp (s : State) (ch : Channel) (q : Request) : State :=
  let s := s.markSilence ch
  match jogForm q.payload with
  | none => s.reply q.source ch.object .badRequest
  | some (d, speed) =>
    match s.rampChecks ch d true with
    | some a => s.answer q.source ch.object a
    | none => s.jogByState ch d speed q.source

/-- STOP delivered to a channel (R84, R88). -/
def State.stopRamp (s : State) (ch : Channel) (q : Request) : State :=
  let s := s.markSilence ch
  if q.payload ≠ [] then s.reply q.source ch.object .badRequest
  else if s.testingOn ch then s.reply q.source ch.object .testing
  else (s.reply q.source ch.object .done).haltRamp ch

/-- Whether the cause of a fault is still present: the last sample above P_max, or E-STOP (R89). -/
def State.causePresent (s : State) (ch : Channel) : Bool :=
  decide ((s.ramp ch).params.pMax < (s.ramp ch).lastSample.toNat) || s.estop.level

/-- RESET_FAULT delivered to a channel (R84, R89). -/
def State.resetRamp (s : State) (ch : Channel) (q : Request) : State :=
  let s := s.markSilence ch
  let obj := ch.object
  if q.payload ≠ [] then s.reply q.source obj .badRequest
  else if s.testingOn ch then s.reply q.source obj .testing
  else if (s.ramp ch).state = .fault then
    if s.causePresent ch then s.refuse q.source obj .state
    else
      let s := s.reply q.source obj .done
      let r := s.ramp ch
      let s := s.setRamp ch { r with cause := .none }
      s.enterRamp ch (if r.stow.level && r.pinsIn.level then .stowedLocked else .halted)
  else s.reply q.source obj .done

/-- A COMMAND delivered to a channel, by its verb (R83, R84). -/
def State.rampCommand (s : State) (ch : Channel) (verb : Byte) (q : Request) : State :=
  match verb.toNat with
  | 1 => s.moveRamp ch .lower q
  | 2 => s.moveRamp ch .raise q
  | 3 => s.stopRamp ch q
  | 4 => s.jogRamp ch q
  | 5 => s.resetRamp ch q
  | _ => (s.markSilence ch).reply q.source ch.object .badRequest

/-! ### Inputs (R82, R98) -/

/-- An accepted level taken by an input's filter; the run of samples ends with it. -/
def InputFilter.accept (_f : InputFilter) (level : Bool) : InputFilter :=
  { level := level, seen := true, sampled := level, run := 0 }

/-- A sample of an input: the run of consecutive samples of one level (R52, R82). -/
def InputFilter.sample (f : InputFilter) (need : Nat) (level : Bool) : InputFilter :=
  if level = f.sampled then { f with run := min need (f.run + 1) }
  else { f with sampled := level, run := 1 }

/-- Whether the filter, after a sample, accepts its sampled level: the run is long enough, and the level
is new or the first since full reset (R52, R82). -/
def InputFilter.accepts (f : InputFilter) (need : Nat) : Bool :=
  decide (need ≤ f.run) && (!f.seen || f.sampled != f.level)

/-- The filter of a switch. -/
def Ramp.filterOf (r : Ramp) : Switch → InputFilter
  | .stow => r.stow | .land => r.land | .pinsIn => r.pinsIn | .pinsOut => r.pinsOut

/-- The record with a switch level accepted. -/
def Ramp.acceptSwitch (r : Ramp) (sw : Switch) (level : Bool) : Ramp :=
  match sw with
  | .stow => { r with stow := r.stow.accept level }
  | .land => { r with land := r.land.accept level }
  | .pinsIn => { r with pinsIn := r.pinsIn.accept level }
  | .pinsOut => { r with pinsOut := r.pinsOut.accept level }

/-- The pins of a channel with a switch at a level: an accepted level is what the pin reads (log 25). -/
def ChannelPins.setSwitch (p : ChannelPins) (sw : Switch) (level : Bool) : ChannelPins :=
  match sw with
  | .stow => { p with stow := level }
  | .land => { p with land := level }
  | .pinsIn => { p with pinsIn := level }
  | .pinsOut => { p with pinsOut := level }

/-- The pins with one channel's replaced. -/
def State.setChannelPins (s : State) (ch : Channel) (p : ChannelPins) : State :=
  { s with pins := { s.pins with channels := s.pins.channels.put ch p } }

/-- PINS_OUT_x accepted in STARTING (R90). -/
def State.pinsOutChanged (s : State) (ch : Channel) (active : Bool) : State :=
  let r := s.ramp ch
  if r.state = .starting then
    if active then (s.setRamp ch { r with pinOut := false, pinTimer := none }).leaveStarting ch
    else s.drivePinsOut ch
  else s

/-- PINS_IN_x accepted in LOCKING (R92). -/
def State.pinsInChanged (s : State) (ch : Channel) (active : Bool) : State :=
  if (s.ramp ch).state = .locking ∧ active = true then s.enterRamp ch .stowedLocked else s

/-- A switch level accepted: the first since full reset is no input event, and neither is the level
already accepted (R82). -/
def State.switchAccepted (s : State) (ch : Channel) (sw : Switch) (active : Bool) : State :=
  let old := (s.ramp ch).filterOf sw
  let s := s.setChannelPins ch ((s.pins.channels.get ch).setSwitch sw active)
  let s := s.setRamp ch ((s.ramp ch).acceptSwitch sw active)
  if old.seen = true ∧ old.level ≠ active then
    match sw with
    | .pinsOut => s.pinsOutChanged ch active
    | .pinsIn => s.pinsInChanged ch active
    | .stow | .land => s
  else s

/-- E-STOP becoming active, at one channel (R98). -/
def State.estopRamp (s : State) (ch : Channel) : State :=
  match (s.ramp ch).state with
  | .disabled => s
  | .fault => s.raiseFlag (.ramp ch .estop)
  | .stowedLocked | .starting | .lowering | .landing | .landed | .raising | .stowing | .locking
  | .halting | .halted | .jog =>
    let s := s.setRamp ch { s.ramp ch with vCmd := 0, pendingStart := .none }
    (s.enterRamp ch .halted).raiseFlag (.ramp ch .estop)

/-- The ESTOP flag of a channel raised when its condition holds (R185). -/
def State.flagEstop (s : State) (ch : Channel) : State :=
  if s.estopHolds ch then s.raiseFlag (.ramp ch .estop) else s

/-- An E-STOP level accepted, shared by both channels, A before B (log 49). Becoming active it halts the channels
and raises their flags (R98); the first level since full reset is no input event, so it halts nothing, but when
it is active the condition of the flags begins (R82, R185, log 47). -/
def State.estopChanged (s : State) (active : Bool) : State :=
  let old := s.estop
  let s := { s with pins := { s.pins with estop := active }, estop := old.accept active }
  if active = true ∧ old.level = false then
    if old.seen then (s.estopRamp .a).estopRamp .b else (s.flagEstop .a).flagEstop .b
  else s

/-- The halt for bridge silence also sets the silence mark (R99). -/
def State.silenceRamp (s : State) (ch : Channel) : State :=
  (s.setRamp ch { s.ramp ch with silence := true }).haltRamp ch

/-! ### Timers (R87, R90, R91, R92) -/

/-- The pin timer expires (R90, R92). -/
def State.pinExpired (s : State) (ch : Channel) : State :=
  match (s.ramp ch).pinTimer with
  | none => s
  | some d =>
    let s := s.reach d
    if (s.ramp ch).state = .starting ∨ (s.ramp ch).state = .locking then s.faultRamp ch .pinTimeout
    else s.setRamp ch { s.ramp ch with pinTimer := none }

/-- The warning timer expires (R91). -/
def State.rampWarningExpired (s : State) (ch : Channel) : State :=
  match (s.ramp ch).warnTimer with
  | none => s
  | some d => (s.reach d).rampWarned ch

/-- The dead-man timer expires (R87). -/
def State.deadManExpired (s : State) (ch : Channel) : State :=
  match (s.ramp ch).deadTimer with
  | none => s
  | some d =>
    let s := s.reach d
    if (s.ramp ch).state = .jog then s.enterRamp ch .halting
    else s.setRamp ch { s.ramp ch with deadTimer := none }

/-! ### Swap and restart (R104, R106, R107, R122, R125) -/

/-- The measurement and drive fields at the swaps that enable and disable a channel; the encoder filters,
stopped, hold no accepted pair (R125, log 36). -/
def Ramp.clearMeasure (r : Ramp) : Ramp :=
  { r with encA := .at false, encB := .at false, x := 0, xPrev := 0, lastDir := .none,
           lastCapture := 0, interval := 65535, recent := none, s := 0, vTarget := 0, vCmd := 0, integrator := 0, haltSign := 1, buffered := .off,
           active := .off, lastSample := 0, conversion := none, pwmCentred := false,
           motionTime := 0, settle := 0, overspeed := 0, stall := 0, overload := 0, lift := 0,
           referenced := false }

/-- A DISABLED channel enabled by a swap (R104, R107, R122). -/
def State.enableRamp (s : State) (ch : Channel) (p : RampParams) : State :=
  let pins := s.pins.channels.get ch
  let r := (s.ramp ch).clearMeasure
  let s := s.setRamp ch
    { r with params := p, pwmZero := some s.now, encA := .at pins.encA, encB := .at pins.encB }
  if s.estop.level then (s.enterRamp ch .halted).raiseFlag (.ramp ch .estop)
  else s.enterRamp ch (if r.stow.level && r.pinsIn.level then .stowedLocked else .halted)

/-- A channel disabled by a swap; its record is not taken (R104, R124, log 15). -/
def State.disableRamp (s : State) (ch : Channel) : State :=
  let r := (s.ramp ch).clearMeasure
  (s.setRamp ch { r with cause := .none, pwmZero := none, pendingStart := .none }).enterRamp ch .disabled

/-- A channel that keeps its enable takes the new record: V_cmd 0, the PWM counter started again, a
running proof test aborted (R104, R116, R122, R195). -/
def State.updateRamp (s : State) (ch : Channel) (p : RampParams) : State :=
  let r := s.ramp ch
  let s := s.setRamp ch
    { r with params := p, vCmd := 0, pwmZero := some s.now, pwmCentred := false,
             referenced := r.referenced && r.params.stowPos == p.stowPos }
  (s.abortTestOn ch).formBeacons

/-- The RAMPS swap at one channel (R104). -/
def State.swapRamp (s : State) (ch : Channel) (p : RampParams) : State :=
  if (s.ramp ch).state = .disabled then (if p.enable then s.enableRamp ch p else s)
  else if p.enable then s.updateRamp ch p
  else s.disableRamp ch

/-- A ramp record at RESTART (R106, R125). -/
def Ramp.atRestart (r : Ramp) : Ramp :=
  { r with dir := .none, pendingStart := .none, integrator := 0, silence := false, pinTimer := none,
           warnTimer := none, warned := false, deadTimer := none, motionTime := 0, settle := 0,
           overspeed := 0, stall := 0, overload := 0, lift := 0, buffered := .off, active := .off,
           pinOut := false, pinIn := false }

end Sys2Proof.Machine
end

