-- ==== Sys2Proof/Machine/RampDrive.lean ====
section
/-! DEFINITION. Ramp channels: encoder, speed estimate, monitors, position transitions, profile, drive,
valve PWM and pressure (chapter 6, R93 to R97, R101, R102, and the injections of R192, R193). -/

namespace Sys2Proof.Machine

open Sys2Proof

/-! ### The encoder (R107 to R110) -/

/-- What a change of the accepted pair counts as (R108). -/
inductive Edge where
  | unchanged
  | counted (d : Dir)
  | illegal
  deriving DecidableEq, Repr

/-- The edge of a change from the pair (a, b) to the pair (a', b') (R108). -/
def edgeOf (a b a' b' : Bool) : Edge :=
  if a = a' ∧ b = b' then .unchanged
  else if a ≠ a' ∧ b ≠ b' then .illegal
  else if a ≠ a' then .counted (if a' = b then .raise else .lower)
  else .counted (if a = b' then .lower else .raise)

/-- X changed by one count, saturating (R109). -/
def countX (x : Int) (d : Dir) : Int := max (-8388608) (min 8388607 (x + d.sign))

/-- Whether the recent timer is running at a moment (R110). -/
def Ramp.isRecent (r : Ramp) (now : Nat) : Bool :=
  match r.recent with
  | none => false
  | some d => decide (now ≤ d)

/-- The interval taken at an edge in the direction of a recent last edge: the difference of captures
modulo 2^20, at least 1 and at most 65,535 (R110). -/
def intervalOf (capture last : BitVec 20) : Nat := min 65535 (max 1 (capture - last).toNat)

/-- The record after a counted edge (R109, R110). -/
def Ramp.countEdge (r : Ramp) (d : Dir) (now : Nat) (capture : BitVec 20) : Ramp :=
  { r with
    x := countX r.x d
    interval := if r.isRecent now && r.lastDir == d then intervalOf capture r.lastCapture else 65535
    lastDir := d
    lastCapture := capture
    recent := some (now + Config.recentTime) }

/-- An illegal transition: FAULT with cause ENCODER and the reference lost; in FAULT the reference lost
and the flag raised (R102). -/
def State.illegalTransition (s : State) (ch : Channel) : State :=
  let s := s.setRamp ch { s.ramp ch with referenced := false }
  if (s.ramp ch).state = .fault then s.raiseFlag (.ramp ch .encoder) else s.faultRamp ch .encoder

/-- The record with an accepted pair: a filter whose level changes starts anew, the other goes on (R107,
R108). -/
def Ramp.acceptPair (r : Ramp) (a b : Bool) : Ramp :=
  { r with encA := if r.encA.level = a then r.encA else .at a
           encB := if r.encB.level = b then r.encB else .at b }

/-- The encoder pins with each newly accepted level at its own pin (log 25). -/
def ChannelPins.showEncoder (p : ChannelPins) (r : Ramp) (a b : Bool) : ChannelPins :=
  { p with encA := if r.encA.level = a then p.encA else a
           encB := if r.encB.level = b then p.encB else b }

/-- A change of a channel's accepted encoder pair; a DISABLED channel's encoder is not watched (R107,
R108). -/
def State.encoderChanged (s : State) (ch : Channel) (a b : Bool) : State :=
  let r := s.ramp ch
  if r.state = .disabled then s
  else
    let s := s.setChannelPins ch ((s.pins.channels.get ch).showEncoder r a b)
    let r' := r.acceptPair a b
    match edgeOf r.encA.level r.encB.level a b with
    | .unchanged => s
    | .counted d => s.setRamp ch (r'.countEdge d s.now s.capture)
    | .illegal => (s.setRamp ch r').illegalTransition ch

/-- A sample of an encoder input: the run of samples that read the other level, and whether it reaches F
(R107). -/
def EncFilter.sample (f : EncFilter) (need : Nat) (level : Bool) : EncFilter :=
  if level = f.level then { f with run := 0, reached := false }
  else { f with run := f.run + 1, reached := decide (need ≤ f.run + 1) }

/-- The recent timer expires (R110). -/
def State.recentExpired (s : State) (ch : Channel) : State :=
  match (s.ramp ch).recent with
  | none => s
  | some d =>
    let s := s.reach d
    s.setRamp ch { s.ramp ch with recent := none }

/-! ### Stage 1: the speed estimate (R112, R113) -/

/-- A number limited to a range. -/
def limit (lo hi n : Int) : Int := max lo (min hi n)

/-- The count difference (R112). -/
def Ramp.delta (r : Ramp) : Int := limit (-2047) 2047 (r.x - r.xPrev)

/-- The speed estimate (R113). -/
def Ramp.estimate (r : Ramp) (now : Nat) : Int :=
  let d := r.delta
  if 4 ≤ d.natAbs then 16 * d
  else if r.isRecent now then r.lastDir.sign * (min 63 (160000 / r.interval) : Nat)
  else 0

/-! ### Stage 2 (R93) -/

/-- Step 1: the land switch level written into the channel's entry; a LAND_INPUT test inverts it at the
first and second period ends and compares the entry after each write (R93, R193). -/
def State.writeLand (s : State) (ch : Channel) : State :=
  let level := (s.ramp ch).land.level
  match s.fc.test with
  | some t =>
    if t.id = .landInput ch then
      let want := if t.steps < 2 then !level else level
      let s := s.writeLocal ch.landEntry (bit want)
      let s := { s with fc := { s.fc with test := some { t with steps := t.steps + 1 } } }
      if s.img.locals.at ch.landEntry ≠ bit want then s.endTest .fail
      else if t.steps < 2 then s
      else s.endTest .pass
    else s.writeLocal ch.landEntry (bit level)
  | none => s.writeLocal ch.landEntry (bit level)

/-- Step 2: the reference test (R97). -/
def Ramp.referenceTest (r : Ramp) : Ramp :=
  if r.referenced = false ∧ r.stow.level = true
      ∧ (r.state = .stowedLocked ∨ r.state = .landed ∨ r.state = .halted ∨ r.state = .fault
        ∨ r.state = .stowing) then
    { r with referenced := true, x := r.params.stowPos }
  else r

/-- The value the OVERSPEED monitor reads: |S|, or V_max + V_margin + 16 under test (R101, R192). -/
def State.overspeedInput (s : State) (ch : Channel) : Nat :=
  let r := s.ramp ch
  if s.runsTest (.overspeed ch) then r.params.vMax + r.params.vMargin + 16 else r.s.natAbs

/-- A step of an OVERSPEED or OVERLOAD test that did not trip: FAIL when the last has been made
(R192). -/
def State.testStep (s : State) (id : TestId) (last : Nat) : State :=
  match s.fc.test with
  | none => s
  | some t =>
    if t.id = id then
      let s := { s with fc := { s.fc with test := some { t with steps := t.steps + 1 } } }
      if last ≤ t.steps + 1 then s.endTest .fail else s
    else s

/-- The OVERSPEED monitor: the state, and whether it tripped the channel into FAULT (R101, R192). -/
def State.overspeedMonitor (s : State) (ch : Channel) : State × Bool :=
  let r := s.ramp ch
  let count := if r.params.vMax + r.params.vMargin < s.overspeedInput ch then r.overspeed + 1 else 0
  let s := s.setRamp ch { r with overspeed := count }
  if 3 ≤ count then
    if s.runsTest (.overspeed ch) then (s.endTest .pass, false)
    else (s.faultRamp ch .overspeed, true)
  else (s.testStep (.overspeed ch) 3, false)

/-- The states in which the STALL monitor counts (R101). -/
def RampState.stalls : RampState → Bool
  | .lowering | .landing | .raising | .stowing | .jog => true
  | .disabled | .stowedLocked | .starting | .landed | .locking | .halting | .halted | .fault => false

/-- The STALL monitor (R101). -/
def State.stallMonitor (s : State) (ch : Channel) : State × Bool :=
  let r := s.ramp ch
  let count :=
    if r.state.stalls ∧ r.params.vCreep ≤ r.vCmd.natAbs ∧ r.s = 0 then r.stall + 1 else 0
  let s := s.setRamp ch { r with stall := count }
  if r.state.stalls ∧ r.params.nStall ≤ count then (s.faultRamp ch .stall, true) else (s, false)

/-- The states in which the motion time counts at period ends (R101). -/
def RampState.counts : RampState → Bool
  | .lowering | .landing | .raising | .stowing | .halting => true
  | .disabled | .stowedLocked | .starting | .landed | .locking | .halted | .jog | .fault => false

/-- The MOTION_TIMEOUT monitor: motion time in ms, T_motion in seconds (R101). -/
def State.motionMonitor (s : State) (ch : Channel) : State × Bool :=
  let r := s.ramp ch
  let time := if r.state.counts then r.motionTime + 10 else r.motionTime
  let s := s.setRamp ch { r with motionTime := time }
  if r.params.tMotion * 1000 < time then (s.faultRamp ch .motionTimeout, true) else (s, false)

/-- Step 3: the period-end monitors in the order of R101; one that trips ends the step. -/
def State.monitors (s : State) (ch : Channel) : State × Bool :=
  if (s.ramp ch).state = .disabled ∨ (s.ramp ch).state = .fault then (s, false)
  else
    match s.overspeedMonitor ch with
    | (s, true) => (s, true)
    | (s, false) =>
      match s.stallMonitor ch with
      | (s, true) => (s, true)
      | (s, false) => s.motionMonitor ch

/-- The settle count at a period end: up by 1 while the switch is active and |S| ≤ V_still (R94). -/
def Ramp.settled (r : Ramp) (level : Bool) : Nat :=
  if level ∧ r.s.natAbs ≤ r.params.vStill then r.settle + 1 else 0

/-- Step 4: the position transition of the state, and whether one was made (R94). -/
def State.positionStep (s : State) (ch : Channel) : State × Bool :=
  let r := s.ramp ch
  let p := r.params
  match r.state with
  | .lowering => if (p.deployPos : Int) - r.x ≤ p.wLand then (s.enterRamp ch .landing, true) else (s, false)
  | .landing =>
    if (p.deployPos : Int) + p.wOver < r.x then (s.faultRamp ch .overtravel, true)
    else
      let n := r.settled r.land.level
      let s := s.setRamp ch { r with settle := n }
      if p.nSettle ≤ n then (s.enterRamp ch .landed, true) else (s, false)
  | .raising => if r.x - (p.stowPos : Int) ≤ p.wStow then (s.enterRamp ch .stowing, true) else (s, false)
  | .stowing =>
    if r.x < (p.stowPos : Int) - p.wUnder then (s.faultRamp ch .overtravel, true)
    else
      let n := r.settled r.stow.level
      let s := s.setRamp ch { r with settle := n }
      if p.nSettle ≤ n then (s.enterLocking ch, true) else (s, false)
  | .disabled | .stowedLocked | .starting | .landed | .locking | .halting | .halted | .jog | .fault =>
    (s, false)

/-- The permit a state asks at period ends, if it asks one (R95). -/
def Ramp.periodPermit (r : Ramp) : Option Byte :=
  match r.state with
  | .lowering | .landing => some r.params.lowerPermit
  | .raising | .stowing => some r.params.raisePermit
  | .jog => some (r.params.permit r.dir)
  | .disabled | .stowedLocked | .starting | .landed | .locking | .halting | .halted | .fault => none

/-- Step 5: the permit (R95). -/
def State.permitStep (s : State) (ch : Channel) : State :=
  match (s.ramp ch).periodPermit with
  | none => s
  | some c => if s.condition c then s else (s.enterRamp ch .halting).raiseFlag (.ramp ch .permitLost)

/-- Step 6: in LANDED, the lift monitor; LIFTED is raised when the count reaches N_lift, where it stays
(R101); a count at or beyond an N_lift that a swap has lowered neither counts nor raises (log 41). -/
def State.liftStep (s : State) (ch : Channel) : State :=
  let r := s.ramp ch
  if r.state = .landed then
    if r.land.level then s.setRamp ch { r with lift := 0 }
    else if r.lift < r.params.nLift then
      let s := s.setRamp ch { r with lift := r.lift + 1 }
      if r.params.nLift ≤ r.lift + 1 then s.raiseFlag (.ramp ch .lifted) else s
    else s
  else s

/-- Steps 4 to 6. At most one transition is made at steps 4 and 5, so the permit is asked when step 4
made none (R93, log 14). -/
def State.transitions (s : State) (ch : Channel) : State :=
  match s.positionStep ch with
  | (s, true) => s.liftStep ch
  | (s, false) => (s.permitStep ch).liftStep ch

/-! ### Stage 3: the profile (R114 to R116) -/

/-- The speed limit on the way to a target position (R114). -/
def RampParams.approach (p : RampParams) (distance : Nat) : Nat :=
  min p.vMax (p.vCreep + distance * p.gSlow / 64)

/-- V_target by state (R114, R115). -/
def Ramp.targetSpeed (r : Ramp) : Int :=
  let p := r.params
  match r.state with
  | .lowering => p.approach ((p.deployPos : Int) - r.x).natAbs
  | .raising => -(p.approach ((p.stowPos : Int) - r.x).natAbs : Int)
  | .landing => p.vCreep
  | .stowing => -(p.vCreep : Int)
  | .jog =>
    let v := r.jogTarget
    if r.referenced ∧ ((0 < v ∧ (p.deployPos : Int) + p.wOver ≤ r.x)
        ∨ (v < 0 ∧ r.x ≤ (p.stowPos : Int) - p.wUnder)) then 0
    else v
  | .halting | .disabled | .stowedLocked | .starting | .landed | .locking | .halted | .fault => 0

/-- A number moved toward a target by at most a step (R116). -/
def stepToward (v target : Int) (step : Nat) : Int :=
  if (target - v).natAbs ≤ step then target else if v < target then v + step else v - step

/-- V_target and V_cmd after the profile stage (R115, R116). -/
def Ramp.profile (r : Ramp) : Ramp :=
  let t := r.targetSpeed
  { r with vTarget := t
           vCmd := stepToward r.vCmd t (if r.state = .halting then r.params.accelStop else r.params.accel) }

/-- The profile stage; HALTING with V_cmd at 0 ends in HALTED, and a pending start then starts (R86,
R96); the beacons' patterns are formed at either entry (log 55). -/
def State.profileStage (s : State) (ch : Channel) : State :=
  let s := s.setRamp ch (s.ramp ch).profile
  let r := s.ramp ch
  if r.state = .halting ∧ r.vCmd = 0 then
    let s := s.enterRamp ch .halted
    if r.pendingStart = .none then s else s.startRamp ch r.pendingStart
  else s

/-! ### Stage 4: the drive (R117 to R119) -/

/-- The direction σ of a motion state (R114). In JOG the drive stage reads it after V_target and V_cmd have taken
their step of the same period end, which R114 leaves open (log 58). -/
def Ramp.sigma (r : Ramp) : Int :=
  match r.state with
  | .lowering | .landing => 1
  | .raising | .stowing => -1
  | .halting => r.haltSign
  | .jog => r.jogSign
  | .disabled | .stowedLocked | .starting | .landed | .locking | .halted | .fault => 0

/-- The speed error (R117). -/
def Ramp.speedError (r : Ramp) : Int := limit (-32767) 32767 (r.vCmd - r.s)

/-- The integrator after its update (R117). -/
def Ramp.integrate (r : Ramp) : Int :=
  limit (-(r.params.iLim : Int)) r.params.iLim
    (r.integrator + Int.tdiv (r.speedError * r.params.ki) 256)

/-- The demand U (R118). -/
def Ramp.demand (r : Ramp) (integrator : Int) : Int :=
  Int.tdiv (r.vCmd * r.params.kff) 256 + Int.tdiv (r.speedError * r.params.kp) 256 + integrator

/-- The demand with the dead-band offset F0 added away from zero (R118). -/
def Ramp.offsetDemand (r : Ramp) (u : Int) : Int :=
  if 0 < u then u + r.params.f0 else if u < 0 then u - r.params.f0 else 0

/-- The magnitude (R118). -/
def Ramp.magnitude (r : Ramp) (u' : Int) : Nat :=
  if u' = 0 ∨ sign u' ≠ r.sigma then 0 else min u'.natAbs r.params.dMax

/-- The valve output of direction σ (R118). -/
def outputOf (sigma : Int) : Dir := if 0 < sigma then .lower else if sigma < 0 then .raise else .none

/-- The drive stage (R117 to R119). -/
def Ramp.drive (r : Ramp) : Ramp :=
  if r.state.isMotion then
    let i := r.integrate
    { r with integrator := i
             buffered := { mag := r.magnitude (r.offsetDemand (r.demand i)), out := outputOf r.sigma } }
  else { r with buffered := .off }

/-! ### The period end (R93) -/

/-- The end of a control period: estimate, monitors and transitions, profile, drive; the reference
position takes X at the close (R93, R112). A DISABLED channel makes step 1 alone. -/
def State.periodEnd (s : State) (ch : Channel) : State :=
  let due := (s.ramp ch).periodAt
  let s := s.reach due
  let s := s.setRamp ch { s.ramp ch with periodAt := due + Config.periodTime }
  if (s.ramp ch).state = .disabled then s.writeLand ch
  else
    let s := s.setRamp ch { s.ramp ch with s := (s.ramp ch).estimate s.now }
    let s := s.writeLand ch
    let s := s.setRamp ch (s.ramp ch).referenceTest
    let s := match s.monitors ch with
      | (s, true) => s
      | (s, false) => s.transitions ch
    let s := s.profileStage ch
    let s := s.setRamp ch (s.ramp ch).drive
    s.setRamp ch { s.ramp ch with xPrev := (s.ramp ch).x }

/-! ### The valve PWM and the pressure input (R120 to R123, R102) -/

/-- The counter at 0: the buffered compare is copied into the active one, and a new period begins
(R121). -/
def State.pwmStart (s : State) (ch : Channel) : State :=
  let r := s.ramp ch
  match r.pwmZero with
  | none => s
  | some z =>
    let next := z + 2 * r.params.pwmN
    let s := s.reach next
    s.setRamp ch { r with pwmZero := some next, pwmCentred := false, active := r.buffered }

/-- The counter at N: a pressure conversion starts, which takes 6 µs (R120, R123). -/
def State.pwmAtCentre (s : State) (ch : Channel) : State :=
  let r := s.ramp ch
  match r.pwmZero with
  | none => s
  | some z =>
    if r.pwmCentred then s
    else
      let s := s.reach (z + r.params.pwmN)
      s.setRamp ch { r with pwmCentred := true, conversion := some (s.now + Config.conversionTime) }

/-- The overload monitor at a sample (R102); under an OVERLOAD test it reads 4,095 and its trip goes to
the test (R192). -/
def State.overloadMonitor (s : State) (ch : Channel) (sample : Nat) : State :=
  let r := s.ramp ch
  if r.state = .disabled ∨ r.state = .fault then s.setRamp ch { r with overload := 0 }
  else
    let testing := s.runsTest (.overload ch)
    let value := if testing then 4095 else sample
    let count := if r.params.pMax < value then r.overload + 1 else 0
    let s := s.setRamp ch { r with overload := count }
    if r.params.nOver ≤ count ∧ 0 < count then
      if testing then s.endTest .pass else s.faultRamp ch .overload
    else s.testStep (.overload ch) (r.params.nOver + 1)

/-- A pressure conversion completes: the sample is kept and goes to the overload monitor (R123). -/
def State.conversionDone (s : State) (ch : Channel) (sample : BitVec 12) : State :=
  let pins := s.pins.channels.get ch
  let s := s.setChannelPins ch { pins with pressure := sample }
  match (s.ramp ch).conversion with
  | none => s
  | some d =>
    let s := s.reach d
    let s := s.setRamp ch { s.ramp ch with conversion := none, lastSample := sample }
    s.overloadMonitor ch sample.toNat

end Sys2Proof.Machine
end

