-- ==== Sys2Proof/Machine/Doors.lean ====
section
/-! DEFINITION. Door group sequencers: states and publication, door frames, closing, opening, stopping,
emergency close, swap and restart (chapter 7). -/

namespace Sys2Proof.Machine

open Sys2Proof

/-- The eight step places, in order. -/
def allSteps : List (Fin 8) := [0, 1, 2, 3, 4, 5, 6, 7]

/-- The four groups, in order. -/
def allGroups : List (Fin 4) := [0, 1, 2, 3]

/-- The steps of a group's list, in list order (R127). -/
def Group.active (g : Group) : List (Fin 8) := allSteps.filter fun k => decide (k.val < g.defn.doors.length)

/-- A group with no door is undefined (R126). -/
def Group.undefinedGroup (g : Group) : Bool := g.defn.doors.isEmpty

/-- The sequence states (R128). -/
def GroupState.isSequence : GroupState → Bool
  | .warning | .waitPermit | .closing | .opening => true
  | .idle | .closed | .incomplete | .stopped => false

/-- The number of a group's steps in a state (R129). -/
def Group.count (g : Group) (st : StepState) : Nat :=
  (g.active.filter fun k => (g.steps.at k).state == st).length

/-- The local entry of a group: 5 + g (R129). -/
def groupEntry (g : Fin 4) : Fin 32 := ⟨5 + g.val, by omega⟩

/-- The object of a group: 4 + g (section 4 of spec/00_scope.md). -/
def groupObject (g : Fin 4) : Byte := BitVec.ofNat 8 (4 + g.val)

/-- The call-list entry reserved for a group: entry g (R133). -/
def groupCallEntry (g : Fin 4) : Fin 16 := ⟨g.val, by omega⟩

/-! ### Step records (R130) -/

/-- A step whose latest command is left behind: its issue advanced, a pending CLOSE or OPEN discarded,
its timers stopped; a pending STOP is kept (R130). -/
def Step.release (t : Step) : Step :=
  { t with issue := t.issue + 1, pendingCmd := none, travel := none, retry := none }

/-- A step reset to WAITING with 0 attempts (R130). -/
def Step.restarted (t : Step) : Step :=
  { t.release with state := .waiting, cause := .none, attempts := 0 }

/-- A step that becomes CONFIRMED or FAILED (R130, R137). -/
def Step.decided (t : Step) (st : StepState) (c : StepCause) : Step :=
  { t.release with state := st, cause := c }

/-- Every step of a group reset, the step places outside the door list with them (R132, R141, log 20, log 50). -/
def State.resetSteps (s : State) (g : Fin 4) : State :=
  s.setGroup g { s.group g with steps := Tab.make fun k => ((s.group g).steps.at k).restarted }

/-- The COMMANDED steps released when the group leaves CLOSING or OPENING (R130). -/
def Group.releaseSteps (g : Group) : Group :=
  if g.state = .closing ∨ g.state = .opening then
    { g with steps := Tab.make fun k =>
        if (g.steps.at k).state = .commanded then (g.steps.at k).release else g.steps.at k }
  else g

/-- States whose entry clears the emergency mark (R128). -/
def GroupState.clearsMark : GroupState → Bool
  | .idle | .closed | .incomplete | .stopped | .opening => true
  | .warning | .waitPermit | .closing => false

/-- The record at the entry to a state: spacing and warning timers stopped, warning-ready mark clear
(R128). -/
def Group.enter (g : Group) (st : GroupState) : Group :=
  { g.releaseSteps with
    state := st, mark := g.mark && !st.clearsMark, ready := false, warnTimer := none, spacing := none }

/-- A group enters a state: the record, the published entry and the notice (R128, R129). `breach` is the
step number of a breached door, 255 otherwise. -/
def State.enterGroup (s : State) (g : Fin 4) (st : GroupState) (breach : Byte := 255) : State :=
  let old := (s.group g).state
  let s := s.setGroup g ((s.group g).enter st)
  let s := s.writeLocal (groupEntry g) st.code
  let r := s.group g
  s.notice (groupObject g) st.code
    [old.code, BitVec.ofNat 8 (r.count .confirmed), BitVec.ofNat 8 (r.count .failed), breach]

/-! ### Door frames (R130, R131) -/

/-- The verbs of door commands (R130). -/
def DoorCmd.verb : DoorCmd → Byte
  | .close => 1 | .openDoor => 2 | .stop => 3

/-- The image entry of a step's door; none for a step that the list does not have (R127). -/
def State.doorEntry (s : State) (g : Fin 4) (k : Fin 8) : Option (Fin 96) := (s.group g).defn.doors[k.val]?

/-- The node and object of an image entry, as the Object Image defines it (R130). -/
def State.targetOf (s : State) (d : Fin 96) : NodeNo × Byte := ((s.img.defs.at d).node, (s.img.defs.at d).object)

/-- A queue record of a door frame (R69, R130). -/
def State.doorRec (s : State) (g : Fin 4) (k : Fin 8) (cmd : DoorCmd) (d : Fin 96) (target : NodeNo × Byte)
    (issue : Byte) (urgent : Bool) : DeckRec :=
  { frame := { dest := target.1, urgent := false, src := s.node, cls := .command, object := target.2,
               verb := cmd.verb, payload := [] }
    urgent := urgent, cond := none, origin := .door g k issue cmd d }

/-- A CLOSE or OPEN built for a step: the issue advanced, the frame offered or kept (R130). -/
def State.buildDoor (s : State) (g : Fin 4) (k : Fin 8) (cmd : DoorCmd) : State :=
  match s.doorEntry g k with
  | none => s
  | some d =>
    let t := (s.group g).steps.at k
    let t := { t with issue := t.issue + 1 }
    let s := s.setStep g k t
    let r := s.doorRec g k cmd d (s.targetOf d) t.issue (s.group g).mark
    match s.offer r with
    | (s, true) => s
    | (s, false) => s.setStep g k { t with pendingCmd := some r }

/-- A STOP to a door, with the step's current issue: offered, or kept unless one is pending (R130). -/
def State.buildStopTo (s : State) (g : Fin 4) (k : Fin 8) (d : Fin 96) (target : NodeNo × Byte) : State :=
  let t := (s.group g).steps.at k
  let r := s.doorRec g k .stop d target t.issue true
  match s.offer r with
  | (s, true) => s
  | (s, false) => if t.pendingStop.isSome then s else s.setStep g k { t with pendingStop := some r }

/-- A STOP built for a step (R142). -/
def State.buildStop (s : State) (g : Fin 4) (k : Fin 8) : State :=
  match s.doorEntry g k with
  | none => s
  | some d => s.buildStopTo g k d (s.targetOf d)

/-- The command of a sequence: CLOSE in CLOSING, OPEN in OPENING (R136, R141). -/
def GroupState.command? : GroupState → Option DoorCmd
  | .closing => some .close
  | .opening => some .openDoor
  | .idle | .warning | .waitPermit | .closed | .incomplete | .stopped => none

/-- The first WAITING step commanded; nothing when none is left (R136, R141). -/
def State.commandNext (s : State) (g : Fin 4) : State :=
  match (s.group g).state.command?,
      (s.group g).active.find? fun k => ((s.group g).steps.at k).state == .waiting with
  | some cmd, some k =>
    (s.setStep g k { (s.group g).steps.at k with state := .commanded }).buildDoor g k cmd
  | _, _ => s

/-- A number of seconds in ticks. -/
def seconds (n : Nat) : Nat := n * Config.second

/-- Where a STOP goes that halts the door of a stale CLOSE: to the CLOSE's image entry as the image defines it now,
or, when that entry is no door any more, to the CLOSE's own node and object (R130, R131, log 19). -/
def State.staleTarget (s : State) (d : Fin 96) (f : Frame) : NodeNo × Byte :=
  if (s.img.defs.at d).kind = .door then s.targetOf d else (f.dest, f.object)

/-- The start of transmission of a door frame, told to its group; a stale CLOSE is followed by a STOP to its own
door (R131). -/
def State.doorFrameStarted (s : State) (g : Fin 4) (k : Fin 8) (issue : Byte) (cmd : DoorCmd) (d : Fin 96)
    (f : Frame) : State :=
  let r := s.group g
  let t := r.steps.at k
  if cmd = .stop then s
  else if issue = t.issue then
    let s := s.setStep g k
      { t with attempts := t.attempts + 1, travel := s.timerFor (seconds r.defn.tTravel) }
    if t.attempts = 0 ∧ (r.state = .closing ∨ r.state = .opening) then
      if r.defn.tSpace = 0 then s.commandNext g
      else s.setGroup g { s.group g with spacing := s.timerFor (seconds r.defn.tSpace) }
    else s
  else if cmd = .close ∧ (r.state = .idle ∨ r.state = .stopped) then
    s.buildStopTo g k d (s.staleTarget d f)
  else s

/-! ### The decision of steps (R137, R138, R141) -/

/-- Whether every step of a group is CONFIRMED or FAILED. -/
def Group.allDecided (g : Group) : Bool :=
  g.active.all fun k => (g.steps.at k).state == .confirmed || (g.steps.at k).state == .failed

/-- The end of a sequence, when its last step has been decided (R138, R141). -/
def State.endSequence (s : State) (g : Fin 4) : State :=
  let r := s.group g
  if r.allDecided then
    match r.state with
    | .closing =>
      if r.count .failed = 0 then s.enterGroup g .closed
      else (s.enterGroup g .incomplete).raiseFlag .groupIncomplete
    | .opening => s.enterGroup g .idle
    | .idle | .warning | .waitPermit | .closed | .incomplete | .stopped => s
  else s

/-- A step CONFIRMED (R137, R141). -/
def State.confirmStep (s : State) (g : Fin 4) (k : Fin 8) : State :=
  (s.setStep g k (((s.group g).steps.at k).decided .confirmed .none)).endSequence g

/-- A step FAILED: DOOR_FAILED is raised (R137, R141). -/
def State.failStep (s : State) (g : Fin 4) (k : Fin 8) (c : StepCause) : State :=
  ((s.setStep g k (((s.group g).steps.at k).decided .failed c)).raiseFlag .doorFailed).endSequence g

/-- A step in travel that is to be tried again: with attempts below 3 travel stops and the retry timer
starts, otherwise the step fails (R137). -/
def State.retryOrFail (s : State) (g : Fin 4) (k : Fin 8) (c : StepCause) : State :=
  let r := s.group g
  let t := r.steps.at k
  if t.travel.isSome then
    if t.attempts < 3 then
      s.setStep g k { t with travel := none, retry := s.timerFor (seconds r.defn.tRetry) }
    else s.failStep g k c
  else s

/-- Outcomes of a transaction of the part's own blocks (R14). -/
inductive Outcome where
  | accepted | rejected | noAnswer
  deriving DecidableEq, Repr

/-- The outcome of a door frame, told to its group (R131, R137, R141). -/
def State.doorOutcome (s : State) (g : Fin 4) (k : Fin 8) (issue : Byte) (cmd : DoorCmd)
    (o : Outcome) : State :=
  let r := s.group g
  let t := r.steps.at k
  if cmd ≠ .stop ∧ issue = t.issue ∧ t.state = .commanded then
    let entry := (r.defn.doors[k.val]?).map fun d => (s.img.remotes.at d).value
    match r.state, o with
    | .closing, .accepted => if entry = some 3 then s.confirmStep g k else s
    | .closing, .rejected => s.retryOrFail g k .rejected
    | .closing, .noAnswer => s.retryOrFail g k .noAnswer
    | .opening, .accepted => if entry = some 1 then s.confirmStep g k else s
    | .opening, .rejected => s.failStep g k .rejected
    | .opening, .noAnswer => s.failStep g k .noAnswer
    | .idle, _ | .warning, _ | .waitPermit, _ | .closed, _ | .incomplete, _ | .stopped, _ => s
  else s

/-- A report of a COMMANDED step's door in CLOSING (R137). -/
def State.closingReport (s : State) (g : Fin 4) (k : Fin 8) (value : Byte) : State :=
  match value.toNat with
  | 3 => s.confirmStep g k
  | 8 => s.failStep g k .localControl
  | 7 => s.failStep g k .fault
  | 6 => s.retryOrFail g k .obstructed
  | 5 => s.retryOrFail g k .obstructed
  | _ => s

/-- The step of a group whose door is an image entry. -/
def Group.stepOf (g : Group) (index : Nat) : Option (Fin 8) :=
  g.active.find? fun k =>
    match g.defn.doors[k.val]? with
    | some d => 32 + d.val == index
    | none => false

/-- Entry to CLOSING: its first step is commanded (R136). -/
def State.enterClosing (s : State) (g : Fin 4) : State := (s.enterGroup g .closing).commandNext g

/-- An image-change event, as a group takes it (R31, R134, R137, R139, R141). -/
def State.groupImageChange (s : State) (g : Fin 4) (index : Nat) (value : Byte) : State :=
  let r := s.group g
  match r.state with
  | .waitPermit => if s.condition r.defn.closePermit then s.enterClosing g else s
  | .closing =>
    match r.stepOf index with
    | some k => if (r.steps.at k).state = .commanded then s.closingReport g k value else s
    | none => s
  | .opening =>
    match r.stepOf index with
    | some k => if (r.steps.at k).state = .commanded ∧ value = 1 then s.confirmStep g k else s
    | none => s
  | .closed =>
    match r.stepOf index with
    | some k =>
      if value ≠ 255 ∧ value ≠ 3 then
        (s.raiseFlag .doorBreach).enterGroup g .incomplete (BitVec.ofNat 8 k.val)
      else s
    | none => s
  | .idle | .warning | .incomplete | .stopped => s

/-! ### The warning (R133, R135) -/

/-- The group's warning call (R133). -/
def State.groupCall (s : State) (g : Fin 4) : Call :=
  let d := (s.group g).defn
  s.newCall (.group g) d.zones d.message .safety 0 d.pattern

/-- The warning ends: under the mark the group enters CLOSING; otherwise it removes its call and asks
its close permit (R133, R135). -/
def State.endWarning (s : State) (g : Fin 4) : State :=
  if (s.group g).mark then s.enterClosing g
  else
    let s := s.removeEntry (groupCallEntry g)
    if s.condition (s.group g).defn.closePermit then s.enterClosing g else s.enterGroup g .waitPermit

/-- The warning time begins to count: the warning-ready mark is set and the warning timer started; a
time of 0 ends the warning at once (R133, R135). -/
def State.beginCount (s : State) (g : Fin 4) : State :=
  let r := s.group g
  let time := if r.mark then r.defn.tEwarn else r.defn.tWarn
  let s := s.setGroup g { r with ready := true, warnTimer := if time = 0 then none else s.timerFor (seconds time) }
  if time = 0 then s.endWarning g else s

/-- The group's own call becomes ready (R133). -/
def State.ownCallReady (s : State) (g : Fin 4) : State :=
  let r := s.group g
  if s.callReadyAt (groupCallEntry g) ∧ r.state = .warning ∧ r.mark = false ∧ r.ready = false then s.beginCount g else s

/-- The emergency general call becomes ready, or is removed (R135). -/
def State.emergencyCallMoved (s : State) (g : Fin 4) : State :=
  let r := s.group g
  if r.state = .warning ∧ r.mark = true ∧ r.ready = false then s.beginCount g else s

/-- Whether entry 6 is present with its ready time reached. -/
def State.emergencyReady (s : State) : Bool := s.callReadyAt 6

/-- A warning under the mark: the own call removed, the mark and timer cleared, then the emergency
general call looked at (R135). -/
def State.warnUnderMark (s : State) (g : Fin 4) : State :=
  let s := s.removeEntry (groupCallEntry g)
  let s := s.setGroup g { s.group g with ready := false, warnTimer := none }
  if s.emergencyReady then s.beginCount g else s

/-- Entry to WARNING under a normal close (R132, R133). -/
def State.warnNormal (s : State) (g : Fin 4) : State :=
  ((s.resetSteps g).enterGroup g .warning).placeEntry (groupCallEntry g) (s.groupCall g)

/-- The emergency mark set. -/
def State.markGroup (s : State) (g : Fin 4) : State := s.setGroup g { s.group g with mark := true }

/-- An emergency close, by the group's state (R135). -/
def State.emergencyClose (s : State) (g : Fin 4) : State :=
  match (s.group g).state with
  | .idle | .stopped | .incomplete | .opening =>
    (((s.resetSteps g).markGroup g).enterGroup g .warning).warnUnderMark g
  | .warning => (s.markGroup g).warnUnderMark g
  | .waitPermit => (s.markGroup g).enterClosing g
  | .closing => s.markGroup g
  | .closed => s

/-! ### Requests (R132, R140, R142) -/

/-- A normal close judged in order: the reply, and the state after it (R132). `src` is none for the
request of the Deck Condition Controller, whose outcome goes back to no one. -/
def State.normalClose (s : State) (g : Fin 4) (src : Option NodeNo) : State :=
  let obj := groupObject g
  let r := s.group g
  let code := fun c => match src with
    | some n => s.reply n obj c
    | none => s
  let refuse := fun c => match src with
    | some n => s.refuse n obj c
    | none => s
  match r.state with
  | .closed | .warning | .waitPermit | .closing => code .done
  | .idle | .stopped | .incomplete | .opening =>
    if (s.sec 4).status = .corrupt then refuse .corrupt
    else if s.condition r.defn.closePermit then (code .accepted).warnNormal g
    else refuse (.conditionFalse r.defn.closePermit)

/-- CLOSE delivered to a group (R132). -/
def State.closeGroup (s : State) (g : Fin 4) (q : Request) : State :=
  let obj := groupObject g
  let r := s.group g
  if q.payload ≠ [] then s.reply q.source obj .badRequest
  else if r.undefinedGroup then s.refuse q.source obj .state
  else if r.defn.fire ∧ s.dcc.deck = .emergency then
    let done := r.state == .closed || (r.mark && (r.state == .warning || r.state == .closing))
    (s.reply q.source obj (if done then .done else .accepted)).emergencyClose g
  else s.normalClose g (some q.source)

/-- Entry to OPENING: a warning's call removed, every step reset, the first commanded (R140, R141); the frames of
the removed call are built before the notice of the state and the first OPEN (log 53). -/
def State.startOpening (s : State) (g : Fin 4) : State :=
  let s := if (s.group g).state = .warning then s.removeEntry (groupCallEntry g) else s
  ((s.resetSteps g).enterGroup g .opening).commandNext g

/-- OPEN delivered to a group (R132, R140). -/
def State.openGroup (s : State) (g : Fin 4) (q : Request) : State :=
  let obj := groupObject g
  let r := s.group g
  if q.payload ≠ [] then s.reply q.source obj .badRequest
  else if r.undefinedGroup then s.refuse q.source obj .state
  else if r.state = .opening then s.reply q.source obj .done
  else if (r.defn.sea ∧ s.dcc.deck = .sea) ∨ (r.defn.fire ∧ s.dcc.deck = .emergency) then
    s.refuse q.source obj .deckCondition
  else if (s.sec 4).status = .corrupt then s.refuse q.source obj .corrupt
  else if s.condition r.defn.openPermit = false then
    s.refuse q.source obj (.conditionFalse r.defn.openPermit)
  else (s.reply q.source obj .accepted).startOpening g

/-- The doors in motion are stopped: a STOP for each COMMANDED step in travel or awaiting retry, and the
group enters STOPPED (R142). -/
def State.haltGroup (s : State) (g : Fin 4) : State :=
  let moving := (s.group g).active.filter fun k =>
    let t := (s.group g).steps.at k
    t.state == .commanded && (t.travel.isSome || t.retry.isSome)
  (moving.foldl (fun s k => s.buildStop g k) s).enterGroup g .stopped

/-- STOP taken by a group, after its reply (R142). -/
def State.stopGroup (s : State) (g : Fin 4) : State :=
  match (s.group g).state with
  | .idle | .closed | .incomplete | .stopped => s
  | .warning => (s.removeEntry (groupCallEntry g)).enterGroup g .stopped
  | .waitPermit => s.enterGroup g .stopped
  | .closing | .opening => s.haltGroup g

/-- STOP delivered to a group, defined or not (R132, R142). -/
def State.stopGroupRequest (s : State) (g : Fin 4) (q : Request) : State :=
  if q.payload ≠ [] then s.reply q.source (groupObject g) .badRequest
  else (s.reply q.source (groupObject g) .done).stopGroup g

/-- A COMMAND delivered to a group, by its verb (R132). -/
def State.groupCommand (s : State) (g : Fin 4) (verb : Byte) (q : Request) : State :=
  match verb.toNat with
  | 1 => s.closeGroup g q
  | 2 => s.openGroup g q
  | 3 => s.stopGroupRequest g q
  | _ => s.reply q.source (groupObject g) .badRequest

/-- The cancel request of the Deck Condition Controller (R142). -/
def State.cancelGroup (s : State) (g : Fin 4) : State :=
  match (s.group g).state with
  | .warning => (s.removeEntry (groupCallEntry g)).enterGroup g .idle
  | .waitPermit => s.enterGroup g .idle
  | .closing => s.haltGroup g
  | .idle | .closed | .incomplete | .opening | .stopped => s

/-! ### Timers (R133, R135, R136, R137) -/

/-- The warning timer expires. -/
def State.groupWarningExpired (s : State) (g : Fin 4) : State :=
  match (s.group g).warnTimer with
  | none => s
  | some d =>
    let s := s.reach d
    let s := s.setGroup g { s.group g with warnTimer := none }
    if (s.group g).state = .warning then s.endWarning g else s

/-- The spacing timer expires. -/
def State.spacingExpired (s : State) (g : Fin 4) : State :=
  match (s.group g).spacing with
  | none => s
  | some d =>
    let s := s.reach d
    (s.setGroup g { s.group g with spacing := none }).commandNext g

/-- The travel timer of a step expires (R137, R141). -/
def State.travelExpired (s : State) (g : Fin 4) (k : Fin 8) : State :=
  match ((s.group g).steps.at k).travel with
  | none => s
  | some d =>
    let s := s.reach d
    let s := s.setStep g k { (s.group g).steps.at k with travel := none }
    if ((s.group g).steps.at k).state = .commanded
        ∧ ((s.group g).state = .closing ∨ (s.group g).state = .opening) then
      s.failStep g k .timeout
    else s

/-- The retry timer of a step expires: a new CLOSE is built (R137). -/
def State.retryExpired (s : State) (g : Fin 4) (k : Fin 8) : State :=
  match ((s.group g).steps.at k).retry with
  | none => s
  | some d =>
    let s := s.reach d
    let s := s.setStep g k { (s.group g).steps.at k with retry := none }
    if ((s.group g).steps.at k).state = .commanded ∧ (s.group g).state = .closing then
      s.buildDoor g k .close
    else s

/-! ### Send-pending frames (R71, R130) -/

/-- A step offers its pending STOP. -/
def State.offerStop (g : Fin 4) (s : State) (k : Fin 8) : State :=
  match ((s.group g).steps.at k).pendingStop with
  | none => s
  | some r =>
    match s.offer r with
    | (s, true) => s.setStep g k { (s.group g).steps.at k with pendingStop := none }
    | (s, false) => s

/-- A step offers its pending CLOSE or OPEN, urgent when the mark is set at this offering. -/
def State.offerCmd (g : Fin 4) (s : State) (k : Fin 8) : State :=
  match ((s.group g).steps.at k).pendingCmd with
  | none => s
  | some r =>
    match s.offer { r with urgent := (s.group g).mark } with
    | (s, true) => s.setStep g k { (s.group g).steps.at k with pendingCmd := none }
    | (s, false) => s

/-- A group offers its pending STOPs, then its pending CLOSE and OPEN frames, in step order. -/
def State.offerGroupPending (s : State) (g : Fin 4) : State :=
  allSteps.foldl (State.offerCmd g) (allSteps.foldl (State.offerStop g) s)

/-- The freed places offered to the pending frames: groups 0 to 3, then zones 0 to 11 (R71). -/
def State.offerPending (s : State) : State :=
  allZones.foldl State.offerZonePending (allGroups.foldl State.offerGroupPending s)

/-! ### Swap and restart (R143, R145) -/

/-- The swap of DOORS at one group; a new step starts from the issue of its place (R143, log 50). -/
def State.swapGroup (s : State) (g : Fin 4) (d : GroupDef) : State :=
  let r := s.group g
  let s := s.setGroup g { r with defn := d }
  if r.defn.doors = d.doors then s
  else
    let s := s.resetSteps g
    if r.state = .idle then s else s.enterGroup g .idle

/-- A step at RESTART: nothing pending, its timers stopped (R145). -/
def Step.quiet (t : Step) : Step :=
  { t with travel := none, retry := none, pendingStop := none, pendingCmd := none }

/-- A group at RESTART: CLOSED stays with its step records, any other state becomes IDLE; no notice
(R145). -/
def State.restartGroup (s : State) (g : Fin 4) : State :=
  let r := s.group g
  let stay := r.state == .closed
  let s := s.setGroup g
    { r with
      state := if stay then .closed else .idle
      mark := false, ready := false, warnTimer := none, spacing := none
      steps := Tab.make fun k =>
        if stay then (r.steps.at k).quiet else (r.steps.at k).restarted.quiet }
  s.writeLocal (groupEntry g) (s.group g).state.code

end Sys2Proof.Machine
end

