-- ==== Sys2Proof/Machine/DeckCondition.lean ====
section
/-! DEFINITION. The Deck Condition Controller: publication, requests to object 0, automatic entry to SEA,
the fire-alarm input, EMERGENCY (R43 to R56). -/

namespace Sys2Proof.Machine

open Sys2Proof

/-- Cause codes of a change of the deck condition (R43). -/
inductive DeckCause where
  | setCondition | automaticSea | acceptIncomplete | fireAlarm | recover
  deriving DecidableEq, Repr

/-- The number of a cause (R43). -/
def DeckCause.code : DeckCause → Byte
  | .setCondition => 1 | .automaticSea => 2 | .acceptIncomplete => 3 | .fireAlarm => 4 | .recover => 5

/-- The deck condition a code names (R45). -/
def DeckCondition.ofCode? (b : Byte) : Option DeckCondition :=
  match b.toNat with
  | 0 => some .harbour | 1 => some .loading | 2 => some .closingUp | 3 => some .sea
  | 4 => some .emergency
  | _ => none

/-- A change of the deck condition, published in entry 0 and by a notice (R43). -/
def State.changeDeck (s : State) (d : DeckCondition) (cause : DeckCause) : State :=
  let old := s.dcc.deck
  let s := { s with dcc := { s.dcc with deck := d } }
  (s.writeLocal 0 d.code).notice 0 d.code [old.code, cause.code]

/-- The value a channel's state entry reads (R45). -/
def State.rampEntry (s : State) (ch : Channel) : Byte := s.img.locals.at ch.stateEntry

/-- The value a group's entry reads (R45). -/
def State.groupValue (s : State) (g : Fin 4) : Byte := s.img.locals.at (groupEntry g)

/-- Whether a channel's entry reads STARTING or a motion state (R46). -/
def State.rampMoves (s : State) (ch : Channel) : Bool :=
  [2, 3, 4, 6, 7, 9, 11].contains (s.rampEntry ch).toNat

/-- Whether every enabled channel reads STOWED_LOCKED (R47, R48). -/
def State.rampsStowed (s : State) : Bool :=
  [Channel.a, Channel.b].all fun ch => s.rampEntry ch == 0 || s.rampEntry ch == 1

/-- The SEA groups, in order. -/
def State.seaGroups (s : State) : List (Fin 4) := allGroups.filter fun g => (s.group g).defn.sea

/-- The test of R48. -/
def State.seaReady (s : State) : Bool :=
  (s.seaGroups.all fun g => s.groupValue g == 4) && s.rampsStowed

/-- The test of R48 made, and SEA entered when it holds. -/
def State.trySea (s : State) : State :=
  if s.dcc.deck = .closingUp ∧ s.seaReady = true then s.changeDeck .sea .automaticSea else s

/-- The requirement of ACCEPT_INCOMPLETE (R49). -/
def State.mayAcceptIncomplete (s : State) : Bool :=
  (s.seaGroups.all fun g =>
      s.groupValue g != 1 && s.groupValue g != 2 && s.groupValue g != 3)
    && (s.seaGroups.any fun g => s.groupValue g == 5) && s.rampsStowed

/-- A pending commit aborted by the entry to EMERGENCY; its notice carries the section set (R178, log 45). -/
def State.abortCommit (s : State) : State :=
  match s.ts.commit with
  | none => s
  | some c =>
    let s := { s with ts := { s.ts with commit := none } }
    (s.raiseFlag .commitExpired).notice 30 3 [c.set]

/-- Entry to EMERGENCY: published, every lit step raised, the requests of R53 issued in the order call, doors,
ramps, commit, proof test (R53, R164, log 40). -/
def State.enterEmergency (s : State) (cause : DeckCause) : State :=
  let s := (s.changeDeck .emergency cause).raiseBeacons.placeEmergency
  let s := allGroups.foldl
    (fun s g => if (s.group g).defn.fire then s.emergencyClose g else s) s
  ((s.haltRamp .a).haltRamp .b).abortCommit.endTest .aborted

/-- Entry to CLOSING_UP: the close requests to the SEA groups, then the test of R48 (R47). -/
def State.closeUp (s : State) : State :=
  let s := s.changeDeck .closingUp .setCondition
  (s.seaGroups.foldl (fun s g => s.normalClose g none) s).trySea

/-- The return from CLOSING_UP to LOADING: the cancel requests to the SEA groups (R50). -/
def State.reopen (s : State) : State :=
  let s := s.changeDeck .loading .setCondition
  s.seaGroups.foldl State.cancelGroup s

/-- The transition a SET_CONDITION names from the present deck condition: the refusal, or the state
after it (R45). -/
def State.setTarget (s : State) (d : DeckCondition) : Except Reason (State → State) :=
  match s.dcc.deck, d with
  | .harbour, .loading =>
    if s.condition s.settings.loadingPermit then .ok fun s => s.changeDeck .loading .setCondition
    else .error (.conditionFalse s.settings.loadingPermit)
  | .loading, .harbour =>
    if s.rampMoves .a || s.rampMoves .b then .error .state
    else .ok fun s => s.changeDeck .harbour .setCondition
  | .harbour, .closingUp | .loading, .closingUp =>
    if s.rampsStowed then .ok State.closeUp else .error .state
  | .closingUp, .loading => .ok State.reopen
  | .sea, .harbour => .ok fun s => s.changeDeck .harbour .setCondition
  | .harbour, .emergency | .loading, .emergency | .closingUp, .emergency | .sea, .emergency =>
    .ok fun s => s.enterEmergency .setCondition
  | .harbour, .harbour | .loading, .loading | .closingUp, .closingUp | .sea, .sea
  | .emergency, .emergency | .harbour, .sea | .loading, .sea | .closingUp, .harbour | .closingUp, .sea
  | .sea, .loading | .sea, .closingUp | .emergency, .harbour | .emergency, .loading
  | .emergency, .closingUp | .emergency, .sea => .error .transition

/-- SET_CONDITION (R45). -/
def State.setCondition (s : State) (q : Request) : State :=
  match q.payload with
  | [b] =>
    match DeckCondition.ofCode? b with
    | none => s.reply q.source 0 .badRequest
    | some d =>
      if d = s.dcc.deck then s.reply q.source 0 .done
      else
        match s.setTarget d with
        | .ok f => f (s.reply q.source 0 .done)
        | .error r => s.refuse q.source 0 r
  | _ => s.reply q.source 0 .badRequest

/-- ACCEPT_INCOMPLETE (R45, R49). -/
def State.acceptIncomplete (s : State) (q : Request) : State :=
  if q.payload ≠ [] then s.reply q.source 0 .badRequest
  else if s.dcc.deck ≠ .closingUp then s.refuse q.source 0 .transition
  else if s.mayAcceptIncomplete then
    (s.reply q.source 0 .done).changeDeck .sea .acceptIncomplete
  else s.refuse q.source 0 .state

/-- RECOVER (R45, R54). -/
def State.recoverDeck (s : State) (q : Request) : State :=
  if q.payload ≠ [] then s.reply q.source 0 .badRequest
  else if s.dcc.deck ≠ .emergency then s.refuse q.source 0 .transition
  else if s.dcc.fire.level then s.refuse q.source 0 .state
  else ((s.reply q.source 0 .done).changeDeck .harbour .recover).removeEntry 6

/-- A COMMAND delivered to object 0, by its verb (R44, R45). -/
def State.deckCommand (s : State) (verb : Byte) (q : Request) : State :=
  match verb.toNat with
  | 1 => s.setCondition q
  | 2 => s.acceptIncomplete q
  | 3 => s.recoverDeck q
  | _ => s.reply q.source 0 .badRequest

/-- Entry 9 written without an event, at the first acceptance after full reset (R21, R52). -/
def State.firstFireLevel (s : State) (active : Bool) : State :=
  { s with img := { s.img with locals := s.img.locals.put 9 (Machine.bit active) } }

/-- A FIRE_ALARM level accepted (R52). -/
def State.fireAccepted (s : State) (active : Bool) : State :=
  let old := s.dcc.fire
  let s := { s with pins := { s.pins with fireAlarm := active }
                    dcc := { s.dcc with fire := old.accept active } }
  if old.seen = false then s.firstFireLevel active
  else if old.level = active then s
  else
    let s := s.writeLocal 9 (Machine.bit active)
    if active = true ∧ s.settings.fireEnable = true ∧ s.dcc.deck ≠ .emergency then
      s.enterEmergency .fireAlarm
    else s

end Sys2Proof.Machine
end

