-- ==== Sys2Proof/Machine/Consistency.lean ====
section
/-! DEFINITION. The consistency check of a commit, section by section (R174, with R38, R57, R124, R126 and
the zero bytes of R167). Each check answers whether one record fails. -/

namespace Sys2Proof.Machine

open Sys2Proof

/-- A byte of a copy as a number. -/
def Memory.num (m : Memory) (a : Nat) : Nat := (m.read a).toNat

/-- Whether a number is outside a range. -/
def outside (lo hi n : Nat) : Bool := decide (n < lo) || decide (hi < n)

/-- Whether a zone set is empty or names a zone above 11 (R124, R126, R174). -/
def badZones (n : Nat) : Bool := outside 1 4095 n

/-! ### OBJECTS -/

/-- Whether definition d is used. -/
def defUsed (m : Memory) (d : Nat) : Bool := m.num (6 * d) != 0

/-- Whether two definitions have the same node and object. -/
def sameObject (m : Memory) (d e : Nat) : Bool :=
  m.read (6 * d + 1) == m.read (6 * e + 1) && m.read (6 * d + 2) == m.read (6 * e + 2)

/-- Whether definition d fails (R174). -/
def badDef (node : NodeNo) (m : Memory) (d : Nat) : Bool :=
  let o := 6 * d
  decide (4 < m.num o)
    || (defUsed m d
      && (outside 1 62 (m.num (o + 1)) || m.num (o + 1) == node.toNat
        || decide (1 < m.num (o + 3)) || outside 20 20000 (m.read16 (o + 4))
        || (List.range d).any fun e => defUsed m e && sameObject m d e))

/-- Whether an image index is a used remote entry of a kind, by the OBJECTS content given. -/
def isKind (objects : Memory) (kind index : Nat) : Bool :=
  decide (32 ≤ index) && decide (index ≤ 127) && objects.num (6 * (index - 32)) == kind

/-! ### CONDITIONS -/

/-- Whether a term fails: an index above 127, an unused remote entry or an unused local entry, an
unknown test, an operand of 255 (R38, R174). -/
def badTerm (objects : Memory) (index test operand : Nat) : Bool :=
  decide (127 < index) || (decide (24 ≤ index) && decide (index ≤ 31))
    || (decide (32 ≤ index) && !defUsed objects (index - 32))
    || decide (3 < test) || operand == 255

/-- Whether the record of condition c fails (R38). -/
def badCondition (objects m : Memory) (c : Nat) : Bool :=
  let o := 13 * (c - 1)
  let count := m.num o % 16
  decide (1 < m.num o / 16) || outside 1 4 count
    || (List.range count).any fun t =>
      badTerm objects (m.num (o + 1 + 3 * t)) (m.num (o + 2 + 3 * t)) (m.num (o + 3 + 3 * t))

/-! ### PASSAGE -/

/-- Whether passage entry e fails (R57, R167). -/
def badPassEntry (m : Memory) (e : Nat) : Bool :=
  let o := 2 + 12 * e
  let b0 := m.read o
  let action := b0.toNat % 16
  b0.getLsbD 6 || decide (2 < b0.toNat / 16 % 4) || decide (6 < action)
    || (m.read (o + 1)).getLsbD 7 || (m.read (o + 1)).getLsbD 3
    || decide (63 < m.num (o + 2)) || decide (63 < m.num (o + 3))
    || decide (31 < m.num (o + 8)) || (action == 6 && m.num (o + 9) == 0)
    || m.num (o + 10) != 0 || m.num (o + 11) != 0

/-- Whether the header fails (R57). -/
def badHeader (m : Memory) : Bool := decide (1 < m.num 0) || decide (1 < m.num 1)

/-! ### RAMPS -/

/-- Whether a field of an enabled channel's record is outside its range (R124). -/
def RampParams.outOfRange (p : RampParams) : Bool :=
  decide (p.deployPos ≤ p.stowPos)
    || outside 1 4095 p.wLand || outside 1 4095 p.wStow || outside 1 4095 p.wOver
    || outside 1 4095 p.wUnder || outside 16 8000 p.vMax || outside 1 p.vMax p.vCreep
    || decide (p.vCreep < p.vStill) || decide (4000 < p.vMargin) || outside 1 1000 p.accel
    || outside 1 2000 p.accelStop || outside 1 16 p.filter || decide (1023 < p.kff)
    || decide (1023 < p.kp) || decide (4000 < p.iLim) || outside 200 4000 p.pwmN
    || decide (p.pwmN < p.f0) || outside 1 p.pwmN p.dMax || outside 1 255 p.nSettle
    || outside 1 255 p.nLift || outside 1 255 p.nStall || outside 1 255 p.nOver
    || outside 1 4095 p.pMax || outside 5 300 p.tPin || outside 10 600 p.tMotion
    || decide (60 < p.tPrewarn) || decide (31 < p.lowerPermit.toNat)
    || decide (31 < p.raisePermit.toNat) || decide (63 < p.message.toNat) || decide (8 < p.pattern)

/-- Whether a channel's record fails (R124, R174). -/
def badRamp (m : Memory) (ch : Channel) : Bool :=
  let o := rampOffset ch
  decide (1 < m.num o) || (List.range 7).any (fun i => m.num (o + 57 + i) != 0)
    || (m.num o == 1 && ((readRamp m ch).outOfRange || badZones (m.read16 (o + 53))))

/-! ### DOORS -/

/-- The door list bytes of a group that its door count admits. -/
def doorBytes (m : Memory) (g : Nat) : List Nat :=
  (List.range (min 8 (m.num (24 * g + 1)))).map fun i => m.num (24 * g + 2 + i)

/-- Whether a list holds one number twice. -/
def hasTwice : List Nat → Bool
  | [] => false
  | x :: xs => xs.contains x || hasTwice xs

/-- Whether group g fails; of two groups with one image index in their door lists the later fails (R126,
R174, log 46). -/
def badGroup (objects m : Memory) (g : Nat) : Bool :=
  let o := 24 * g
  let doors := doorBytes m g
  let earlier := (List.range g).flatMap (doorBytes m)
  decide (3 < m.num o) || (List.range 3).any (fun i => m.num (o + 21 + i) != 0)
    || decide (8 < m.num (o + 1))
    || (m.num (o + 1) != 0
      && (doors.any (fun i => !isKind objects 1 i) || hasTwice doors
        || doors.any (fun i => earlier.contains i)
        || badZones (m.read16 (o + 10)) || decide (63 < m.num (o + 12)) || decide (8 < m.num (o + 13))
        || decide (120 < m.num (o + 14)) || decide (30 < m.num (o + 15))
        || decide (30 < m.num (o + 16)) || outside 1 120 (m.num (o + 17))
        || outside 1 30 (m.num (o + 18)) || decide (31 < m.num (o + 19))
        || decide (31 < m.num (o + 20))))

/-! ### CALLS, BEACONS, SETTINGS -/

/-- Whether a zone's byte fails (R159, R174). -/
def badZoneByte (objects m : Memory) (z : Nat) : Bool := m.num z != 0 && !isKind objects 2 (m.num z)

/-- Whether beacon b's record fails (R167, R174). -/
def badBeacon (m : Memory) (b : Nat) : Bool :=
  let o := 3 * b
  decide (3 < m.num o)
    || (if m.num o = 1 then decide (11 < m.num (o + 1)) else m.num (o + 1) != 0)
    || (m.read (o + 2)).extractLsb' 5 2 != 0#2

/-- Whether pattern p + 1's record fails (R174). -/
def badPattern (m : Memory) (p : Nat) : Bool := outside 1 15 (m.num (26 + 3 * p))

/-- Whether the SETTINGS record fails (R174, R188). -/
def badSettings (m : Memory) : Bool :=
  (m.read 4 &&& 0xFA#8) != 0#8 || (m.read 5).getLsbD 7
    || (m.read16 6 != 0 && outside 500 10000 (m.read16 6)) || outside 5 60 (m.num 8)
    || decide (31 < m.num 9) || decide (1 < m.num 10) || badZones (m.read16 11)
    || decide (63 < m.num 13) || decide (8 < m.num 14) || decide (8 < m.num 15)

/-! ### The check -/

/-- The first record of a section that fails, by its entry number (R174). -/
def firstBad (node : NodeNo) (objects m : Memory) (i : Fin 8) : Option Nat :=
  match i.val with
  | 0 => (List.range 96).find? (badDef node m)
  | 1 => (List.range' 1 31).find? (badCondition objects m)
  | 2 => ((List.range 64).find? (badPassEntry m)).or (if badHeader m then some 64 else none)
  | 3 => if badRamp m .a then some 0 else if badRamp m .b then some 1 else none
  | 4 => (List.range 4).find? (badGroup objects m)
  | 5 => (List.range 12).find? (badZoneByte objects m)
  | 6 => ((List.range 8).find? (badBeacon m)).or (((List.range 8).find? (badPattern m)).map (8 + ·))
  | _ => if badSettings m then some 0 else none

/-- The copy a section would have ACTIVE after the set is swapped in (R174). -/
def State.wouldBe (s : State) (set : Byte) (i : Fin 8) : Memory :=
  if inSet set i then (s.sec i).standby else (s.sec i).active

/-- The check of one section: 255 for a listed section never loaded or an unlisted one that is CORRUPT;
an unlisted EMPTY section is not checked itself (R174). -/
def State.checkSection (s : State) (set : Byte) (i : Fin 8) : Option Nat :=
  let listed := inSet set i
  if listed && !(s.sec i).standbyValid then some 255
  else if !listed && (s.sec i).status == .corrupt then some 255
  else if !listed && (s.sec i).status == .empty then none
  else firstBad s.node (s.wouldBe set 0) (s.wouldBe set i) i

/-- The consistency check: the section code and entry number of the first failure (R174). -/
def State.inconsistency (s : State) (set : Byte) : Option (Byte × Byte) :=
  allSecs.findSome? fun i =>
    (s.checkSection set i).map fun e => (BitVec.ofNat 8 i.val, BitVec.ofNat 8 e)

end Sys2Proof.Machine
end

