-- ==== Sys2Proof/Machine/Tables.lean ====
section
/-! DEFINITION. The Table Store: loading and reading copies, commit, swap, copy, scrub (R166 to R180), and
what each block does at the swap. -/

namespace Sys2Proof.Machine

open Sys2Proof

/-- The section a byte names (R168). -/
def sectionOf? (b : Byte) : Option (Fin 8) := if h : b.toNat < 8 then some ⟨b.toNat, h⟩ else none

/-! ### The copy (R177) -/

/-- The milliseconds a section's copy takes: 1 for each 64 bytes or part of 64 (R177). -/
def copyMs (i : Fin 8) : Nat := (secSize i + 63) / 64

/-- The milliseconds the listed sections before a number take. -/
def copyMsBefore (set : Byte) (n : Nat) : Nat :=
  ((allSecs.filter fun i => inSet set i && decide (i.val < n)).map copyMs).foldl (· + ·) 0

/-- The tick at which the copy completes. -/
def CopyRec.due (c : CopyRec) : Nat := c.start + copyMsBefore c.set 8 * Config.msec

/-- How many bytes of a section the copy has written at a tick; within a millisecond a free value
(log 12). -/
def CopyRec.reached (c : CopyRec) (i : Fin 8) (now : Nat) : Nat :=
  let ms := (now - c.start) / Config.msec
  let before := copyMsBefore c.set i.val
  if ms < before then 0
  else min (secSize i) (64 * (ms - before) + min 64 (Config.copyReached (now - c.start)))

/-- A byte of a STANDBY copy as a reader finds it (R170). -/
def State.standbyByte (s : State) (i : Fin 8) (a : Nat) : Byte :=
  match s.ts.copy with
  | none => (s.sec i).standby.read a
  | some c =>
    if inSet c.set i && decide (a < c.reached i s.now) then (s.sec i).active.read a
    else (s.sec i).standby.read a

/-- Whether a commit is pending or a copy is running. -/
def State.tablesBusy (s : State) : Bool := s.ts.commit.isSome || s.ts.copy.isSome

/-! ### LOAD and READ_TABLE (R169, R170) -/

/-- LOAD (R168, R169). -/
def State.loadTable (s : State) (q : Request) : State :=
  match q.payload with
  | sb :: hi :: lo :: data =>
    match sectionOf? sb with
    | none => s.reply q.source 1 .badRequest
    | some i =>
      if data.length = 0 ∨ 9 < data.length ∨ secSize i < word16 hi lo + data.length then
        s.reply q.source 1 .badRequest
      else if s.tablesBusy then s.reply q.source 1 .busy
      else
        let x := s.sec i
        (s.setSec i { x with standby := x.standby.writes (word16 hi lo) data, standbyValid := true }).reply
          q.source 1 .done
  | _ => s.reply q.source 1 .badRequest

/-- READ_TABLE (R168, R170). -/
def State.readTable (s : State) (q : Request) : State :=
  match q.payload with
  | [bank, sb, hi, lo, len] =>
    match sectionOf? sb with
    | none => s.reply q.source 4 .badRequest
    | some i =>
      if 1 < bank.toNat ∨ len.toNat = 0 ∨ 10 < len.toNat ∨ secSize i < word16 hi lo + len.toNat then
        s.reply q.source 4 .badRequest
      else
        let byte := fun k =>
          if bank = 0 then (s.sec i).active.read (word16 hi lo + k)
          else s.standbyByte i (word16 hi lo + k)
        s.reply q.source 4 .done ((List.range len.toNat).map byte)
  | _ => s.reply q.source 4 .badRequest

/-! ### The swap (R176) -/

/-- The image reset by an OBJECTS swap or a RESTART: every remote entry 255 and AWAITING, the rotation at
its start, the outcome of an open POLL discarded (R36, R37). -/
def State.resetImage (s : State) : State :=
  let s := (List.finRange 96).foldl
    (fun s d => s.changeRemote d { value := 255, detail := [], standing := .awaiting, since := s.now }) s
  { s with img := { s.img with pointer := 0, pass := 0 } }

/-- The outcome of an open POLL transaction is to be discarded (R36). -/
def State.discardPoll (s : State) : State :=
  match s.dls.tx with
  | none => s
  | some t =>
    if t.kind = .poll then { s with dls := { s.dls with tx := some { t with discard := true } } } else s

/-- With the line FREE the arbiter is to choose, as a poll may have become due (R73). -/
def State.wakeArbiter (s : State) : State :=
  { s with dls := { s.dls with choose := s.dls.choose || decide (s.dls.line = Line.free) } }

/-- The OBJECTS swap at the Object Image and the rotation (R36). -/
def State.swapObjects (s : State) : State := s.resetImage.discardPoll.wakeArbiter

/-- Silence ends: entry 10 becomes 0 (R18). -/
def State.endSilence (s : State) : State := s.writeLocal 10 0

/-- T_bridge in ticks: stored in ms (R167). -/
def Settings.bridgeTime (x : Settings) : Nat := x.tBridge * Config.msec

/-- The silence timer at a SETTINGS swap (R18). -/
def State.swapSilence (s : State) : State :=
  let started : Silence := .running (s.now + s.settings.bridgeTime)
  if s.settings.tBridge = 0 then
    let s' := { s with bli := { s.bli with silence := .stopped } }
    if s.bli.silence = .expired then s'.endSilence else s'
  else
    match s.bli.silence with
    | .expired => s
    | .stopped | .running _ => { s with bli := { s.bli with silence := started } }

/-- The Object Image takes its definitions (R36). -/
def State.takeObjects (s : State) : State :=
  { s with img := { s.img with defs := readDefs (s.sec 0).active } }

/-- The Beacon Driver takes its records and patterns (R165). -/
def State.takeBeacons (s : State) : State :=
  let m := (s.sec 6).active
  { s with bd := { s.bd with recs := Tab.make (readBeacon m), patterns := Tab.make (readPattern m) } }

/-- The SETTINGS fields and the masks taken (R176, R188). -/
def State.takeSettings (s : State) : State :=
  let m := (s.sec 7).active
  { s with settings := readSettings m
           fc := { s.fc with masks := readMasks m, summaryMasks := readSummaryMasks m } }

/-- The plain working copies of the listed sections taken, before any block acts (R176, log 26). -/
def State.takeCopies (s : State) (set : Byte) : State :=
  let s := if inSet set 0 then s.takeObjects else s
  let s := if inSet set 6 then s.takeBeacons else s
  if inSet set 7 then s.takeSettings else s

/-- The SETTINGS swap at the blocks that act on it: silence timer, summaries, beacons of a FAULT ramp,
fire-alarm enable (R18, R52, R165, R188); R176 leaves the order of these blocks open, and this one is the
model's (log 57). -/
def State.swapSettings (s : State) : State :=
  let s := s.swapSilence.reform.formBeacons
  if s.settings.fireEnable = true ∧ s.dcc.fire.level = true ∧ s.dcc.deck ≠ .emergency then
    s.enterEmergency .fireAlarm
  else s

/-- The two channels take their records (R104). -/
def State.swapRamps (s : State) : State :=
  let m := (s.sec 3).active
  (s.swapRamp .a (readRamp m .a)).swapRamp .b (readRamp m .b)

/-- The four groups take their records (R143). -/
def State.swapGroups (s : State) : State :=
  allGroups.foldl (fun s g => s.swapGroup g (readGroup (s.sec 4).active g)) s

/-- The zones take their map and are moved (R159). -/
def State.swapCalls (s : State) (set : Byte) (oldDefs : Tab ObjDef 96) : State :=
  s.swapZones oldDefs fun z =>
    if inSet set 5 then readZoneIndex (s.sec 5).active z else (s.cl.zones.at z).index

/-- The blocks whose sections are listed act on them (R176). -/
def State.blocksSwap (s : State) (set : Byte) (oldDefs : Tab ObjDef 96) : State :=
  let s := if inSet set 0 then s.swapObjects else s
  let s := if inSet set 3 then s.swapRamps else s
  let s := if inSet set 4 then s.swapGroups else s
  let s := if inSet set 0 || inSet set 5 then s.swapCalls set oldDefs else s
  let s := if inSet set 6 then s.restartBeacons else s
  if inSet set 7 then s.swapSettings else s

/-- A section exchanged: the loaded copy ACTIVE and VALID with its code recorded; the STANDBY copy holds
the old content until the copy reaches it (R176, log 13). -/
def Sec.swap (x : Sec) (i : Fin 8) : Sec :=
  { active := x.standby
    standby := x.active
    status := .valid
    standbyValid := x.status == .valid
    code := some (checkCode (x.standby.slice 0 (secSize i))) }

/-- The listed sections exchanged, the commit-pending record closed, the copy started (R176). -/
def State.exchange (s : State) (set : Byte) : State :=
  { s with ts := { s.ts with
      secs := Tab.make fun i => if inSet set i then (s.sec i).swap i else s.sec i
      commit := none
      copy := some { set := set, start := s.now }
      slotSwapped := s.ts.slotSwapped || inSet set s.ts.slot } }

/-- The application of a commit; its notice is placed before the blocks act, so before that of a proof test which
the swap aborts (R176, R195, log 56). -/
def State.applyCommit (s : State) (set : Byte) : State :=
  let oldDefs := s.img.defs
  (((s.exchange set).notice 30 1 [set]).takeCopies set).blocksSwap set oldDefs

/-- Whether no ramp reads STARTING, LOCKING or a motion state and no group a sequence state (R175). -/
def State.gateOpen (s : State) : Bool :=
  ([Channel.a, Channel.b].all fun ch =>
      !s.rampMoves ch && s.rampEntry ch != 8)
    && (allGroups.all fun g => !(([1, 2, 3, 6] : List Nat).contains (s.groupValue g).toNat))

/-- The test of R175, for a pending commit. -/
def State.tryApply (s : State) : State :=
  match s.ts.commit with
  | none => s
  | some c => if s.gateOpen then s.applyCommit c.set else s

/-! ### COMMIT, ABORT and the expiry (R173, R178) -/

/-- The check code over the listed STANDBY copies joined in section order (R5, R173). -/
def State.standbyCode (s : State) (set : Byte) : Check :=
  checkCode ((allSecs.filter (inSet set)).flatMap fun i => (s.sec i).standby.slice 0 (secSize i))

/-- COMMIT (R173). -/
def State.commitTables (s : State) (q : Request) : State :=
  match q.payload with
  | [set, hi, lo] =>
    if set = 0 then s.reply q.source 2 .badRequest
    else if s.tablesBusy then s.reply q.source 2 .busy
    else if (s.standbyCode set).toNat ≠ word16 hi lo then s.reply q.source 2 .crcMismatch
    else if s.dcc.deck = .emergency then s.refuse q.source 2 .deckCondition
    else
      match s.inconsistency set with
      | some (code, entry) => s.reply q.source 2 .inconsistent [code, entry]
      | none =>
        let s := { s with ts := { s.ts with
          commit := some { set := set, expiry := s.now + Config.commitTime } } }
        (s.reply q.source 2 .accepted).tryApply
  | _ => s.reply q.source 2 .badRequest

/-- ABORT; its notice carries the section set (R178, log 45). -/
def State.abortTables (s : State) (q : Request) : State :=
  if q.payload ≠ [] then s.reply q.source 3 .badRequest
  else
    match s.ts.commit with
    | none => s.reply q.source 3 .done
    | some c =>
      (({ s with ts := { s.ts with commit := none } }).reply q.source 3 .done).notice 30 3 [c.set]

/-- The expiry of a pending commit (R178). -/
def State.commitExpired (s : State) : State :=
  match s.ts.commit with
  | none => s
  | some c =>
    let s := s.reach c.expiry
    let s := { s with ts := { s.ts with commit := none } }
    (s.raiseFlag .commitExpired).notice 30 2 [c.set]

/-- A section at the completion of the copy (R177). -/
def Sec.copied (x : Sec) : Sec := { x with standby := x.active, standbyValid := x.status != .corrupt }

/-- The completion of the copy (R177). -/
def State.copyCompleted (s : State) : State :=
  match s.ts.copy with
  | none => s
  | some c =>
    let s := s.reach c.due
    { s with ts := { s.ts with
        secs := Tab.make fun i => if inSet c.set i then (s.sec i).copied else s.sec i
        copy := none } }

/-! ### The scrub (R180, R194) -/

/-- Whether the slot's check finds a mismatch: the section VALID and not swapped in the slot, its code
different from the recorded one (R180). -/
def State.scrubMismatch (s : State) : Bool :=
  let i := s.ts.slot
  let x := s.sec i
  x.status == .valid && !s.ts.slotSwapped && x.code != some (checkCode (x.active.slice 0 (secSize i)))

/-- The check of the slot's own section; a mismatch makes it CORRUPT, and a CORRUPT RAMPS section halts the
channels, A before B (R100, R180, log 49). -/
def State.scrubSection (s : State) : State :=
  if s.scrubMismatch then
    let i := s.ts.slot
    let s := (s.setSec i { s.sec i with status := .corrupt }).raiseFlag .sectionCorrupt
    if i = 3 then (s.haltRamp .a).haltRamp .b else s
  else s

/-- The check of the test area, for a running SCRUB test (R194). -/
def State.scrubTest (s : State) : State :=
  if s.runsTest .scrub then
    s.endTest (if checkCode s.ts.testArea ≠ s.ts.testCode then .pass else .fail)
  else s

/-- The end of a scrub slot: the slot's own section, then the test area, and the next slot (R180, R194,
log 52). -/
def State.scrubSlotEnded (s : State) : State :=
  let due := s.ts.slotEnd
  let s := (s.reach due).scrubSection.scrubTest
  { s with ts := { s.ts with slot := s.ts.slot + 1, slotEnd := due + Config.slotTime, slotSwapped := false } }

end Sys2Proof.Machine
end

