-- ==== Sys2Proof/Machine/Management.lean ====
section
/-! DEFINITION. The Management Responder: the reading requests, flags, proof tests, RESTART and IDENTIFY
(R168, R171, R172, R181, R186, R187, R190 to R194), and the choice of a request by its code. -/

namespace Sys2Proof.Machine

open Sys2Proof

/-! ### READ_IMAGE (R171) -/

/-- Standing codes (R171). -/
def Standing.code : Standing → Nat
  | .awaiting => 0 | .valid => 1 | .stale => 2

/-- Poll class codes (R167). -/
def PollClass.code : PollClass → Nat
  | .fast => 0 | .slow => 1

/-- The four detail bytes, 0 beyond the count (R171). -/
def detailBytes (d : List Byte) : List Byte := (d ++ [0, 0, 0, 0]).take 4

/-- The twelve bytes of an image entry; of an unused definition the node byte and the object as they stand, the
limit's low 15 bits and the poll class (R171, log 35). -/
def State.imageBytes (s : State) (i : Nat) : List Byte :=
  match remoteOf? i with
  | none => [s.value i, 168, 0, 0, 0, 0, 0, 0, 0, 0, 0, 0]
  | some d =>
    let r := s.img.remotes.at d
    let def_ := s.img.defs.at d
    [r.value, BitVec.ofNat 8 (def_.kind.code * 32 + r.standing.code * 8 + r.detail.length)]
      ++ bytes16 (s.age d) ++ detailBytes r.detail
      ++ [def_.nodeByte, def_.object]
      ++ bytes16 (def_.poll.code * 32768 + def_.limit % 32768)

/-- READ_IMAGE (R168, R171). -/
def State.readImageRequest (s : State) (q : Request) : State :=
  match q.payload with
  | [i] =>
    if i.toNat ≤ 127 then s.reply q.source 5 .done (s.imageBytes i.toNat)
    else s.reply q.source 5 .badRequest
  | _ => s.reply q.source 5 .badRequest

/-! ### READ_STATE (R172) -/

/-- A signed number in two bytes (R172). -/
def signed16 (n : Int) : List Byte := bytes16 (n.emod 65536).toNat

/-- A signed number in three bytes (R172). -/
def signed24 (n : Int) : List Byte :=
  let u := (n.emod 16777216).toNat
  BitVec.ofNat 8 (u / 65536) :: bytes16 (u % 65536)

/-- The state of a ramp channel (R172). -/
def Ramp.stateBytes (r : Ramp) : List Byte :=
  [r.state.code,
   BitVec.ofNat 8 (r.dir.code * 64 + r.pendingStart.code * 16 + (if r.referenced then 2 else 0)
     + (if r.silence then 1 else 0)),
   r.cause.code] ++ signed24 r.x ++ signed16 r.s ++ signed16 r.vCmd

/-- Step state codes (R172). -/
def StepState.code : StepState → Nat
  | .waiting => 0 | .commanded => 1 | .confirmed => 2 | .failed => 3

/-- Failure cause codes (R172). -/
def StepCause.code : StepCause → Nat
  | .none => 0 | .timeout => 1 | .obstructed => 2 | .rejected => 3 | .noAnswer => 4
  | .localControl => 5 | .fault => 6

/-- The byte of a step (R172). -/
def Step.stateByte (t : Step) : Byte :=
  BitVec.ofNat 8 (t.state.code * 64 + t.cause.code * 8 + t.attempts % 4)

/-- The state of a door group (R172). -/
def Group.stateBytes (g : Group) : List Byte :=
  [g.state.code, BitVec.ofNat 8 ((if g.mark then 128 else 0) + g.defn.doors.length)]
    ++ g.active.map fun k => (g.steps.at k).stateByte

/-- Mark codes (R172). -/
def Mark.code : Mark → Nat
  | .none => 0 | .pending _ => 1 | .playing _ => 2 | .done => 3

/-- The origin byte of a call (R172). -/
def CallOrigin.byte : CallOrigin → Byte
  | .group g => BitVec.ofNat 8 g.val
  | .ramp .a => 64
  | .ramp .b => 65
  | .emergency => 128
  | .bridge src => (3#2 ++ src : BitVec 8)

/-- The marks as a 24-bit number (R172). -/
def Call.marksNumber (c : Call) : Nat :=
  (allZones.map fun z => (c.marks.at z).code * 4 ^ z.val).foldl (· + ·) 0

/-- The state of a call-list entry: bytes 1 to 7 are 0 for an absent one (R172). -/
def callBytes (e : Fin 16) (c : Option Call) : List Byte :=
  match c with
  | none => [BitVec.ofNat 8 e.val, 0, 0, 0, 0, 0, 0, 0]
  | some c =>
    [BitVec.ofNat 8 e.val,
     BitVec.ofNat 8 (128 + (if c.ready.isSome then 64 else 0) + c.priority.code),
     c.origin.byte,
     BitVec.ofNat 8 (c.marksNumber / 65536), BitVec.ofNat 8 (c.marksNumber / 256),
     BitVec.ofNat 8 c.marksNumber,
     c.message, BitVec.ofNat 8 (c.reps * 16 + c.pattern)]

/-- ACTIVE status codes (R172). -/
def ActiveStatus.code : ActiveStatus → Nat
  | .empty => 0 | .valid => 1 | .corrupt => 2

/-- The state of object 30 (R172). -/
def State.tableBytes (s : State) : List Byte :=
  bytes16 ((allSecs.map fun i => (s.sec i).status.code * 4 ^ i.val).foldl (· + ·) 0)
    ++ [BitVec.ofNat 8
          ((allSecs.map fun i => (if (s.sec i).standbyValid then 2 ^ i.val else 0)).foldl (· + ·) 0),
        match s.ts.commit with
          | none => 0
          | some c => c.set,
        match s.ts.copy with
          | none => 0
          | some c => c.set,
        match s.ts.commit with
          | none => 0
          | some c => BitVec.ofNat 8 ((c.expiry - s.now) / Config.second)]

/-- The state of one of the part's objects, none where the object or selector is not one (R172). -/
def State.objectState (s : State) (object selector : Byte) : Option (List Byte) :=
  if object = 16 then
    if h : selector.toNat < 16 then
      some (callBytes ⟨selector.toNat, h⟩ (s.cl.calls.at ⟨selector.toNat, h⟩))
    else none
  else if selector ≠ 0 then none
  else
    match object.toNat with
    | 0 => some [s.dcc.deck.code, Machine.bit s.dcc.fire.level, Machine.bit s.settings.fireEnable]
    | 1 => some (s.ramp .a).stateBytes
    | 2 => some (s.ramp .b).stateBytes
    | 4 => some (s.group 0).stateBytes
    | 5 => some (s.group 1).stateBytes
    | 6 => some (s.group 2).stateBytes
    | 7 => some (s.group 3).stateBytes
    | 30 => some s.tableBytes
    | _ => none

/-- READ_STATE (R168, R172). -/
def State.readStateRequest (s : State) (q : Request) : State :=
  match q.payload with
  | [object, selector] =>
    match s.objectState object selector with
    | some bytes => s.reply q.source 6 .done bytes
    | none => s.reply q.source 6 .badRequest
  | _ => s.reply q.source 6 .badRequest

/-! ### READ_FLAGS and CLEAR_FLAGS (R186, R187) -/

/-- The conditions byte of READ_FLAGS (R186). -/
def State.conditionsByte (s : State) : Byte :=
  BitVec.ofNat 8 (bitsToNat
    [s.bli.silence == .expired, s.anyStale, s.estopHolds .a, s.estopHolds .b, s.anySec .empty,
     s.anySec .corrupt, false, s.fc.alarm])

/-- The ten bytes of READ_FLAGS (R186). -/
def State.flagReport (s : State) : List Byte :=
  flagBytes s.fc.flags
    ++ [s.fc.summary.zeroExtend 8, s.conditionsByte,
        match s.fc.test with
          | none => 0
          | some t => t.id.code,
        match s.fc.last with
          | none => 0
          | some l => l.1.code,
        match s.fc.last with
          | none => 0
          | some l => l.2.code]

/-- READ_FLAGS (R186). -/
def State.readFlagsRequest (s : State) (q : Request) : State :=
  if q.payload ≠ [] then s.reply q.source 7 .badRequest else s.reply q.source 7 .done s.flagReport

/-- CLEAR_FLAGS (R187). -/
def State.clearFlagsRequest (s : State) (q : Request) : State :=
  match q.payload with
  | [b0, b1, b2, b3, b4] =>
    if 8 ≤ b4.toNat then s.reply q.source 8 .badRequest
    else
      let flags := s.flagsAfterClear (flagsOfBytes b0 b1 b2 b3 b4)
      (({ s with fc := { s.fc with flags := flags } }).reply q.source 8 .done (flagBytes flags)).reform
  | _ => s.reply q.source 8 .badRequest

/-! ### PROOF_TEST (R190 to R194) -/

/-- The test an identifier names (R190). -/
def TestId.ofCode? (b : Byte) : Option TestId :=
  match b.toNat with
  | 1 => some (.overspeed .a) | 2 => some (.overspeed .b)
  | 3 => some (.overload .a) | 4 => some (.overload .b)
  | 5 => some (.landInput .a) | 6 => some (.landInput .b)
  | 7 => some .scrub
  | _ => none

/-- Whether an argument is one the test takes (R191). -/
def TestId.takes (id : TestId) (arg : Byte) : Bool :=
  match id with
  | .scrub => decide (1 ≤ arg.toNat) && decide (arg.toNat ≤ 3)
  | .overspeed _ | .overload _ | .landInput _ => arg == 0

/-- The requirement of a test (R190). -/
def State.mayTest (s : State) (id : TestId) : Bool :=
  match id.channel? with
  | none => true
  | some ch => (s.ramp ch).state == .stowedLocked

/-- The fill patterns of the SCRUB test area (R194). -/
def testFill (arg : Byte) : List Byte :=
  (List.range 64).map fun i =>
    match arg.toNat with
    | 1 => 0
    | 2 => if i % 2 = 0 then 85 else 170
    | _ => BitVec.ofNat 8 i

/-- The start of a test: the record, the count of its monitor at 0, the test area filled with a code
that differs from its own in the lowest bit (R191, R192, R194). -/
def State.startTest (s : State) (id : TestId) (arg : Byte) : State :=
  let s := { s with fc := { s.fc with test := some { id := id, arg := arg, steps := 0 } } }
  let s := s.zeroTestCount id
  match id with
  | .scrub =>
    { s with ts := { s.ts with testArea := testFill arg, testCode := checkCode (testFill arg) ^^^ 1#16 } }
  | .overspeed _ | .overload _ | .landInput _ => s

/-- PROOF_TEST (R191). -/
def State.proofTestRequest (s : State) (q : Request) : State :=
  match q.payload with
  | [idb, arg] =>
    match TestId.ofCode? idb with
    | none => s.reply q.source 9 .badRequest
    | some id =>
      if id.takes arg = false then s.reply q.source 9 .badRequest
      else if s.fc.test.isSome then s.reply q.source 9 .busy
      else if s.dcc.deck = .emergency then s.refuse q.source 9 .deckCondition
      else if s.mayTest id = false then s.refuse q.source 9 .state
      else (s.reply q.source 9 .accepted).startTest id arg
  | _ => s.reply q.source 9 .badRequest

/-! ### RESTART and IDENTIFY (R168, R181) -/

/-- Whether a ramp is outside a rest state or a group in a sequence state (R181). -/
def State.sequenceRuns (s : State) : Bool :=
  !(s.ramp .a).state.isRest || !(s.ramp .b).state.isRest
    || allGroups.any fun g => (s.group g).state.isSequence

/-- Whether RESTART is refused (R181). -/
def State.restartRefused (s : State) : Bool :=
  s.sequenceRuns || s.tablesBusy || !s.held.isEmpty || s.fc.test.isSome

/-- RESTART: refused, or DONE with a restart pending from this event (R181). -/
def State.restartRequest (s : State) (q : Request) : State :=
  if q.payload ≠ [] then s.reply q.source 10 .badRequest
  else if s.restartRefused then s.refuse q.source 10 .state
  else
    let s := { s with bli := { s.bli with restarting := true } }
    s.place { frame := s.replyFrame q.source 10 .done [], restartReply := true }

/-- IDENTIFY: the part code 4280, the revision, N (R168). -/
def State.identifyRequest (s : State) (q : Request) : State :=
  if q.payload ≠ [] then s.reply q.source 11 .badRequest
  else s.reply q.source 11 .done [16, 184, 1, s.node.zeroExtend 8]

/-- A MANAGE frame to the part: the request its object names, acted on when its byte 4 is 0 (R3,
R168). -/
def State.manage (s : State) (f : Frame) : State :=
  let q : Request := { source := f.src, payload := f.payload }
  if f.verb ≠ 0 then s.reply f.src f.object .badRequest
  else
    match f.object.toNat with
    | 1 => s.loadTable q
    | 2 => s.commitTables q
    | 3 => s.abortTables q
    | 4 => s.readTable q
    | 5 => s.readImageRequest q
    | 6 => s.readStateRequest q
    | 7 => s.readFlagsRequest q
    | 8 => s.clearFlagsRequest q
    | 9 => s.proofTestRequest q
    | 10 => s.restartRequest q
    | 11 => s.identifyRequest q
    | _ => s.reply f.src f.object .badRequest

end Sys2Proof.Machine
end

