-- ==== Sys2Proof/Machine/Passage.lean ====
section
/-! DEFINITION. The Passage Filter: delivery to the part's objects, the actions in both directions, the held
list (R58 to R68). -/

namespace Sys2Proof.Machine

open Sys2Proof

/-! ### Delivery (R62) -/

/-- A CALL delivered to object 16, by its verb (R148, R149). -/
def State.callCommand (s : State) (verb : Byte) (q : Request) : State :=
  match verb.toNat with
  | 1 => s.placeCall q.source q.payload
  | 2 => s.cancelCall q.source q.payload
  | _ => s.reply q.source 16 .badRequest

/-- A frame for N handed to the block that owns its class and object (R62). -/
def State.deliver (s : State) (f : Frame) : State :=
  let q : Request := { source := f.src, payload := f.payload }
  match f.cls, f.object.toNat with
  | .command, 0 => s.deckCommand f.verb q
  | .command, 1 => s.rampCommand .a f.verb q
  | .command, 2 => s.rampCommand .b f.verb q
  | .command, 4 => s.groupCommand 0 f.verb q
  | .command, 5 => s.groupCommand 1 f.verb q
  | .command, 6 => s.groupCommand 2 f.verb q
  | .command, 7 => s.groupCommand 3 f.verb q
  | .call, 16 => s.callCommand f.verb q
  | _, _ => s.reply f.src f.object .badRequest

/-! ### Bridge to deck (R60, R61, R63) -/

/-- A frame offered to the deck transmit queue from the bridge; FULL to its source when it finds no
place (R60, R71). -/
def State.forward (s : State) (f : Frame) (urgent : Bool) (cond : Option Byte) : State :=
  match s.offer { frame := f, urgent := forwardUrgent f urgent, cond := cond, origin := .bridge f.src } with
  | (s, true) => s
  | (s, false) => s.reply f.src f.object .full

/-- A frame that the filter admits: delivered when it is for the part, forwarded otherwise. -/
def State.admitFrame (s : State) (f : Frame) (urgent : Bool) (cond : Option Byte) : State :=
  if f.dest = s.node then s.deliver f else s.forward f urgent cond

/-- A frame that enters the held list; FULL to its source when the list holds 8 (R64). -/
def State.holdFrame (s : State) (f : Frame) (p : PassEntry) : State :=
  if s.held.length < Config.heldSize then
    { s with held := s.held ++
        [{ frame := f, cond := p.cond, urgent := p.urgent, expiry := s.now + p.hold * Config.holdUnit }] }
  else s.reply f.src f.object .full

/-- A COMMAND or CALL dealt with by the entry that matched it (R60, R61). -/
def State.applyEntry (s : State) (f : Frame) (p : PassEntry) : State :=
  match p.action with
  | .pass => s.admitFrame f p.urgent none
  | .drop => s
  | .refuse => s.refuse f.src f.object .passageRule
  | .take => if f.dest = s.node then s.deliver f else s.refuse f.src f.object .passageRule
  | .guard =>
    if s.condition p.cond then s.admitFrame f p.urgent (some p.cond)
    else s.refuse f.src f.object (.conditionFalse p.cond)
  | .hold =>
    if s.condition p.cond then s.admitFrame f p.urgent (some p.cond) else s.holdFrame f p

/-- A COMMAND or CALL offered to the Passage Filter (R59, R60, R61, R63). -/
def State.offerBridge (s : State) (f : Frame) : State :=
  if (s.sec 2).status = .corrupt then
    if f.cls = .command ∧ f.verb = 3 ∧ f.dest = s.node then s.deliver f
    else s.refuse f.src f.object .corrupt
  else
    match s.firstMatch true f with
    | some p => s.applyEntry f p
    | none => if s.defaultDrops then s else s.reply f.src f.object .noRule

/-! ### Deck to bridge (R61, R63) -/

/-- A STATUS placed, as received, in the bridge transmit queue, the urgent flag clear (R10, R61). -/
def State.passStatus (s : State) (f : Frame) : State :=
  s.place { frame := { f with urgent := false }, restartReply := false }

/-- An absorbed STATUS offered to the Passage Filter (R58, R61, R63). -/
def State.offerStatus (s : State) (f : Frame) : State :=
  if (s.sec 2).status = .corrupt then s
  else
    match s.firstMatch false f with
    | none => s
    | some p =>
      match p.action with
      | .pass => s.passStatus f
      | .guard | .hold => if s.condition p.cond then s.passStatus f else s
      | .drop | .refuse | .take => s

/-! ### The held list (R65, R66) -/

/-- A record released: delivered, or offered to the deck transmit queue with its condition (R65). -/
def State.release (s : State) (r : HeldRec) : State := s.admitFrame r.frame r.urgent (some r.cond)

/-- The held records evaluated and released one after another, in list order (R65). `kept` are the
records before, which stay. -/
def State.heldPass (kept : List HeldRec) : List HeldRec → State → State
  | [], s => s
  | r :: rest, s =>
    if s.condition r.cond then
      State.heldPass kept rest (({ s with held := kept ++ rest }).release r)
    else State.heldPass (kept ++ [r]) rest s

/-- An image-change event, as the held list takes it (R65). -/
def State.evaluateHeld (s : State) : State := State.heldPass [] s.held s

/-- The record of earliest expiry, the first in list order among equals (R66). -/
def earliestHeld : List HeldRec → Option HeldRec
  | [] => none
  | r :: rest =>
    match earliestHeld rest with
    | none => some r
    | some x => if x.expiry < r.expiry then some x else some r

/-- The expiry of a held record: it leaves the list, and its source is answered LATE (R66). -/
def State.heldExpired (s : State) : State :=
  match earliestHeld s.held with
  | none => s
  | some r =>
    let s := s.reach r.expiry
    ({ s with held := s.held.erase r }).reply r.frame.src r.frame.object .late

end Sys2Proof.Machine
end

