-- ==== Sys2Proof/Machine/DeckLine.lean ====
section
/-! DEFINITION. The Deck Line Interface and Scheduler: poll rotation, arbiter, second look, transmission,
reply windows, outcomes; and the image's absorption and freshness (R11 to R17, R25 to R36, R72 to R75). -/

namespace Sys2Proof.Machine

open Sys2Proof

/-! ### The poll rotation (R32, R33, R34) -/

/-- Whether an entry is eligible in a pass (R32). -/
def ObjDef.eligible (d : ObjDef) (pass : Fin 8) : Bool := d.used && (d.poll == .fast || pass == 0)

/-- The walk from an index and pass to the first eligible entry; 768 places are every index in every
pass (R33). -/
def walk (defs : Tab ObjDef 96) : Nat → Fin 96 → Fin 8 → Option (Fin 96 × Fin 8)
  | 0, _, _ => none
  | n + 1, d, pass =>
    if (defs.at d).eligible pass then some (d, pass)
    else walk defs n (d + 1) (if d = 95 then pass + 1 else pass)

/-- Whether a remote entry is used. -/
def Image.anyUsed (i : Image) : Bool := (List.finRange 96).any fun d => (i.defs.at d).used

/-- The due poll: the entry and the pass the walk reached (R33). -/
def State.duePoll (s : State) : Option (Fin 96 × Fin 8) :=
  if s.img.anyUsed then walk s.img.defs 768 s.img.pointer s.img.pass else none

/-! ### Transmission (R12, R34) -/

/-- The tick of the last stop bit of a frame that begins now. -/
def State.lastStopOf (s : State) (f : Frame) : Nat := s.now + f.size * Config.charTime

/-- A poll begins: the frame, the transaction record, the rotation moved past the entry (R34). -/
def State.startPoll (s : State) (d : Fin 96) (pass : Fin 8) : State :=
  let o := s.img.defs.at d
  let f : Frame := { dest := o.node, urgent := false, src := s.node, cls := .poll, object := o.object,
                     verb := 0, payload := [] }
  { s with
    img := { s.img with pointer := d + 1, pass := if d = 95 then pass + 1 else pass }
    dls := { s.dls with
      line := .sending f (s.lastStopOf f), alternation := .poll
      tx := some { kind := .poll, node := o.node, object := o.object, origin := .entry d,
                   discard := false } } }

/-- The kind of a queued frame's transaction (R12). -/
def Frame.txKind (f : Frame) : TxKind := if f.cls = .call then .call else .command

/-- The owner of a frame told of the start of its transmission (R131, R155). -/
def State.tellStart (s : State) (r : DeckRec) : State :=
  match r.origin with
  | .bridge _ => s
  | .door g k issue cmd d => s.doorFrameStarted g k issue cmd d r.frame
  | .zone z issue play => s.zoneFrameStarted z issue play r.urgent r.frame

/-- The queue without its oldest frame of one order. -/
def Dls.dropFirst (d : Dls) (urgent : Bool) : Dls :=
  if urgent then { d with urgent := d.urgent.tail } else { d with normal := d.normal.tail }

/-- A chosen frame begins: it leaves the queue, the record is written unless it is a broadcast, the freed
place is offered, the owner is told (R12, R69, R71, log 9). -/
def State.startFrame (s : State) (r : DeckRec) : State :=
  let f := { r.frame with urgent := r.urgent }
  let d := s.dls.dropFirst r.urgent
  let s := { s with dls := { d with
    line := .sending f (s.lastStopOf f)
    alternation := if r.urgent then d.alternation else .frame
    tx := if f.dest = 63 then none
          else some { kind := f.txKind, node := f.dest, object := f.object, origin := .owner r.origin,
                      discard := false } } }
  s.offerPending.tellStart r

/-- A frame removed at its second look: refused with the late marker, the freed place offered (R72). -/
def State.removeLate (s : State) (r : DeckRec) (cond : Byte) : State :=
  let s := { s with dls := s.dls.dropFirst r.urgent }
  (s.refuse r.frame.src r.frame.object (.conditionFalse cond) true).offerPending

/-! ### The arbiter (R72, R73) -/

/-- What the arbiter may choose. -/
inductive Choice where
  | nothing
  | frame (r : DeckRec)
  | poll (d : Fin 96) (pass : Fin 8)
  deriving DecidableEq, Repr

/-- The choice, by the first step that applies (R73). -/
def State.choice (s : State) : Choice :=
  match s.dls.urgent, s.dls.normal, s.duePoll with
  | r :: _, _, _ => .frame r
  | [], r :: _, some (d, p) => if s.dls.alternation = .frame then .poll d p else .frame r
  | [], r :: _, none => .frame r
  | [], [], some (d, p) => .poll d p
  | [], [], none => .nothing

/-- The condition of a frame's second look that is false, if it has one (R72). -/
def State.lateCondition (s : State) (r : DeckRec) : Option Byte :=
  match r.cond with
  | none => none
  | some c => if s.condition c then none else some c

/-- The arbiter chooses, again after each frame removed at its second look (R72, R73). The number
bounds the frames it may remove. -/
def State.arbitrate : Nat → State → State
  | 0, s => s
  | n + 1, s =>
    match s.choice with
    | .nothing => s
    | .poll d p => s.startPoll d p
    | .frame r =>
      match s.lateCondition r with
      | none => s.startFrame r
      | some c => State.arbitrate n (s.removeLate r c)

/-- The line enters FREE and the arbiter is to choose (R73). -/
def State.freeLine (s : State) : State := { s with dls := { s.dls with line := .free, choose := true } }

/-! ### Absorption and freshness (R25, R28) -/

/-- A STATUS absorbed into an entry (R25, R26). -/
def State.absorb (s : State) (d : Fin 96) (f : Frame) : State :=
  s.changeRemote d { value := f.verb, detail := f.payload.take 4, standing := .valid, since := s.now }

/-- The freshness expiry of a used entry that is AWAITING or VALID (R28). -/
def State.freshnessExpired (s : State) (d : Fin 96) : State :=
  let r := s.img.remotes.at d
  if (s.img.defs.at d).used ∧ r.standing ≠ .stale then
    let s := s.reach (s.freshnessAt d)
    (s.changeRemote d { r with value := 255, detail := [], standing := .stale }).raiseFlag .objectStale
  else s

/-! ### The end of a transaction (R13, R14, R75) -/

/-- Whether a valid frame answers a transaction (R13). -/
def State.answers (s : State) (t : Transaction) (f : Frame) : Bool :=
  f.cls == (if t.kind = .poll then .status else .reply)
    && f.src == t.node && f.dest == s.node && f.object == t.object

/-- A node's REPLY relayed to the bridge source (R75). -/
def State.relay (s : State) (src : NodeNo) (f : Frame) : State :=
  s.place { frame := { f with dest := src, urgent := false }, restartReply := false }

/-- The outcome of an internal transaction, by the reply's result code alone (R14). -/
def outcomeOf (f : Frame) : Outcome := if f.verb = 0 ∨ f.verb = 1 then .accepted else .rejected

/-- An outcome told to the internal owner of a frame (R14). -/
def State.tellOutcome (s : State) (o : DeckOrigin) (r : Outcome) : State :=
  match o with
  | .bridge _ => s
  | .door g k issue cmd _ => s.doorOutcome g k issue cmd r
  | .zone z issue play => s.zoneOutcome z issue play (r == .accepted)

/-- A transaction answered (R14). -/
def State.answered (s : State) (t : Transaction) (f : Frame) : State :=
  match t.origin with
  | .entry d => (s.absorb d f).offerStatus f
  | .owner (.bridge src) => s.relay src f
  | .owner o => s.tellOutcome o (outcomeOf f)

/-- A transaction not answered (R14). -/
def State.notAnswered (s : State) (t : Transaction) : State :=
  match t.origin with
  | .entry _ => s
  | .owner (.bridge src) => (s.reply src t.object .noAnswer).raiseFlag .dlNoAnswer
  | .owner o => (s.tellOutcome o .noAnswer).raiseFlag .dlNoAnswer

/-- The open transaction ends with an answer or without; its record is emptied and its outcome handed on,
unless it is to be discarded (R14, R17). -/
def State.endTransaction (s : State) (answer : Option Frame) : State :=
  match s.dls.tx with
  | none => s
  | some t =>
    let s := { s with dls := { s.dls with tx := none } }
    if t.discard then s
    else
      match answer with
      | some f => s.answered t f
      | none => s.notAnswered t

/-! ### Events on the deck line (R12, R13, R15, R16) -/

/-- The last stop bit of the part's frame (R12, R16). -/
def State.deckFrameSent (s : State) : State :=
  match s.dls.line with
  | .sending f stop =>
    let s := s.reach stop
    { s with dls := { s.dls with
        line := if f.dest = 63 then .settling (s.now + Config.gapTime)
                else .window (s.now + Config.windowTime) } }
  | .free | .window _ | .receiving _ | .settling _ => s

/-- The expiry of the reply window (R13). -/
def State.windowExpired (s : State) : State :=
  match s.dls.line with
  | .window due => ((s.reach due).freeLine).endTransaction none
  | .free | .sending _ _ | .receiving _ | .settling _ => s

/-- The end of the gap after a broadcast (R16). -/
def State.settlingEnded (s : State) : State :=
  match s.dls.line with
  | .settling due => (s.reach due).freeLine
  | .free | .sending _ _ | .receiving _ | .window _ => s

/-- A start bit on the deck line: an answer candidate in a window, unsolicited in FREE and SETTLING, not
read while the part transmits (R11, R13, R15). -/
def State.startBit (s : State) : State :=
  match s.dls.line with
  | .window _ => { s with dls := { s.dls with line := .receiving true } }
  | .free | .settling _ => { s with dls := { s.dls with line := .receiving false } }
  | .sending _ _ | .receiving _ => s

/-- The frame end of an answer candidate: matched, or DL_FORMAT (R7, R13). -/
def State.candidateEnd (s : State) (chars : List RxChar) : State :=
  match s.dls.tx, receive chars with
  | some t, some f =>
    if s.answers t f then s.endTransaction (some f) else (s.raiseFlag .dlFormat).endTransaction none
  | _, _ => (s.raiseFlag .dlFormat).endTransaction none

/-- A frame end on the deck line (R13, R15). -/
def State.deckFrameEnd (s : State) (chars : List RxChar) : State :=
  match s.dls.line with
  | .receiving true => s.freeLine.candidateEnd chars
  | .receiving false => s.freeLine.raiseFlag .dlFormat
  | .free | .sending _ _ | .window _ | .settling _ => s

end Sys2Proof.Machine
end

