-- ==== Sys2Proof/Machine/BridgeLine.lean ====
section
/-! DEFINITION. The Bridge Line Interface: frame ends, routing, the silence timer, the transmitter; and
RESTART as it takes effect at every block (R9, R10, R18, R181, R182). -/

namespace Sys2Proof.Machine

open Sys2Proof

/-! ### Frame ends and silence (R9, R18) -/

/-- A valid frame received: the silence timer restarts, and silence ends (R18). -/
def State.heardBridge (s : State) : State :=
  let started : Silence := .running (s.now + s.settings.bridgeTime)
  match s.bli.silence with
  | .stopped => s
  | .running _ => { s with bli := { s.bli with silence := started } }
  | .expired => ({ s with bli := { s.bli with silence := started } }).endSilence

/-- A valid frame dealt with by its destination and class (R9). -/
def State.route (s : State) (f : Frame) : State :=
  if f.src = s.node then s
  else
    match f.cls with
    | .command | .call => s.offerBridge f
    | .manage => if f.dest = s.node then s.manage f else s
    | .poll | .status | .reply => s

/-- A frame end on the bridge line; while a restart is pending every valid frame is discarded after it
has restarted the timer (R7, R9, R181). -/
def State.bridgeFrameEnd (s : State) (chars : List RxChar) : State :=
  match receive chars with
  | none => s.raiseFlag .blFormat
  | some f => if s.bli.restarting then s.heardBridge else s.heardBridge.route f

/-- The expiry of the silence timer: silence begins, and the channels halt, A before B (R18, R99, log 49). -/
def State.silenceExpired (s : State) : State :=
  match s.bli.silence with
  | .running due =>
    let s := s.reach due
    let s := { s with bli := { s.bli with silence := .expired } }
    (((s.raiseFlag .bridgeSilent).writeLocal 10 1).silenceRamp .a).silenceRamp .b
  | .stopped | .expired => s

/-- The end of a frame's gap: the transmitter is idle, and takes the oldest frame queued (R10). -/
def State.bridgeFrameSent (s : State) : State :=
  match s.bli.tx with
  | none => s
  | some t => (({ s.reach t.idleAt with bli := { s.bli with tx := none } }).kickBridge)

/-! ### RESTART takes effect (R181, R182) -/

/-- The Bridge Line Interface at RESTART (R18, R78, R182). -/
def State.restartBridge (s : State) : State :=
  let silence : Silence :=
    if s.settings.tBridge = 0 then .stopped else .running (s.now + s.settings.bridgeTime)
  ({ s with bli := { s.bli with queue := [], silence := silence, restarting := false } }).endSilence

/-- The Deck Line Interface at RESTART (R17, R74). -/
def State.restartDeckLine (s : State) : State :=
  { s with dls := { s.dls with
      urgent := [], normal := [], alternation := .frame
      tx := s.dls.tx.map fun t => { t with discard := true } } }

/-- The ramp channels at RESTART (R106, R125). -/
def State.restartRamps (s : State) : State :=
  { s with ramps := { a := s.ramps.a.atRestart, b := s.ramps.b.atRestart } }

/-- The Fault Collector at RESTART: the flags cleared, the condition flags whose condition holds set
again, the summaries formed, and their notice to be placed whether or not they changed (R196, log 48). -/
def State.restartFlags (s : State) : State :=
  let s := ({ s with fc := { s.fc with flags := s.holding } }).reform
  { s with fc := { s.fc with owed := true } }

/-- The restart carried out; the beacons' patterns are formed from the emptied call list, before entry 6 is
placed again (R161, R165, R182, log 26). -/
def State.carryOut (s : State) : State :=
  let s := s.restartBridge.restartDeckLine.resetImage.wakeArbiter.restartRamps
  let s := (allGroups.foldl State.restartGroup s).restartCalls.formBeacons
  (if s.dcc.deck = .emergency then s.placeEmergency else s).restartFlags

/-- The pending restart takes effect: abandoned when a ramp or group has moved meanwhile, carried out
otherwise (R181). -/
def State.restartNow (s : State) : State :=
  if s.sequenceRuns then
    ({ s with bli := { s.bli with restarting := false } }).notice 30 4 [0]
  else s.carryOut

/-- Whether the RESTART reply still waits in the queue. -/
def Bli.replyQueued (b : Bli) : Bool := b.queue.any BridgeRec.restartReply

/-- The last stop bit of the RESTART reply (R181). -/
def State.restartTakesEffect (s : State) : State :=
  if s.bli.restarting = true ∧ s.bli.replyQueued = false then
    match s.bli.tx with
    | none => s.restartNow
    | some t => (if t.restartReply then s.reach t.lastStop else s).restartNow
  else s

/-- The discard of the RESTART reply (R181). -/
def State.restartDiscarded (s : State) : State := if s.bli.restarting then s.restartNow else s

end Sys2Proof.Machine
end

