-- ==== Sys2Proof/Machine/Cascade.lean ====
section
/-! DEFINITION. What follows from a block's action inside one command: the summary notice, image-change events,
readiness of calls, the discarded RESTART reply, and the arbiter's choice; and the shape of a command's meaning
(R31, R73, R156, R189, log 7, log 8, log 48). -/

namespace Sys2Proof.Machine

open Sys2Proof

/-- The local entries whose changes the Deck Condition Controller and the Table Store follow (R31). -/
def followedEntry (index : Nat) : Bool := ([1, 2, 5, 6, 7, 8] : List Nat).contains index

/-- An image-change event at the five blocks that follow it (R31), in the order held list, door groups 0 to 3,
call list, Deck Condition Controller, Table Store (log 7). -/
def State.imageChanged (s : State) (index : Nat) (value : Byte) : State :=
  let s := s.evaluateHeld
  let s := allGroups.foldl (fun s g => s.groupImageChange g index value) s
  let s := s.callsImageChange index value
  if followedEntry index then s.trySea.tryApply else s

/-- The ready time of a reserved entry reached, told to its origin (R156); nothing when the entry has been emptied,
or replaced by a call not ready, before the report is handled (R90, R91, R133, R135). -/
def State.callIsReady (s : State) (e : Fin 16) : State :=
  match e.val with
  | 0 => s.ownCallReady 0
  | 1 => s.ownCallReady 1
  | 2 => s.ownCallReady 2
  | 3 => s.ownCallReady 3
  | 4 => s.rampCallReady .a
  | 5 => s.rampCallReady .b
  | 6 => if s.emergencyReady then allGroups.foldl State.emergencyCallMoved s else s
  | _ => s

/-- One event handled; the removal of entry 6 is told to the groups from 0 to 3, as its readiness is (log 7);
nothing when entry 6 has been placed again before the report is handled: the waiting groups wait for the new
call (R53, R135). -/
def State.handle (s : State) : Task → State
  | .imageChange index _ after => s.imageChanged index.val after
  | .callReady e => s.callIsReady e
  | .emergencyCallRemoved => if (s.cl.calls.at 6).isNone then allGroups.foldl State.emergencyCallMoved s else s
  | .restartEffect => s.restartDiscarded

/-- The arbiter's choice, when one is to be made and the line is FREE (R73). -/
def State.chooseNext (s : State) : State :=
  let t := { s with dls := { s.dls with choose := false } }
  if s.dls.line = .free then t.arbitrate 32 else t

/-- What follows from an event's own action: the summary notice it owes, then the events it raised, in the order
they were raised and each with its own notice, and then the arbiter's choice, until nothing is left (log 7,
log 48). The number bounds the events of one command; events beyond it stay in the agenda for the next. -/
def State.settle : Nat → State → State
  | 0, s => s
  | n + 1, s =>
    if s.fc.owed then State.settle n s.announce
    else
      match s.agenda with
      | t :: rest => State.settle n (({ s with agenda := rest }).handle t)
      | [] => if s.dls.choose then State.settle n s.chooseNext else s

/-- How many events one command may handle. -/
def cascadeBound : Nat := 4096

/-- The meaning of a command whose own effect is `f`: nothing in the held start-up (R8, log 4), else the
effect and what follows from it. -/
def State.act (s : State) (f : State → State) : Host.Outcome State Fault Refusal :=
  if s.node = 63 then .next s else .next ((f s).settle cascadeBound)

/-- The meaning of a request delivered to its owner: discarded while a restart is pending (R181). -/
def State.actRequest (s : State) (f : State → State) : Host.Outcome State Fault Refusal :=
  s.act fun s => if s.bli.restarting then s else f s

end Sys2Proof.Machine
end

