-- ==== Sys2Proof/Machine/CallCommands.lean ====
section
/-! DEFINITION. Meanings of the commands of the call list and the beacons. -/

namespace Sys2Proof.Machine

open Sys2Proof

/-- PLACE (R149, R150). -/
def execPlace (q : Request) (s : State) : Host.Outcome State Fault Refusal :=
  s.actRequest fun s => s.placeCall q.source q.payload

/-- CANCEL (R151). -/
def execCancel (q : Request) (s : State) : Host.Outcome State Fault Refusal :=
  s.actRequest fun s => s.cancelCall q.source q.payload

/-- WAIT_TIMER_EXPIRY (R156). -/
def execWaitTimerExpiry (e : Fin 16) (s : State) : Host.Outcome State Fault Refusal :=
  s.act fun s => s.waitExpired e

/-- BEACON_STEP_EXPIRY (R163). -/
def execBeaconStepExpiry (b : Fin 8) (s : State) : Host.Outcome State Fault Refusal :=
  s.act fun s => s.stepBeacon b

end Sys2Proof.Machine
end

