-- ==== Sys2Proof/Machine/DeckCommands.lean ====
section
/-! DEFINITION. Meanings of the commands of the deck condition. -/

namespace Sys2Proof.Machine

open Sys2Proof

/-- SET_CONDITION (R45). -/
def execSetCondition (q : Request) (s : State) : Host.Outcome State Fault Refusal :=
  s.actRequest fun s => s.setCondition q

/-- ACCEPT_INCOMPLETE (R49). -/
def execAcceptIncomplete (q : Request) (s : State) : Host.Outcome State Fault Refusal :=
  s.actRequest fun s => s.acceptIncomplete q

/-- RECOVER (R54). -/
def execRecover (q : Request) (s : State) : Host.Outcome State Fault Refusal :=
  s.actRequest fun s => s.recoverDeck q

/-- FIRE_ALARM_ACCEPTED (R52). -/
def execFireAlarmAccepted (active : Bool) (s : State) : Host.Outcome State Fault Refusal :=
  s.act fun s => s.fireAccepted active

end Sys2Proof.Machine
end

