-- ==== Sys2Proof/Machine/DoorCommands.lean ====
section
/-! DEFINITION. Meanings of the commands of the door groups. -/

namespace Sys2Proof.Machine

open Sys2Proof

/-- CLOSE (R132, R135). -/
def execClose (g : Fin 4) (q : Request) (s : State) : Host.Outcome State Fault Refusal :=
  s.actRequest fun s => s.closeGroup g q

/-- OPEN (R140). -/
def execOpenDoors (g : Fin 4) (q : Request) (s : State) : Host.Outcome State Fault Refusal :=
  s.actRequest fun s => s.openGroup g q

/-- GROUP_STOP (R142). -/
def execGroupStop (g : Fin 4) (q : Request) (s : State) : Host.Outcome State Fault Refusal :=
  s.actRequest fun s => s.stopGroupRequest g q

/-- GROUP_WARNING_EXPIRY (R133, R135). -/
def execGroupWarningExpiry (g : Fin 4) (s : State) : Host.Outcome State Fault Refusal :=
  s.act fun s => s.groupWarningExpired g

/-- SPACING_EXPIRY (R136). -/
def execSpacingExpiry (g : Fin 4) (s : State) : Host.Outcome State Fault Refusal :=
  s.act fun s => s.spacingExpired g

/-- TRAVEL_EXPIRY (R137). -/
def execTravelExpiry (g : Fin 4) (k : Fin 8) (s : State) : Host.Outcome State Fault Refusal :=
  s.act fun s => s.travelExpired g k

/-- RETRY_EXPIRY (R137). -/
def execRetryExpiry (g : Fin 4) (k : Fin 8) (s : State) : Host.Outcome State Fault Refusal :=
  s.act fun s => s.retryExpired g k

end Sys2Proof.Machine
end

