-- ==== Sys2Proof/Machine/LineCommands.lean ====
section
/-! DEFINITION. Meanings of the commands of the two lines, of the held list and of the image. -/

namespace Sys2Proof.Machine

open Sys2Proof

/-- FULL_RESET: the straps read as the node number, every block at its full-reset values; the input pins
keep the levels they show (R8, R37, R56, R68, R78, R106, R125, R145, R161, R165, R183, R196). -/
def execFullReset (straps : BitVec 6) (s : State) : Host.Outcome State Fault Refusal :=
  .next { State.reset with pending := s.pending, straps := straps, node := straps, pins := s.pins }

/-- BRIDGE_FRAME_END (R7, R9). -/
def execBridgeFrameEnd (chars : List RxChar) (s : State) : Host.Outcome State Fault Refusal :=
  s.act fun s => s.bridgeFrameEnd chars

/-- BRIDGE_FRAME_SENT (R10). -/
def execBridgeFrameSent (s : State) : Host.Outcome State Fault Refusal :=
  s.act State.bridgeFrameSent

/-- BRIDGE_SILENCE_EXPIRY (R18). -/
def execBridgeSilenceExpiry (s : State) : Host.Outcome State Fault Refusal :=
  s.act State.silenceExpired

/-- RESTART_TAKES_EFFECT (R181, R182). -/
def execRestartTakesEffect (s : State) : Host.Outcome State Fault Refusal :=
  s.act State.restartTakesEffect

/-- HELD_RECORD_EXPIRY (R66). -/
def execHeldRecordExpiry (s : State) : Host.Outcome State Fault Refusal :=
  s.act State.heldExpired

/-- DECK_FRAME_SENT (R12, R16). -/
def execDeckFrameSent (s : State) : Host.Outcome State Fault Refusal :=
  s.act State.deckFrameSent

/-- REPLY_WINDOW_EXPIRY (R13). -/
def execReplyWindowExpiry (s : State) : Host.Outcome State Fault Refusal :=
  s.act State.windowExpired

/-- SETTLING_END (R16). -/
def execSettlingEnd (s : State) : Host.Outcome State Fault Refusal :=
  s.act State.settlingEnded

/-- DECK_FRAME_END (R13, R15). -/
def execDeckFrameEnd (chars : List RxChar) (s : State) : Host.Outcome State Fault Refusal :=
  s.act fun s => s.deckFrameEnd chars

/-- FRESHNESS_EXPIRY (R28). -/
def execFreshnessExpiry (d : Fin 96) (s : State) : Host.Outcome State Fault Refusal :=
  s.act fun s => s.freshnessExpired d

/-- DECK_LINE_START_BIT (R13, R15). -/
def execDeckLineStartBit (s : State) : Host.Outcome State Fault Refusal :=
  s.act State.startBit

end Sys2Proof.Machine
end

