-- ==== Sys2Proof/Machine/ManageCommands.lean ====
section
/-! DEFINITION. Meanings of the commands of the Management Responder and the Table Store. -/

namespace Sys2Proof.Machine

open Sys2Proof

/-- LOAD (R169). -/
def execLoad (q : Request) (s : State) : Host.Outcome State Fault Refusal :=
  s.actRequest fun s => s.loadTable q

/-- COMMIT (R173). -/
def execCommit (q : Request) (s : State) : Host.Outcome State Fault Refusal :=
  s.actRequest fun s => s.commitTables q

/-- ABORT (R178). -/
def execAbort (q : Request) (s : State) : Host.Outcome State Fault Refusal :=
  s.actRequest fun s => s.abortTables q

/-- READ_TABLE (R170). -/
def execReadTable (q : Request) (s : State) : Host.Outcome State Fault Refusal :=
  s.actRequest fun s => s.readTable q

/-- READ_IMAGE (R171). -/
def execReadImage (q : Request) (s : State) : Host.Outcome State Fault Refusal :=
  s.actRequest fun s => s.readImageRequest q

/-- READ_STATE (R172). -/
def execReadState (q : Request) (s : State) : Host.Outcome State Fault Refusal :=
  s.actRequest fun s => s.readStateRequest q

/-- READ_FLAGS (R186). -/
def execReadFlags (q : Request) (s : State) : Host.Outcome State Fault Refusal :=
  s.actRequest fun s => s.readFlagsRequest q

/-- CLEAR_FLAGS (R187). -/
def execClearFlags (q : Request) (s : State) : Host.Outcome State Fault Refusal :=
  s.actRequest fun s => s.clearFlagsRequest q

/-- PROOF_TEST (R191). -/
def execProofTest (q : Request) (s : State) : Host.Outcome State Fault Refusal :=
  s.actRequest fun s => s.proofTestRequest q

/-- RESTART (R181). -/
def execRestart (q : Request) (s : State) : Host.Outcome State Fault Refusal :=
  s.actRequest fun s => s.restartRequest q

/-- IDENTIFY (R168). -/
def execIdentify (q : Request) (s : State) : Host.Outcome State Fault Refusal :=
  s.actRequest fun s => s.identifyRequest q

/-- COMMIT_EXPIRY (R178). -/
def execCommitExpiry (s : State) : Host.Outcome State Fault Refusal :=
  s.act State.commitExpired

/-- COPY_COMPLETE (R177). -/
def execCopyComplete (s : State) : Host.Outcome State Fault Refusal :=
  s.act State.copyCompleted

/-- SCRUB_SLOT_END (R180, R194). -/
def execScrubSlotEnd (s : State) : Host.Outcome State Fault Refusal :=
  s.act State.scrubSlotEnded

end Sys2Proof.Machine
end

