-- ==== Sys2Proof/Machine/RampCommands.lean ====
section
/-! DEFINITION. Meanings of the commands of the ramp channels. -/

namespace Sys2Proof.Machine

open Sys2Proof

/-- LOWER (R84, R85). -/
def execLower (ch : Channel) (q : Request) (s : State) : Host.Outcome State Fault Refusal :=
  s.actRequest fun s => s.moveRamp ch .lower q

/-- RAISE (R84, R85). -/
def execRaise (ch : Channel) (q : Request) (s : State) : Host.Outcome State Fault Refusal :=
  s.actRequest fun s => s.moveRamp ch .raise q

/-- RAMP_STOP (R88). -/
def execRampStop (ch : Channel) (q : Request) (s : State) : Host.Outcome State Fault Refusal :=
  s.actRequest fun s => s.stopRamp ch q

/-- JOG (R87). -/
def execJog (ch : Channel) (q : Request) (s : State) : Host.Outcome State Fault Refusal :=
  s.actRequest fun s => s.jogRamp ch q

/-- RESET_FAULT (R89). -/
def execResetFault (ch : Channel) (q : Request) (s : State) : Host.Outcome State Fault Refusal :=
  s.actRequest fun s => s.resetRamp ch q

/-- RAMP_SWITCH_ACCEPTED (R82, R90, R92). -/
def execRampSwitchAccepted (ch : Channel) (sw : Switch) (active : Bool) (s : State) : Host.Outcome State Fault Refusal :=
  s.act fun s => s.switchAccepted ch sw active

/-- ESTOP_ACCEPTED (R82, R98). -/
def execEstopAccepted (active : Bool) (s : State) : Host.Outcome State Fault Refusal :=
  s.act fun s => s.estopChanged active

/-- PIN_TIMER_EXPIRY (R90, R92). -/
def execPinTimerExpiry (ch : Channel) (s : State) : Host.Outcome State Fault Refusal :=
  s.act fun s => s.pinExpired ch

/-- RAMP_WARNING_EXPIRY (R91). -/
def execRampWarningExpiry (ch : Channel) (s : State) : Host.Outcome State Fault Refusal :=
  s.act fun s => s.rampWarningExpired ch

/-- DEAD_MAN_EXPIRY (R87). -/
def execDeadManExpiry (ch : Channel) (s : State) : Host.Outcome State Fault Refusal :=
  s.act fun s => s.deadManExpired ch

/-- PERIOD_END (R93). -/
def execPeriodEnd (ch : Channel) (s : State) : Host.Outcome State Fault Refusal :=
  s.act fun s => s.periodEnd ch

/-- ENCODER_TRANSITION (R108 to R110). -/
def execEncoderTransition (ch : Channel) (levelA levelB : Bool) (s : State) : Host.Outcome State Fault Refusal :=
  s.act fun s => s.encoderChanged ch levelA levelB

/-- RECENT_TIMER_EXPIRY (R110). -/
def execRecentTimerExpiry (ch : Channel) (s : State) : Host.Outcome State Fault Refusal :=
  s.act fun s => s.recentExpired ch

/-- PWM_PERIOD_START (R121). -/
def execPwmPeriodStart (ch : Channel) (s : State) : Host.Outcome State Fault Refusal :=
  s.act fun s => s.pwmStart ch

/-- PWM_CENTRE (R123). -/
def execPwmCentre (ch : Channel) (s : State) : Host.Outcome State Fault Refusal :=
  s.act fun s => s.pwmAtCentre ch

/-- PRESSURE_CONVERSION_DONE (R102, R123). -/
def execPressureConversionDone (ch : Channel) (sample : BitVec 12) (s : State) : Host.Outcome State Fault Refusal :=
  s.act fun s => s.conversionDone ch sample

end Sys2Proof.Machine
end

