-- ==== Sys2Proof/Machine/Dispatch.lean ====
section
/-! DEFINITION. The meaning of each command, one arm for each constructor of Instr. -/

namespace Sys2Proof.Machine

open Sys2Proof

/-- The effect of a command on everything but the queue. -/
def exec (i : Instr) (s : State) : Host.Outcome State Fault Refusal :=
  match i with
  | .fullReset straps => Sys2Proof.Machine.execFullReset straps s
  | .bridgeFrameEnd chars => Sys2Proof.Machine.execBridgeFrameEnd chars s
  | .bridgeFrameSent => Sys2Proof.Machine.execBridgeFrameSent s
  | .bridgeSilenceExpiry => Sys2Proof.Machine.execBridgeSilenceExpiry s
  | .load q => Sys2Proof.Machine.execLoad q s
  | .commit q => Sys2Proof.Machine.execCommit q s
  | .abort q => Sys2Proof.Machine.execAbort q s
  | .readTable q => Sys2Proof.Machine.execReadTable q s
  | .readImage q => Sys2Proof.Machine.execReadImage q s
  | .readState q => Sys2Proof.Machine.execReadState q s
  | .readFlags q => Sys2Proof.Machine.execReadFlags q s
  | .clearFlags q => Sys2Proof.Machine.execClearFlags q s
  | .proofTest q => Sys2Proof.Machine.execProofTest q s
  | .restart q => Sys2Proof.Machine.execRestart q s
  | .identify q => Sys2Proof.Machine.execIdentify q s
  | .restartTakesEffect => Sys2Proof.Machine.execRestartTakesEffect s
  | .setCondition q => Sys2Proof.Machine.execSetCondition q s
  | .acceptIncomplete q => Sys2Proof.Machine.execAcceptIncomplete q s
  | .recover q => Sys2Proof.Machine.execRecover q s
  | .fireAlarmAccepted active => Sys2Proof.Machine.execFireAlarmAccepted active s
  | .heldRecordExpiry => Sys2Proof.Machine.execHeldRecordExpiry s
  | .deckFrameSent => Sys2Proof.Machine.execDeckFrameSent s
  | .replyWindowExpiry => Sys2Proof.Machine.execReplyWindowExpiry s
  | .settlingEnd => Sys2Proof.Machine.execSettlingEnd s
  | .deckFrameEnd chars => Sys2Proof.Machine.execDeckFrameEnd chars s
  | .freshnessExpiry d => Sys2Proof.Machine.execFreshnessExpiry d s
  | .lower ch q => Sys2Proof.Machine.execLower ch q s
  | .raise ch q => Sys2Proof.Machine.execRaise ch q s
  | .rampStop ch q => Sys2Proof.Machine.execRampStop ch q s
  | .jog ch q => Sys2Proof.Machine.execJog ch q s
  | .resetFault ch q => Sys2Proof.Machine.execResetFault ch q s
  | .rampSwitchAccepted ch sw active => Sys2Proof.Machine.execRampSwitchAccepted ch sw active s
  | .estopAccepted active => Sys2Proof.Machine.execEstopAccepted active s
  | .pinTimerExpiry ch => Sys2Proof.Machine.execPinTimerExpiry ch s
  | .rampWarningExpiry ch => Sys2Proof.Machine.execRampWarningExpiry ch s
  | .deadManExpiry ch => Sys2Proof.Machine.execDeadManExpiry ch s
  | .periodEnd ch => Sys2Proof.Machine.execPeriodEnd ch s
  | .encoderTransition ch levelA levelB => Sys2Proof.Machine.execEncoderTransition ch levelA levelB s
  | .recentTimerExpiry ch => Sys2Proof.Machine.execRecentTimerExpiry ch s
  | .pwmPeriodStart ch => Sys2Proof.Machine.execPwmPeriodStart ch s
  | .pwmCentre ch => Sys2Proof.Machine.execPwmCentre ch s
  | .pressureConversionDone ch sample => Sys2Proof.Machine.execPressureConversionDone ch sample s
  | .close g q => Sys2Proof.Machine.execClose g q s
  | .openDoors g q => Sys2Proof.Machine.execOpenDoors g q s
  | .groupStop g q => Sys2Proof.Machine.execGroupStop g q s
  | .groupWarningExpiry g => Sys2Proof.Machine.execGroupWarningExpiry g s
  | .spacingExpiry g => Sys2Proof.Machine.execSpacingExpiry g s
  | .travelExpiry g k => Sys2Proof.Machine.execTravelExpiry g k s
  | .retryExpiry g k => Sys2Proof.Machine.execRetryExpiry g k s
  | .place q => Sys2Proof.Machine.execPlace q s
  | .cancel q => Sys2Proof.Machine.execCancel q s
  | .waitTimerExpiry e => Sys2Proof.Machine.execWaitTimerExpiry e s
  | .beaconStepExpiry b => Sys2Proof.Machine.execBeaconStepExpiry b s
  | .commitExpiry => Sys2Proof.Machine.execCommitExpiry s
  | .copyComplete => Sys2Proof.Machine.execCopyComplete s
  | .scrubSlotEnd => Sys2Proof.Machine.execScrubSlotEnd s
  | .deckLineStartBit => Sys2Proof.Machine.execDeckLineStartBit s

end Sys2Proof.Machine
end

