-- ==== Sys2Proof/Machine/Outputs.lean ====
section
/-! DEFINITION. The output pins as functions of the state (R6, R8, R11, R80, R120, R121, R164, R189). -/

namespace Sys2Proof.Machine

open Sys2Proof

/-- The held start-up: the straps were read as 63 (R8). -/
def State.heldStartUp (s : State) : Bool := s.node == 63

/-- DL_DIR at transmit (R11). -/
def State.dlDir (s : State) : Bool :=
  match s.dls.line with
  | .sending _ _ => true
  | .free | .window _ | .receiving _ | .settling _ => false

/-- The eleven bits of a character: start, data least significant first, parity, stop (R6, log 22). -/
def charBits (b : Byte) : List Bool :=
  [false] ++ ([0, 1, 2, 3, 4, 5, 6, 7].map fun i => b.getLsbD i) ++ [evenParity b, true]

/-- The bits of a frame on a line, one each 2 µs (R6). -/
def Frame.bits (f : Frame) : List Bool := f.bytes.flatMap charBits

/-- Ticks in one bit at 500 kbit/s. -/
def bitTicks : Nat := 2 * Config.usec

/-- The level of a transmitter whose frame ends at `lastStop`; idle is high (R6, log 22). -/
def lineLevel (f : Frame) (lastStop now : Nat) : Bool :=
  let start := lastStop - f.size * Config.charTime
  if now < start then true else (f.bits[(now - start) / bitTicks]?).getD true

/-- BL_TX. -/
def State.blTx (s : State) : Bool :=
  match s.bli.tx with
  | none => true
  | some t => lineLevel t.frame t.lastStop s.now

/-- DL_TX. -/
def State.dlTx (s : State) : Bool :=
  match s.dls.line with
  | .sending f stop => lineLevel f stop s.now
  | .free | .window _ | .receiving _ | .settling _ => true

/-- Whether the PWM output named by the active compare is on at a tick of its period: the first M ticks
and the last M ticks of 2N (R120). -/
def pwmOn (n m phase : Nat) : Bool := decide (phase < m) || decide (2 * n - m ≤ phase)

/-- VALVE_LOWER_x and VALVE_RAISE_x (R80, R120, R121). -/
def State.valve (s : State) (ch : Channel) (d : Dir) : Bool :=
  let r := s.ramp ch
  match r.pwmZero with
  | none => false
  | some z =>
    d != .none && r.active.out == d && r.active.mag != 0 && pwmOn r.params.pwmN r.active.mag (s.now - z)

/-- PIN_DRV_OUT_x (R90). -/
def State.pinDriveOut (s : State) (ch : Channel) : Bool := (s.ramp ch).pinOut

/-- PIN_DRV_IN_x (R92). -/
def State.pinDriveIn (s : State) (ch : Channel) : Bool := (s.ramp ch).pinIn

/-- ALARM_N driven low; held active in the held start-up (R8, R189). -/
def State.alarmActive (s : State) : Bool := s.heldStartUp || s.fc.alarm

/-- BEACON0..7: a lit step is on for the first n of the 31 parts of each 500 µs (R164, log 23). -/
def State.beaconOn (s : State) (b : Fin 8) : Bool :=
  let x := s.bd.shown.at b
  match x.timer with
  | none => false
  | some due =>
    let start := due - (s.bd.pattern x.pattern).length * Config.stepUnit
    let phase := (s.now - start) % (500 * Config.usec)
    decide (phase * 31 < x.level * (500 * Config.usec))

end Sys2Proof.Machine
end

