-- ==== Sys2Proof/Machine/Tick.lean ====
section
/-! DEFINITION. What a step does on an empty queue: the first event that has fallen due is taken, and when
none has, one tick of 250 ns passes and the inputs are sampled (log 1, log 28). -/

namespace Sys2Proof.Machine

open Sys2Proof

/-- Whether a running timer has reached its deadline. -/
def State.isDue (s : State) (t : Timer) : Bool :=
  match t with
  | none => false
  | some d => decide (d ≤ s.now)

/-- A command, if it is due. -/
def dueWhen (b : Bool) (i : Instr) : List Instr := if b then [i] else []

/-- The two channels. -/
def allChannels : List Channel := [.a, .b]

/-! ### Sampled inputs (R52, R82, R107) -/

/-- The levels of a channel's switch pins. -/
def ChannelPins.level (p : ChannelPins) : Switch → Bool
  | .stow => p.stow | .land => p.land | .pinsIn => p.pinsIn | .pinsOut => p.pinsOut

/-- A channel's switches sampled (R82). -/
def Ramp.sampleSwitches (r : Ramp) (p : ChannelPins) : Ramp :=
  { r with
    stow := r.stow.sample Config.switchSamples p.stow
    land := r.land.sample Config.switchSamples p.land
    pinsIn := r.pinsIn.sample Config.switchSamples p.pinsIn
    pinsOut := r.pinsOut.sample Config.switchSamples p.pinsOut }

/-- A channel's encoder inputs sampled; the filters run while the channel is enabled (R107). -/
def Ramp.sampleEncoder (r : Ramp) (p : ChannelPins) : Ramp :=
  if r.state = .disabled then r
  else
    { r with encA := r.encA.sample r.params.filter p.encA, encB := r.encB.sample r.params.filter p.encB }

/-- The inputs sampled at this tick: encoders each 0.5 µs, ESTOP_N each 1 µs, switches and FIRE_ALARM
each 1 ms, at the ticks that are whole multiples of these from full reset (R52, R82, R107, log 38). -/
def State.sampleInputs (s : State) : State :=
  let pa := s.pins.channels.a
  let pb := s.pins.channels.b
  let s := if s.now % 2 = 0 then
      { s with ramps := { a := s.ramps.a.sampleEncoder pa, b := s.ramps.b.sampleEncoder pb } }
    else s
  let s := if s.now % Config.usec = 0 then
      { s with estop := s.estop.sample Config.estopSamples s.pins.estop }
    else s
  if s.now % Config.msec = 0 then
    { s with
      ramps := { a := s.ramps.a.sampleSwitches pa, b := s.ramps.b.sampleSwitches pb }
      dcc := { s.dcc with fire := s.dcc.fire.sample Config.fireSamples s.pins.fireAlarm } }
  else s

/-- The level an encoder filter accepts: the other one, once its run has reached F at a sample (R107). -/
def EncFilter.next (f : EncFilter) : Bool := f.level != f.reached

/-- The encoder transition of a channel, when a filter accepts a level (R107, R108). -/
def State.dueEncoder (s : State) (ch : Channel) : List Instr :=
  let r := s.ramp ch
  dueWhen (r.state != .disabled && (r.encA.reached || r.encB.reached))
    (.encoderTransition ch r.encA.next r.encB.next)

/-- The switch levels of a channel that are accepted (R82). -/
def State.dueSwitches (s : State) (ch : Channel) : List Instr :=
  [Switch.stow, .land, .pinsIn, .pinsOut].flatMap fun sw =>
    let f := (s.ramp ch).filterOf sw
    dueWhen (f.accepts Config.switchSamples) (.rampSwitchAccepted ch sw f.sampled)

/-- The levels of ESTOP_N and FIRE_ALARM that are accepted (R52, R82). -/
def State.dueInputs (s : State) : List Instr :=
  dueWhen (s.estop.accepts Config.estopSamples) (.estopAccepted s.estop.sampled)
    ++ dueWhen (s.dcc.fire.accepts Config.fireSamples) (.fireAlarmAccepted s.dcc.fire.sampled)

/-! ### Deadlines -/

/-- The bridge line: RESTART before the end of its reply's gap (R10, R18, R181). -/
def State.dueBridge (s : State) : List Instr :=
  let sent := match s.bli.tx with
    | none => true
    | some t => !t.restartReply || decide (t.lastStop ≤ s.now)
  dueWhen (s.bli.restarting && !s.bli.replyQueued && sent) .restartTakesEffect
    ++ dueWhen (match s.bli.tx with
        | none => false
        | some t => decide (t.idleAt ≤ s.now)) .bridgeFrameSent
    ++ dueWhen (match s.bli.silence with
        | .running d => decide (d ≤ s.now)
        | .stopped | .expired => false) .bridgeSilenceExpiry

/-- The deck line (R12, R13, R16). -/
def State.dueDeckLine (s : State) : List Instr :=
  match s.dls.line with
  | .sending _ stop => dueWhen (decide (stop ≤ s.now)) .deckFrameSent
  | .window d => dueWhen (decide (d ≤ s.now)) .replyWindowExpiry
  | .settling d => dueWhen (decide (d ≤ s.now)) .settlingEnd
  | .free | .receiving _ => []

/-- The held list and the image (R28, R66). -/
def State.dueImage (s : State) : List Instr :=
  (s.held.filter fun r => decide (r.expiry ≤ s.now)).map (fun _ => Instr.heldRecordExpiry)
    ++ (List.finRange 96).flatMap fun d =>
      dueWhen ((s.img.defs.at d).used && (s.img.remotes.at d).standing != .stale
        && decide (s.freshnessAt d ≤ s.now)) (.freshnessExpiry d)

/-- A channel's timers, period and PWM; a conversion takes the level at PRESS_x as it completes (R87, R90,
R93, R110, R120, R123, log 39). -/
def State.dueRamp (s : State) (ch : Channel) : List Instr :=
  let r := s.ramp ch
  s.dueEncoder ch ++ s.dueSwitches ch
    ++ dueWhen (s.isDue r.pinTimer) (.pinTimerExpiry ch)
    ++ dueWhen (s.isDue r.warnTimer) (.rampWarningExpiry ch)
    ++ dueWhen (s.isDue r.deadTimer) (.deadManExpiry ch)
    ++ dueWhen (s.isDue r.recent) (.recentTimerExpiry ch)
    ++ dueWhen (s.isDue r.conversion) (.pressureConversionDone ch (s.pins.channels.get ch).pressure)
    ++ dueWhen (match r.pwmZero with
        | none => false
        | some z => !r.pwmCentred && decide (z + r.params.pwmN ≤ s.now)) (.pwmCentre ch)
    ++ dueWhen (match r.pwmZero with
        | none => false
        | some z => decide (z + 2 * r.params.pwmN ≤ s.now)) (.pwmPeriodStart ch)
    ++ dueWhen (decide (r.periodAt ≤ s.now)) (.periodEnd ch)

/-- A group's timers (R133, R136, R137). -/
def State.dueGroup (s : State) (g : Fin 4) : List Instr :=
  let r := s.group g
  dueWhen (s.isDue r.warnTimer) (.groupWarningExpiry g)
    ++ dueWhen (s.isDue r.spacing) (.spacingExpiry g)
    ++ allSteps.flatMap fun k =>
      dueWhen (s.isDue (r.steps.at k).travel) (.travelExpiry g k)
        ++ dueWhen (s.isDue (r.steps.at k).retry) (.retryExpiry g k)

/-- The wait timers and the beacons' step timers (R156, R163). -/
def State.dueCalls (s : State) : List Instr :=
  allEntries.flatMap (fun e =>
      dueWhen (match s.cl.calls.at e with
        | none => false
        | some c => s.isDue c.wait) (.waitTimerExpiry e))
    ++ allBeacons.flatMap fun b => dueWhen (s.isDue (s.bd.shown.at b).timer) (.beaconStepExpiry b)

/-- The Table Store (R173, R177, R180). -/
def State.dueTables (s : State) : List Instr :=
  dueWhen (match s.ts.commit with
      | none => false
      | some c => decide (c.expiry ≤ s.now)) .commitExpiry
    ++ dueWhen (match s.ts.copy with
      | none => false
      | some c => decide (c.due ≤ s.now)) .copyComplete
    ++ dueWhen (decide (s.ts.slotEnd ≤ s.now)) .scrubSlotEnd

/-- The events that have fallen due, in the order in which they are taken (log 28); none in the held
start-up (R8). -/
def State.dueCommands (s : State) : List Instr :=
  if s.heldStartUp then []
  else
    s.dueInputs ++ s.dueBridge ++ s.dueDeckLine ++ s.dueImage ++ allChannels.flatMap s.dueRamp
      ++ allGroups.flatMap s.dueGroup ++ s.dueCalls ++ s.dueTables

/-- One tick, when nothing is due: the clock moves on, events left over are handled, and the inputs are
sampled; in the held start-up only time passes (R8). -/
def State.tick (s : State) : State :=
  let s := { s with now := s.now + 1 }
  if s.heldStartUp then s else (s.settle cascadeBound).sampleInputs

end Sys2Proof.Machine
end

