-- ==== Sys2Proof/Machine/Step.lean ====
section
/-! DEFINITION. One step: the command at the front of the queue; when the queue is empty, the first event
that has fallen due, or else one tick of time (log 1). -/

namespace Sys2Proof.Machine

open Sys2Proof

/-- One step of the part. -/
def step (s : State) : Host.Outcome State Fault Refusal :=
  match s.pending with
  | c :: rest => exec c { s with pending := rest }
  | [] =>
    match s.dueCommands with
    | c :: _ => exec c s
    | [] => .next s.tick

/-- The state with a command put at the front of its queue. -/
def State.withFront (s : State) (c : Instr) : State := { s with pending := c :: s.pending }

/-- The state with the command a table word spells at the front of its queue; the table gives its rows no
bits, so no word spells one. -/
def State.withFetchWord (s : State) (nbits w : Nat) : State :=
  match decodeTableWord nbits w with
  | some c => s.withFront c
  | none => s

end Sys2Proof.Machine
end

