-- ==== Sys2Proof/Safety.lean ====
section
/-! DEFINITION. What must always hold of the part: facts the spec gives for every moment between two
commands, and the words the statements use for a state between two commands. -/

namespace Sys2Proof

open Sys2Proof.Machine

/-- Every copy of every table section is in canonical form (R166). -/
def TablesOk (s : Machine.State) : Prop :=
  ∀ i : Fin 8, (s.sec i).active.wf = true ∧ (s.sec i).standby.wf = true

/-- The bridge transmit queue holds at most 32 frames, and never two STATUS frames for the same node and
object (R76). -/
def BridgeQueueOk (s : Machine.State) : Prop :=
  s.bli.queue.length ≤ 32 ∧ s.bli.queue.Pairwise fun x y => sameKey x.frame y.frame = false

/-- The deck transmit queue never holds more than 24 frames, nor more than 16 non-urgent ones (R69). -/
def DeckQueueOk (s : Machine.State) : Prop :=
  s.dls.urgent.length + s.dls.normal.length ≤ 24 ∧ s.dls.normal.length ≤ 16

/-- The held list never holds more than 8 frames (R64). -/
def HeldListOk (s : Machine.State) : Prop := s.held.length ≤ 8

/-- A channel outside the motion states has both compares off and the integrator at 0; the pins are
driven out only in STARTING and in only in LOCKING (R80, R117, R119, R121). -/
def RampQuiet (r : Ramp) : Prop :=
  (r.state.isMotion = false → r.buffered = .off ∧ r.active = .off ∧ r.integrator = 0)
    ∧ (r.pinOut = true → r.state = .starting) ∧ (r.pinIn = true → r.state = .locking)

/-- Both channels are so. -/
def RampsOk (s : Machine.State) : Prop := RampQuiet s.ramps.a ∧ RampQuiet s.ramps.b

/-- Local entries 0, 1, 2 and 5 to 8 hold the deck condition, the ramp states and the group states
(R20, R43, R80, R129). -/
def PublishedOk (s : Machine.State) : Prop :=
  s.img.locals.at 0 = s.dcc.deck.code
    ∧ (∀ ch : Channel, s.img.locals.at ch.stateEntry = (s.ramp ch).state.code)
    ∧ ∀ g : Fin 4, s.img.locals.at (groupEntry g) = (s.group g).state.code

/-- The summary value and the alarm state are those the flags and masks form, and entry 11 holds the
summary value (R188, R189). -/
def SummaryOk (s : Machine.State) : Prop :=
  s.fc.summary = summaryOf s.fc.flags s.fc.masks
    ∧ s.fc.alarm = alarmOf s.fc.flags s.fc.summary s.fc.summaryMasks
    ∧ s.img.locals.at 11 = s.fc.summary.zeroExtend 8

/-- A state between two commands of a part with a node number, no restart pending: no event left over, no
summary notice owed and no choice to be made. -/
def Settled (s : Machine.State) : Prop :=
  s.node ≠ 63 ∧ s.agenda = [] ∧ s.fc.owed = false ∧ s.dls.choose = false ∧ s.bli.restarting = false

/-- The bridge transmit queue has a place, so a frame placed now is not lost and overruns nothing. -/
def HasRoom (s : Machine.State) : Prop := s.bli.queue.length < 32

/-- A frame at the end of the bridge transmit queue; an idle transmitter begins with the oldest (R10,
R76). -/
def Machine.State.queued (s : Machine.State) (f : Frame) : Machine.State :=
  let q := s.bli.queue ++ [{ frame := f, restartReply := false }]
  Machine.State.kickBridge { s with bli := { s.bli with queue := q } }

/-- What follows from a command's own effect: the summary notice it owes, the events it raised, and the arbiter's
choice. -/
def Machine.State.settled (s : Machine.State) : Machine.State := s.settle cascadeBound

/-- A REPLY to a request about an object at the end of the bridge transmit queue (R4). -/
def Machine.State.replied (s : Machine.State) (q : Request) (object : Byte) (code : Result)
    (payload : List Byte := []) : Machine.State :=
  s.queued (s.replyFrame q.source object code payload)

/-- A REPLY REFUSED to a request, with the late marker 0 (R4). -/
def Machine.State.refusedWith (s : Machine.State) (q : Request) (object : Byte) (r : Reason) :
    Machine.State :=
  s.replied q object .refused [r.code, r.arg, 0]

/-- What a valid frame does to the silence timer: it restarts; silence ends, entry 10 going back to 0; a
stopped timer stays so (R18). -/
def Machine.State.timerRestarted (s : Machine.State) : Machine.State :=
  let run : Machine.State :=
    { s with bli := { s.bli with silence := .running (s.now + s.settings.tBridge * Config.msec) } }
  match s.bli.silence with
  | .running _ => run
  | .expired => run.writeLocal 10 0
  | .stopped => s

/-- A local entry holding a value, with no event raised. -/
def Machine.State.published (s : Machine.State) (i : Fin 32) (v : Byte) : Machine.State :=
  { s with img := { s.img with locals := s.img.locals.put i v } }

/-- A flag is set. -/
def Machine.State.hasFlag (s : Machine.State) (f : Flag) : Prop := s.fc.flags ||| f.bit = s.fc.flags

/-- A frame waits in the bridge transmit queue or is in transmission from it. -/
def Machine.State.tells (s : Machine.State) (f : Frame) : Prop :=
  (∃ x ∈ s.bli.queue, x.frame = f) ∨ ∃ x, s.bli.tx = some x ∧ x.frame = f

namespace Machine

/-- What every event of a ramp channel, a door group or the call list leaves alone: the deck line's state,
transaction and alternation, the frames already queued for it, the beacons' records and patterns, the flags
already set, the events already raised. -/
structure Grows (s t : State) : Prop where
  line : t.dls.line = s.dls.line
  tx : t.dls.tx = s.dls.tx
  alternation : t.dls.alternation = s.dls.alternation
  urgent : s.dls.urgent <+: t.dls.urgent
  normal : s.dls.normal <+: t.dls.normal
  recs : t.bd.recs = s.bd.recs
  patterns : t.bd.patterns = s.bd.patterns
  flags : t.fc.flags ||| s.fc.flags = t.fc.flags
  agenda : s.agenda <+: t.agenda

/-- The second state differs from the first in nothing but the call list, what the beacons show, frames added
to the transmit queues, flags added with what they form, local entries 11 to 23 and events added. -/
structure CallsOnly (s t : State) : Prop where
  grow : Grows s t
  pending : t.pending = s.pending
  now : t.now = s.now
  straps : t.straps = s.straps
  node : t.node = s.node
  pins : t.pins = s.pins
  dcc : t.dcc = s.dcc
  held : t.held = s.held
  ramps : t.ramps = s.ramps
  estop : t.estop = s.estop
  groups : t.groups = s.groups
  ts : t.ts = s.ts
  settings : t.settings = s.settings
  remotes : t.img.remotes = s.img.remotes
  defs : t.img.defs = s.img.defs
  pointer : t.img.pointer = s.img.pointer
  pass : t.img.pass = s.img.pass
  silence : t.bli.silence = s.bli.silence
  restarting : t.bli.restarting = s.bli.restarting
  masks : t.fc.masks = s.fc.masks
  summaryMasks : t.fc.summaryMasks = s.fc.summaryMasks
  test : t.fc.test = s.fc.test
  last : t.fc.last = s.fc.last
  locals : ∀ i : Fin 32, i.val < 11 ∨ 23 < i.val → t.img.locals.at i = s.img.locals.at i

/-- The same, but that one ramp channel with its state entry, and a proof test of that channel, may differ
too. -/
structure RampOnly (ch : Channel) (s t : State) : Prop where
  grow : Grows s t
  pending : t.pending = s.pending
  now : t.now = s.now
  straps : t.straps = s.straps
  node : t.node = s.node
  pins : t.pins = s.pins
  dcc : t.dcc = s.dcc
  held : t.held = s.held
  estop : t.estop = s.estop
  groups : t.groups = s.groups
  ts : t.ts = s.ts
  settings : t.settings = s.settings
  remotes : t.img.remotes = s.img.remotes
  defs : t.img.defs = s.img.defs
  pointer : t.img.pointer = s.img.pointer
  pass : t.img.pass = s.img.pass
  silence : t.bli.silence = s.bli.silence
  restarting : t.bli.restarting = s.bli.restarting
  masks : t.fc.masks = s.fc.masks
  summaryMasks : t.fc.summaryMasks = s.fc.summaryMasks
  test : t.fc.test = s.fc.test ∧ t.fc.last = s.fc.last ∨ s.testingOn ch = true ∧ t.fc.test = none
  others : ∀ c : Channel, c ≠ ch → t.ramp c = s.ramp c
  locals : ∀ i : Fin 32, i.val < 11 ∨ 23 < i.val → i ≠ ch.stateEntry →
    t.img.locals.at i = s.img.locals.at i

/-- The same as `CallsOnly`, but that one door group with its entry may differ too. -/
structure GroupOnly (g : Fin 4) (s t : State) : Prop where
  grow : Grows s t
  pending : t.pending = s.pending
  now : t.now = s.now
  straps : t.straps = s.straps
  node : t.node = s.node
  pins : t.pins = s.pins
  dcc : t.dcc = s.dcc
  held : t.held = s.held
  ramps : t.ramps = s.ramps
  estop : t.estop = s.estop
  ts : t.ts = s.ts
  settings : t.settings = s.settings
  remotes : t.img.remotes = s.img.remotes
  defs : t.img.defs = s.img.defs
  pointer : t.img.pointer = s.img.pointer
  pass : t.img.pass = s.img.pass
  silence : t.bli.silence = s.bli.silence
  restarting : t.bli.restarting = s.bli.restarting
  masks : t.fc.masks = s.fc.masks
  summaryMasks : t.fc.summaryMasks = s.fc.summaryMasks
  test : t.fc.test = s.fc.test
  last : t.fc.last = s.fc.last
  others : ∀ k : Fin 4, k ≠ g → t.group k = s.group k
  locals : ∀ i : Fin 32, i.val < 11 ∨ 23 < i.val → i ≠ groupEntry g →
    t.img.locals.at i = s.img.locals.at i

/-- How a channel leaves STARTING, from `s` to `t`: by its permit, lowering to LOWERING, raising to RAISING
or, with the stow switch active, at STOW_POS to LOCKING or on to STOWED_LOCKED; the permit false, to HALTED
with PERMIT_LOST; the motion time is 0 either way (R91, R92, R94, R101, R109). -/
def StartingEnds (ch : Channel) (s t : State) : Prop :=
  let r := s.ramp ch
  let x := t.ramp ch
  let permit := if r.dir = .raise then r.params.raisePermit else r.params.lowerPermit
  x.warnTimer = none ∧ x.motionTime = 0
    ∧ (s.condition permit = false → x.state = .halted ∧ t.hasFlag (.ramp ch .permitLost) ∧ x.x = r.x)
    ∧ (s.condition permit = true → x.settle = 0 ∧ x.stall = 0
      ∧ (r.dir ≠ .raise → x.state = .lowering ∧ x.x = r.x)
      ∧ (r.dir = .raise → r.stow.level = false → x.state = .raising ∧ x.x = r.x)
      ∧ (r.dir = .raise → r.stow.level = true → x.x = r.params.stowPos
        ∧ (r.pinsIn.level = false → x.state = .locking ∧ x.pinIn = true
            ∧ x.pinTimer = some (s.now + r.params.tPin * (100 * Config.msec)))
        ∧ (r.pinsIn.level = true → x.state = .stowedLocked ∧ x.pinIn = false ∧ x.pinTimer = none)))

end Machine

end Sys2Proof
end

