-- ==== Sys2Proof/WellFormed.lean ====
section
/-! DEFINITION. Which commands the lines can carry: a request comes from a node 0..62 (R1, R7) in a
frame of at most 12 payload bytes (R1). Every other operand is in range by its type. -/

namespace Sys2Proof

/-- A request that a valid frame can carry (R1, R7). -/
def Request.wf (q : Request) : Bool := q.source != 63#6 && decide (q.payload.length ≤ 12)

/-- The request a command carries, if it carries one. -/
def Instr.request? : Instr → Option Request
  | .load q | .commit q | .abort q | .readTable q | .readImage q | .readState q | .readFlags q
  | .clearFlags q | .proofTest q | .restart q | .identify q | .setCondition q | .acceptIncomplete q
  | .recover q | .place q | .cancel q => some q
  | .lower _ q | .raise _ q | .rampStop _ q | .jog _ q | .resetFault _ q => some q
  | .close _ q | .openDoors _ q | .groupStop _ q => some q
  | .fullReset _ | .bridgeFrameEnd _ | .bridgeFrameSent | .bridgeSilenceExpiry | .restartTakesEffect
  | .fireAlarmAccepted _ | .heldRecordExpiry | .deckFrameSent | .replyWindowExpiry | .settlingEnd
  | .deckFrameEnd _ | .freshnessExpiry _ | .rampSwitchAccepted _ _ _ | .estopAccepted _
  | .pinTimerExpiry _ | .rampWarningExpiry _ | .deadManExpiry _ | .periodEnd _
  | .encoderTransition _ _ _ | .recentTimerExpiry _ | .pwmPeriodStart _ | .pwmCentre _
  | .pressureConversionDone _ _ | .groupWarningExpiry _ | .spacingExpiry _ | .travelExpiry _ _
  | .retryExpiry _ _ | .waitTimerExpiry _ | .beaconStepExpiry _ | .commitExpiry | .copyComplete
  | .scrubSlotEnd | .deckLineStartBit => none

/-- A command the part can be given. -/
def Instr.wf (i : Instr) : Bool :=
  match i.request? with
  | some q => q.wf
  | none => true

end Sys2Proof
end

