-- ==== Sys2Proof/Certificates/Slice0/Obligations.lean ====
section
/-! DEFINITION. The statements for the provers. A command's own effect is the state before the events it
raised are handled; `State.settled` handles them (log 7, log 8). -/

open Sys2Proof Sys2Proof.Machine

/-! ### Steps, reset, start-up -/

/-- A step takes the command at the front of the queue and runs it on the rest. -/
def Obligations.StepRunsFrontCommand : Prop :=
  ∀ (s : State) (c : Instr) (rest : List Instr), s.pending = c :: rest →
    step s = exec c { s with pending := rest }

/-- On an empty queue a step runs the first event that has fallen due, found afresh at each step; with none
due it is one tick of 250 ns: the clock moves on and the inputs are sampled. In the held start-up only the
clock moves. The model's choice (logs 1, 28). What is sampled and when: encoders each 0.5 µs while the channel
is enabled, ESTOP_N each 1 µs, the switches and FIRE_ALARM each 1 ms (R52, R82, R107; the ticks: log 38); the
run counts; and which events are due, a level once 5, 10 or 20 consecutive samples, or F for an encoder, have
read it (the value of a conversion is the one at the pin when it is done: log 39). -/
def Obligations.EmptyQueueIsOneTick : Prop :=
  (∀ s : State, s.pending = [] →
    (s.dueCommands = [] → step s = .next s.tick)
      ∧ (∀ c rest, s.dueCommands = c :: rest → step s = exec c s)
      ∧ (s.node = 63 → step s = .next { s with now := s.now + 1 })
      ∧ (Settled s → s.tick = State.sampleInputs { s with now := s.now + 1 }))
  ∧ (∀ s : State,
    let t := s.sampleInputs
    t = { s with ramps := t.ramps, estop := t.estop, dcc := { s.dcc with fire := t.dcc.fire } }
      ∧ t.estop = (if s.now % 4 = 0 then s.estop.sample 10 s.pins.estop else s.estop)
      ∧ t.dcc.fire = (if s.now % 4000 = 0 then s.dcc.fire.sample 20 s.pins.fireAlarm else s.dcc.fire)
      ∧ ∀ ch,
        let r := s.ramp ch
        let p := s.pins.channels.get ch
        let input : InputFilter → Bool → InputFilter := fun f level =>
          if s.now % 4000 = 0 then f.sample 5 level else f
        let encoder : EncFilter → Bool → EncFilter := fun f level =>
          if s.now % 2 = 0 ∧ r.state ≠ .disabled then f.sample r.params.filter level else f
        t.ramp ch = { r with
          encA := encoder r.encA p.encA, encB := encoder r.encB p.encB, stow := input r.stow p.stow
          land := input r.land p.land, pinsIn := input r.pinsIn p.pinsIn
          pinsOut := input r.pinsOut p.pinsOut })
  ∧ (∀ (f : InputFilter) (need : Nat) (level : Bool),
      (level = f.sampled → f.sample need level = { f with run := min need (f.run + 1) })
        ∧ (level ≠ f.sampled → f.sample need level = { f with sampled := level, run := 1 })
        ∧ (f.accepts need = true ↔ need ≤ f.run ∧ (f.seen = false ∨ f.sampled ≠ f.level)))
  ∧ (∀ (f : EncFilter) (need : Nat) (level : Bool),
      (level = f.level → f.sample need level = { f with run := 0, reached := false })
        ∧ (level ≠ f.level → f.sample need level
            = { f with run := f.run + 1, reached := decide (need ≤ f.run + 1) }))
  ∧ (∀ (s : State) (c : Instr),
    let past : Timer → Prop := fun x => ∃ d, x = some d ∧ d ≤ s.now
    let due : Prop := match c with
      | .estopAccepted a => s.estop.accepts 10 = true ∧ a = s.estop.sampled
      | .fireAlarmAccepted a => s.dcc.fire.accepts 20 = true ∧ a = s.dcc.fire.sampled
      | .rampSwitchAccepted ch sw a =>
        ((s.ramp ch).filterOf sw).accepts 5 = true ∧ a = ((s.ramp ch).filterOf sw).sampled
      | .encoderTransition ch a b =>
        let r := s.ramp ch
        r.state ≠ .disabled ∧ (r.encA.reached = true ∨ r.encB.reached = true)
          ∧ a = (r.encA.level != r.encA.reached) ∧ b = (r.encB.level != r.encB.reached)
      | .restartTakesEffect => s.bli.restarting = true ∧ (∀ r ∈ s.bli.queue, r.restartReply = false)
          ∧ ∀ x, s.bli.tx = some x → x.restartReply = true → x.lastStop ≤ s.now
      | .bridgeFrameSent => ∃ x, s.bli.tx = some x ∧ x.idleAt ≤ s.now
      | .bridgeSilenceExpiry => ∃ d, s.bli.silence = .running d ∧ d ≤ s.now
      | .deckFrameSent => ∃ f d, s.dls.line = .sending f d ∧ d ≤ s.now
      | .replyWindowExpiry => ∃ d, s.dls.line = .window d ∧ d ≤ s.now
      | .settlingEnd => ∃ d, s.dls.line = .settling d ∧ d ≤ s.now
      | .heldRecordExpiry => ∃ r ∈ s.held, r.expiry ≤ s.now
      | .freshnessExpiry d => (s.img.defs.at d).kind ≠ .none ∧ (s.img.remotes.at d).standing ≠ .stale
          ∧ (s.img.remotes.at d).since + ((s.img.defs.at d).limit + 1) * Config.msec ≤ s.now
      | .pinTimerExpiry ch => past (s.ramp ch).pinTimer
      | .rampWarningExpiry ch => past (s.ramp ch).warnTimer
      | .deadManExpiry ch => past (s.ramp ch).deadTimer
      | .recentTimerExpiry ch => past (s.ramp ch).recent
      | .pressureConversionDone ch x =>
        past (s.ramp ch).conversion ∧ x = (s.pins.channels.get ch).pressure
      | .pwmCentre ch => ∃ z, (s.ramp ch).pwmZero = some z ∧ (s.ramp ch).pwmCentred = false
          ∧ z + (s.ramp ch).params.pwmN ≤ s.now
      | .pwmPeriodStart ch => ∃ z, (s.ramp ch).pwmZero = some z ∧ z + 2 * (s.ramp ch).params.pwmN ≤ s.now
      | .periodEnd ch => (s.ramp ch).periodAt ≤ s.now
      | .groupWarningExpiry g => past (s.group g).warnTimer
      | .spacingExpiry g => past (s.group g).spacing
      | .travelExpiry g k => past ((s.group g).steps.at k).travel
      | .retryExpiry g k => past ((s.group g).steps.at k).retry
      | .waitTimerExpiry e => ∃ x, s.cl.calls.at e = some x ∧ past x.wait
      | .beaconStepExpiry b => past (s.bd.shown.at b).timer
      | .commitExpiry => ∃ x, s.ts.commit = some x ∧ x.expiry ≤ s.now
      | .copyComplete => ∃ x, s.ts.copy = some x ∧ x.start + copyMsBefore x.set 8 * Config.msec ≤ s.now
      | .scrubSlotEnd => s.ts.slotEnd ≤ s.now
      | _ => False
    c ∈ s.dueCommands ↔ s.node ≠ 63 ∧ due)

/-- FULL_RESET reads the straps as the node number and puts every block at its full-reset values; the queue and
the levels at the input pins stay (R8; the pins: log 5). The values that the spec gives: lines and queues,
image, deck condition, ramps, groups, calls, beacons, tables, flags (R11, R18, R21, R37, R56, R68, R78,
R106, R125, R145, R161, R165, R183, R196). -/
def Obligations.FullReset : Prop :=
  (∀ (straps : BitVec 6) (s : State), exec (.fullReset straps) s
      = .next { State.reset with
                  pending := s.pending, straps := straps, node := straps, pins := s.pins })
  ∧ (State.reset.dls.line = .free ∧ State.reset.dls.tx = none ∧ State.reset.dls.alternation = .frame
      ∧ State.reset.dls.urgent = [] ∧ State.reset.dls.normal = [] ∧ State.reset.bli.queue = []
      ∧ State.reset.bli.silence = .stopped ∧ State.reset.held = []
      ∧ State.reset.dcc.deck = .harbour ∧ State.reset.dcc.fire.level = false
      ∧ State.reset.dcc.fire.seen = false
      ∧ (∀ i : Fin 32, State.reset.img.locals.at i
          = if i.val = 11 then 64 else if 12 ≤ i.val ∧ i.val ≤ 23 then 255 else 0)
      ∧ (∀ d : Fin 96, State.reset.img.remotes.at d = ⟨255, [], .awaiting, 0⟩)
      ∧ State.reset.img.pointer = 0 ∧ State.reset.img.pass = 0
      ∧ (∀ ch : Channel, (State.reset.ramp ch).state = .disabled ∧ (State.reset.ramp ch).x = 0
          ∧ (State.reset.ramp ch).referenced = false ∧ (State.reset.ramp ch).buffered = .off
          ∧ (State.reset.ramp ch).active = .off ∧ (State.reset.ramp ch).interval = 65535)
      ∧ (∀ g : Fin 4, (State.reset.group g).state = .idle ∧ (State.reset.group g).mark = false)
      ∧ (∀ e : Fin 16, State.reset.cl.calls.at e = none)
      ∧ (∀ z : Fin 12, (State.reset.cl.zones.at z).owner = none ∧ (State.reset.cl.zones.at z).issue = 0)
      ∧ (∀ b : Fin 8, (State.reset.bd.shown.at b).pattern = 0)
      ∧ (∀ i : Fin 8, (State.reset.sec i).status = .empty ∧ (State.reset.sec i).standbyValid = false
          ∧ (State.reset.sec i).code = none
          ∧ ∀ a, (State.reset.sec i).active.read a = 0 ∧ (State.reset.sec i).standby.read a = 0)
      ∧ State.reset.ts.commit = none ∧ State.reset.ts.copy = none ∧ State.reset.ts.slot = 0
      ∧ State.reset.fc.flags = Flag.sectionEmpty.bit ∧ State.reset.fc.masks = 0
      ∧ State.reset.fc.summaryMasks = 0 ∧ State.reset.fc.summary = 64 ∧ State.reset.fc.alarm = true
      ∧ State.reset.fc.test = none ∧ State.reset.fc.last = none)

/-- In the held start-up every command but FULL_RESET changes nothing, ALARM_N is active, and after a
FULL_RESET with the straps at 63 nothing is transmitted and every valve, pin-drive and beacon output is
off (R8; that commands change nothing: log 4; the idle level of the transmit outputs: log 22). -/
def Obligations.HeldStartUp : Prop :=
  (∀ (s : State) (c : Instr), s.node = 63 → (∀ x, c ≠ .fullReset x) →
      exec c s = .next s ∧ s.alarmActive = true)
    ∧ ∀ s t : State, exec (.fullReset 63) s = .next t →
        t.node = 63 ∧ t.blTx = true ∧ t.dlTx = true ∧ t.dlDir = false ∧ t.alarmActive = true
          ∧ (∀ ch d, t.valve ch d = false) ∧ (∀ ch, t.pinDriveOut ch = false)
          ∧ (∀ ch, t.pinDriveIn ch = false) ∧ ∀ b, t.beaconOn b = false

/-! ### Frames -/

/-- A frame sent as characters is received as it was built, every field at every value a frame can hold; and
what is received as a frame is that frame's own bytes without a character error, from a node 0..62, with
at most 12 payload bytes (R1, R2, R3, R5, R6, R7). -/
def Obligations.FramesOnTheLine : Prop :=
  (∀ f : Frame, f.src ≠ 63 → f.payload.length ≤ 12 → receive (f.bytes.map charOf) = some f)
  ∧ (∀ (chars : List RxChar) (f : Frame), receive chars = some f →
      chars = f.bytes.map charOf ∧ f.src ≠ 63 ∧ f.payload.length ≤ 12)

/-! ### The bridge line -/

/-- A frame end that fails validation raises BL_FORMAT, restarts no timer and changes nothing else but what a
raised flag brings. A valid frame from N, a POLL, STATUS or REPLY, a MANAGE frame for another node, or any
frame while a restart is pending is discarded: the silence timer restarts, silence ends, and nothing else
changes but what the change of entry 10 brings (R7, R9, R18, R181). -/
def Obligations.BridgeFrameGoesNoFurther : Prop :=
  (∀ (s : State) (chars : List RxChar), s.node ≠ 63 → receive chars = none →
      let t := s.raiseFlag .blFormat
      exec (.bridgeFrameEnd chars) s = .next t.settled ∧ t.hasFlag .blFormat ∧ CallsOnly s t
        ∧ t.dls = s.dls ∧ t.cl = s.cl ∧ t.bd = s.bd)
  ∧ (∀ (s : State) (chars : List RxChar) (f : Frame), Settled s → receive chars = some f →
      (f.src = s.node ∨ f.cls = .poll ∨ f.cls = .status ∨ f.cls = .reply
        ∨ (f.cls = .manage ∧ f.dest ≠ s.node)) →
      let run : Silence := .running (s.now + s.settings.tBridge * Config.msec)
      let at_ : Silence → State := fun x => { s with bli := { s.bli with silence := x } }
      let out := exec (.bridgeFrameEnd chars) s
      (s.bli.silence = .stopped → out = .next s)
        ∧ (∀ due, s.bli.silence = .running due → out = .next (at_ run))
        ∧ (s.bli.silence = .expired → out = .next (State.settled ((at_ run).writeLocal 10 0))))
  ∧ (∀ (s : State) (chars : List RxChar) (f : Frame), s.node ≠ 63 → s.bli.restarting = true →
      receive chars = some f → exec (.bridgeFrameEnd chars) s = .next (s.timerRestarted).settled)

/-- A MANAGE frame to N with byte 4 zero is the request its object names; with another byte 4, or an object
that names none, it is answered BAD_REQUEST. A COMMAND or CALL to N that the Passage Filter passes, takes, or
guards or holds with a true condition, and a COMMAND to N with verb 3 while PASSAGE is CORRUPT, is the command
of the block that owns its object; one without an owner, and a verb that its owner does not know, is answered
BAD_REQUEST, by a ramp channel after it has taken its silence mark (R3, R9, R18, R61, R62, R63, R84, R168). A
request row of the table is the request as it is delivered, after the silence timer's restart: log 3. -/
def Obligations.BridgeFrameIsItsCommand : Prop :=
  (∀ (s : State) (chars : List RxChar) (f : Frame), Settled s → HasRoom s →
      receive chars = some f → f.src ≠ s.node → f.cls = .manage → f.dest = s.node →
      let u := s.timerRestarted
      let q : Request := { source := f.src, payload := f.payload }
      let out := exec (.bridgeFrameEnd chars) s
      (f.verb = 0 →
          (f.object = 1 → out = exec (.load q) u) ∧ (f.object = 2 → out = exec (.commit q) u)
          ∧ (f.object = 3 → out = exec (.abort q) u) ∧ (f.object = 4 → out = exec (.readTable q) u)
          ∧ (f.object = 5 → out = exec (.readImage q) u) ∧ (f.object = 6 → out = exec (.readState q) u)
          ∧ (f.object = 7 → out = exec (.readFlags q) u) ∧ (f.object = 8 → out = exec (.clearFlags q) u)
          ∧ (f.object = 9 → out = exec (.proofTest q) u) ∧ (f.object = 10 → out = exec (.restart q) u)
          ∧ (f.object = 11 → out = exec (.identify q) u))
        ∧ ((f.verb ≠ 0 ∨ f.object = 0 ∨ 11 < f.object.toNat) →
            out = .next (State.settled (u.replied q f.object .badRequest))))
  ∧ (∀ (s : State) (chars : List RxChar) (f : Frame), Settled s → HasRoom s →
      receive chars = some f → f.src ≠ s.node → f.dest = s.node →
      let u := s.timerRestarted
      let q : Request := { source := f.src, payload := f.payload }
      let out := exec (.bridgeFrameEnd chars) s
      let bad : State → Prop := fun t => out = .next (State.settled (t.replied q f.object .badRequest))
      let admitted : Prop := (s.sec 2).status = .corrupt ∧ f.cls = .command ∧ f.verb = 3
        ∨ (s.sec 2).status ≠ .corrupt ∧ ∃ p, s.firstMatch true f = some p
          ∧ (p.action = .pass ∨ p.action = .take
            ∨ (p.action = .guard ∨ p.action = .hold) ∧ u.condition p.cond = true)
      admitted →
      (f.cls = .command →
          (f.object = 0 → (f.verb = 1 → out = exec (.setCondition q) u)
            ∧ (f.verb = 2 → out = exec (.acceptIncomplete q) u)
            ∧ (f.verb = 3 → out = exec (.recover q) u) ∧ (f.verb = 0 ∨ 3 < f.verb.toNat → bad u))
          ∧ (∀ ch : Channel, f.object = ch.object → (f.verb = 1 → out = exec (.lower ch q) u)
            ∧ (f.verb = 2 → out = exec (.raise ch q) u) ∧ (f.verb = 3 → out = exec (.rampStop ch q) u)
            ∧ (f.verb = 4 → out = exec (.jog ch q) u) ∧ (f.verb = 5 → out = exec (.resetFault ch q) u)
            ∧ (f.verb = 0 ∨ 5 < f.verb.toNat → bad (u.markSilence ch)))
          ∧ (∀ g : Fin 4, f.object = groupObject g → (f.verb = 1 → out = exec (.close g q) u)
            ∧ (f.verb = 2 → out = exec (.openDoors g q) u)
            ∧ (f.verb = 3 → out = exec (.groupStop g q) u) ∧ (f.verb = 0 ∨ 3 < f.verb.toNat → bad u))
          ∧ ((f.object = 3 ∨ 7 < f.object.toNat) → bad u))
        ∧ (f.cls = .call →
          (f.object = 16 → (f.verb = 1 → out = exec (.place q) u) ∧ (f.verb = 2 → out = exec (.cancel q) u)
            ∧ (f.verb = 0 ∨ 2 < f.verb.toNat → bad u))
          ∧ (f.object ≠ 16 → bad u)))

/-- BRIDGE_SILENCE_EXPIRY: silence begins: the flag, entry 10, both ramps' marks, and the halt of a ramp
that moves or starts (R18, R99). The clock moves to the timer's end: log 2. -/
def Obligations.SilenceBegins : Prop :=
  ∀ (s : State) (d : Nat), s.node ≠ 63 → s.bli.silence = .running d →
    ∃ t : State, exec .bridgeSilenceExpiry s = .next t.settled
      ∧ t.now = max s.now d ∧ t.bli.silence = .expired ∧ t.hasFlag .bridgeSilent
      ∧ t.img.locals.at 10 = 1
      ∧ ∀ ch, (t.ramp ch).silence = true
          ∧ (t.ramp ch).state = (match (s.ramp ch).state with
              | .lowering | .landing | .raising | .stowing | .jog | .halting => .halting
              | .starting => .halted
              | x => x)

/-- BRIDGE_FRAME_SENT: at the end of the gap the transmitter is idle, and takes the oldest frame queued, if
there is one; nothing else changes (R10) but the clock, which moves to the end of the gap: log 2. -/
def Obligations.BridgeTransmitterGoesOn : Prop :=
  ∀ (s : State) (x : BridgeTx), Settled s → s.bli.tx = some x →
    let n := max s.now x.idleAt
    (s.bli.queue = [] →
        exec .bridgeFrameSent s = .next { s with now := n, bli := { s.bli with tx := none } })
      ∧ ∀ r rest, s.bli.queue = r :: rest →
        let stop := n + r.frame.size * Config.charTime
        exec .bridgeFrameSent s = .next
          { s with now := n
                   bli := { s.bli with
                     queue := rest
                     tx := some { frame := r.frame, restartReply := r.restartReply, lastStop := stop,
                                  idleAt := stop + Config.gapTime } } }

/-! ### Passage and conditions -/

/-- The first passage entry that matches decides, and bits set in a mask are not compared. An absorbed STATUS is
placed in the bridge transmit queue when that entry passes it, or guards or holds it with a true condition;
otherwise nothing happens (R58, R59, R61, R63). -/
def Obligations.PassageDecides : Prop :=
  ((∀ (s : State) (toDeck : Bool) (f : Frame) (p : PassEntry), s.firstMatch toDeck f = some p ↔
        ∃ e, e < 64 ∧ readPassEntry (s.sec 2).active e = some p ∧ p.matchesFrame toDeck f = true
          ∧ ∀ k x, k < e → readPassEntry (s.sec 2).active k = some x → x.matchesFrame toDeck f = false)
      ∧ ∀ (w : Nat) (value mask key : BitVec w), agrees value mask key = true ↔
          ∀ i, i < w → mask.getLsbD i = false → key.getLsbD i = value.getLsbD i)
  ∧ (∀ (s : State) (f : Frame),
      let passed := s.place { frame := { f with urgent := false }, restartReply := false }
      ((s.sec 2).status = .corrupt → s.offerStatus f = s)
        ∧ ((s.sec 2).status ≠ .corrupt →
          (s.firstMatch false f = none → s.offerStatus f = s)
          ∧ ∀ p, s.firstMatch false f = some p →
            (p.action = .pass → s.offerStatus f = passed)
            ∧ ((p.action = .guard ∨ p.action = .hold) →
                s.offerStatus f = if s.condition p.cond then passed else s)
            ∧ ((p.action = .drop ∨ p.action = .refuse ∨ p.action = .take) → s.offerStatus f = s)))

/-- What becomes of a COMMAND or CALL from the bridge, by the entry that matched it or the header default: a
frame for a deck node or for 63 that is admitted is forwarded; DROP, REFUSE, a false GUARD or HOLD and the
default act on a frame for N as on any other; while PASSAGE is CORRUPT every frame but a COMMAND to N with
verb 3 is refused CORRUPT (R59, R60, R61, R63, R64, R69, R70, R71). -/
def Obligations.PassageToTheDeck : Prop :=
  ∀ (s : State) (chars : List RxChar) (f : Frame), Settled s → HasRoom s →
    receive chars = some f → f.src ≠ s.node → (f.cls = .command ∨ f.cls = .call) →
    let u := s.timerRestarted
    let q : Request := { source := f.src, payload := f.payload }
    let becomes : State → Prop := fun t => exec (.bridgeFrameEnd chars) s = .next t.settled
    let forwarded : Bool → Option Byte → Prop := fun urgent cond =>
      let r : DeckRec := { frame := f, urgent := urgent || decide (f.cls = .command ∧ f.verb = 3)
                           cond := cond, origin := .bridge f.src }
      (s.dls.hasPlace r.urgent = true → becomes { u with dls := u.dls.accept r })
        ∧ (s.dls.hasPlace r.urgent = false → becomes (u.replied q f.object .full))
    ((s.sec 2).status = .corrupt → ¬ (f.cls = .command ∧ f.verb = 3 ∧ f.dest = s.node) →
        becomes (u.refusedWith q f.object .corrupt))
      ∧ ((s.sec 2).status ≠ .corrupt →
        (s.firstMatch true f = none →
          ((s.sec 2).active.read 0 = 0 → becomes (u.replied q f.object .noRule))
          ∧ ((s.sec 2).active.read 0 ≠ 0 → becomes u))
        ∧ ∀ p, s.firstMatch true f = some p →
          (p.action = .drop → becomes u)
          ∧ ((p.action = .refuse ∨ p.action = .take ∧ f.dest ≠ s.node) →
              becomes (u.refusedWith q f.object .passageRule))
          ∧ (p.action = .pass → f.dest ≠ s.node → forwarded p.urgent none)
          ∧ ((p.action = .guard ∨ p.action = .hold) → u.condition p.cond = true → f.dest ≠ s.node →
              forwarded p.urgent (some p.cond))
          ∧ (p.action = .guard → u.condition p.cond = false →
              becomes (u.refusedWith q f.object (.conditionFalse p.cond)))
          ∧ (p.action = .hold → u.condition p.cond = false → s.held.length < 8 →
              becomes { u with held := u.held ++
                [{ frame := f, cond := p.cond, urgent := p.urgent
                   expiry := s.now + p.hold * Config.holdUnit }] })
          ∧ (p.action = .hold → u.condition p.cond = false → 8 ≤ s.held.length →
              becomes (u.replied q f.object .full)))

/-- HELD_RECORD_EXPIRY: the record of earliest expiry, first in list order among equals, leaves the list and
its source is answered LATE with no payload; nothing else changes but the clock, which moves to the expiry
(the model's choice, log 2). At an image-change event every held record is evaluated in list order: one whose
condition is true leaves the list, and is delivered to N's owner, or offered to the deck transmit queue with
its condition and answered FULL without a place; one whose condition is false stays (R60, R65, R66, R70). -/
def Obligations.HeldRecordExpires : Prop :=
  (∀ (s : State) (before after : List HeldRec) (r : HeldRec), Settled s → HasRoom s →
      s.held = before ++ r :: after → (∀ x ∈ before, r.expiry < x.expiry) →
      (∀ x ∈ after, r.expiry ≤ x.expiry) →
      exec .heldRecordExpiry s = .next
        (({ s with now := max s.now r.expiry, held := before ++ after } : State).queued
          (s.replyFrame r.frame.src r.frame.object .late [])))
  ∧ (∀ s : State, ((∀ r ∈ s.held, s.condition r.cond = false) → s.evaluateHeld = s)
      ∧ (∀ (before after : List HeldRec) (r : HeldRec), s.held = before ++ r :: after →
          (∀ x ∈ before, s.condition x.cond = false) → s.condition r.cond = true →
          s.evaluateHeld = State.heldPass before after
            (({ s with held := before ++ after } : State).release r))
      ∧ (∀ (kept rest : List HeldRec) (r : HeldRec), State.heldPass kept [] s = s
          ∧ State.heldPass kept (r :: rest) s = if s.condition r.cond
            then State.heldPass kept rest (({ s with held := kept ++ rest } : State).release r)
            else State.heldPass (kept ++ [r]) rest s)
      ∧ ∀ r : HeldRec,
        let x : DeckRec := { frame := r.frame, origin := .bridge r.frame.src, cond := some r.cond
                             urgent := r.urgent || decide (r.frame.cls = .command ∧ r.frame.verb = 3) }
        (r.frame.dest = s.node → s.release r = s.deliver r.frame)
          ∧ (r.frame.dest ≠ s.node → s.dls.hasPlace x.urgent = true →
              s.release r = { s with dls := s.dls.accept x })
          ∧ (r.frame.dest ≠ s.node → s.dls.hasPlace x.urgent = false →
              s.release r = s.reply r.frame.src r.frame.object .full))

/-- A term is false on an entry that reads 255 and is otherwise its comparison; ALL and ANY; condition 0 is
true; any other is false while CONDITIONS is EMPTY or CORRUPT (R38, R39, R40, R42). -/
def Obligations.ConditionsFailSafe : Prop :=
  (∀ (s : State) (i t x : Byte), s.value i.toNat = 255 → s.evalTerm i t x = false)
    ∧ (∀ (s : State) (i x : Byte), s.value i.toNat ≠ 255 →
        (s.evalTerm i 0 x = true ↔ s.value i.toNat = x)
        ∧ (s.evalTerm i 1 x = true ↔ s.value i.toNat ≠ x)
        ∧ (s.evalTerm i 2 x = true ↔ (s.value i.toNat).toNat ≤ x.toNat)
        ∧ (s.evalTerm i 3 x = true ↔ x.toNat ≤ (s.value i.toNat).toNat))
    ∧ (∀ s : State, s.condition 0 = true)
    ∧ (∀ (s : State) (c : Byte), c ≠ 0 → (s.sec 1).status ≠ .valid → s.condition c = false)
    ∧ ∀ (s : State) (c : Byte), c ≠ 0 → (s.sec 1).status = .valid →
        let mode := ((s.sec 1).active.read (13 * (c.toNat - 1))).extractLsb' 4 4
        (mode = 0 → (s.condition c = true ↔ ∀ b ∈ s.evalTerms c.toNat, b = true))
        ∧ (mode = 1 → (s.condition c = true ↔ ∃ b ∈ s.evalTerms c.toNat, b = true))

/-! ### The two transmit queues -/

/-- A frame placed in the bridge transmit queue: a STATUS takes the place of the STATUS with its key; any other
frame joins the end, or displaces the oldest STATUS of a full queue, or is lost to 32 replies. A frame
offered to the deck transmit queue: an urgent one has a place below 24 frames, a non-urgent one below 24
frames and 16 non-urgent ones, and joins the end of its order (R69, R73, R76, R77). A frame lost, the new one or
an older STATUS, raises BRIDGE_QUEUE_OVERRUN, and an idle transmitter takes the oldest frame (R10, R77); the loss
of the RESTART reply is the event at which that restart takes effect (R181). -/
def Obligations.QueuesTakeFrames : Prop :=
  (∀ (q : List BridgeRec) (r : BridgeRec), q.length ≤ 32 →
      (q.Pairwise fun x y => sameKey x.frame y.frame = false) →
      (∀ a x b, q = a ++ x :: b → sameKey x.frame r.frame = true →
          enqueue q r = (a ++ r :: b, .joined))
        ∧ ((∀ x ∈ q, sameKey x.frame r.frame = false) →
          (q.length < 32 → enqueue q r = (q ++ [r], .joined))
          ∧ (∀ a x b, q.length = 32 → q = a ++ x :: b → x.frame.cls = .status →
              (∀ y ∈ a, y.frame.cls ≠ .status) → enqueue q r = (a ++ b ++ [r], .overran))
          ∧ (q.length = 32 → (∀ x ∈ q, x.frame.cls ≠ .status) → enqueue q r = (q, .discarded))))
  ∧ (∀ (s : State) (r : DeckRec),
      let place := s.dls.urgent.length + s.dls.normal.length < 24
        ∧ (r.urgent = false → s.dls.normal.length < 16)
      (¬ place → s.offer r = (s, false))
        ∧ (place → s.offer r = ({ s with dls := { s.dls with
              urgent := if r.urgent then s.dls.urgent ++ [r] else s.dls.urgent
              normal := if r.urgent then s.dls.normal else s.dls.normal ++ [r]
              choose := s.dls.choose || decide (s.dls.line = .free) } }, true)))
  ∧ (∀ (s : State) (r : BridgeRec),
      let u := State.kickBridge { s with bli := { s.bli with queue := (enqueue s.bli.queue r).1 } }
      let v := u.raiseFlag .bridgeQueueOverrun
      let out := (enqueue s.bli.queue r).2
      (out = .joined → s.place r = u)
        ∧ ((out = .overran ∨ out = .discarded ∧ r.restartReply = false) → s.place r = v)
        ∧ (out = .discarded → r.restartReply = true →
            s.place r = { v with agenda := v.agenda ++ [.restartEffect] }))
  ∧ (∀ s : State,
      ((s.bli.tx ≠ none ∨ s.bli.queue = []) → s.kickBridge = s)
        ∧ ∀ r rest, s.bli.tx = none → s.bli.queue = r :: rest →
          let stop := s.now + (7 + r.frame.payload.length) * (22 * Config.usec)
          s.kickBridge = { s with bli := { s.bli with
            queue := rest
            tx := some { frame := r.frame, restartReply := r.restartReply, lastStop := stop
                         idleAt := stop + 44 * Config.usec } } })

/-! ### Flags -/

/-- A raised flag is set, and no other is set or cleared; the summaries, the alarm state and entry 11 follow, and
nothing else changes. A summary is set while a flag of its own is set with its mask clear, and ALARM_N is active
while a summary is set with its mask clear or SECTION_CORRUPT is set (R184, R188, R189). An event whose own
effect has changed the summary value or the alarm state places one notice of object 31, with the values that
stand at its end (R187, R189); what is one event, and that its notice comes before the events it has raised and
before the arbiter's choice: the model's choice, logs 7, 8, 48. -/
def Obligations.FlagsAndAlarm : Prop :=
  (∀ (s : State) (f : Flag), SummaryOk s →
      let t := s.raiseFlag f
      t.fc.flags = s.fc.flags ||| f.bit
        ∧ SummaryOk t ∧ t.fc.masks = s.fc.masks ∧ t.fc.summaryMasks = s.fc.summaryMasks
        ∧ CallsOnly s t ∧ t.dls = s.dls ∧ t.cl = s.cl ∧ t.bd = s.bd ∧ t.bli = s.bli
        ∧ ∀ i : Fin 32, i.val ≠ 11 → t.img.locals.at i = s.img.locals.at i)
  ∧ (∀ (s : State) (f : Flag), s.img.locals.at 11 = s.fc.summary.zeroExtend 8 →
      let sum := summaryOf s.fc.flags s.fc.masks
      let alarm := alarmOf s.fc.flags sum s.fc.summaryMasks
      let taken : State := { s with fc := { s.fc with summary := sum, alarm := alarm, owed := true } }
      s.raiseFlag f = State.reform { s with fc := { s.fc with flags := s.fc.flags ||| f.bit } }
        ∧ (sum = s.fc.summary → alarm = s.fc.alarm → s.reform = s)
        ∧ (sum = s.fc.summary → alarm ≠ s.fc.alarm → s.reform = taken)
        ∧ (sum ≠ s.fc.summary → s.reform = { taken.published 11 (sum.zeroExtend 8) with
            agenda := s.agenda ++ [.imageChange 11 (s.fc.summary.zeroExtend 8) (sum.zeroExtend 8)] }))
  ∧ (∀ (s : State) (n : Nat),
      let notice := s.noticeFrame 31 (s.fc.summary.zeroExtend 8) [bit s.fc.alarm]
      (s.fc.owed = true → s.settle (n + 1) = State.settle n (State.place
          { s with fc := { s.fc with owed := false } } { frame := notice, restartReply := false }))
        ∧ (s.fc.owed = false → ∀ x rest, s.agenda = x :: rest →
            s.settle (n + 1) = State.settle n (({ s with agenda := rest } : State).handle x))
        ∧ (s.fc.owed = false → s.agenda = [] → s.dls.choose = true → s.settle (n + 1) = State.settle n
            (let u : State := { s with dls := { s.dls with choose := false } }
             if s.dls.line = .free then u.arbitrate 32 else u))
        ∧ (s.fc.owed = false → s.agenda = [] → s.dls.choose = false → s.settle n = s))
  ∧ ((∀ (flags masks : BitVec 35) (k : Fin 7),
        (summaryOf flags masks).getLsbD k.val = true ↔
          ∃ b, b < 35 ∧ flags.getLsbD b = true ∧ masks.getLsbD b = false
            ∧ match k.val with
              | 0 => b ≤ 4 | 1 => b = 5 | 2 => 6 ≤ b ∧ b ≤ 15 | 3 => 16 ≤ b ∧ b ≤ 25
              | 4 => 26 ≤ b ∧ b ≤ 28 | 5 => 29 ≤ b ∧ b ≤ 31 | _ => 32 ≤ b)
      ∧ ∀ (flags : BitVec 35) (sum masks : BitVec 7),
        alarmOf flags sum masks = true ↔
          (∃ k, k < 7 ∧ sum.getLsbD k = true ∧ masks.getLsbD k = false) ∨ flags.getLsbD 33 = true)

/-! ### Management requests -/

/-- A request whose form is wrong is answered BAD_REQUEST and has no other effect, but that a ramp channel
first takes its silence mark (R45, R84, R132, R149, R151, R168, R169, R170, R171, R173, R187, R191). That the form
is judged before BUSY, at LOAD too: log 30. -/
def Obligations.BadFormIsAnswered : Prop :=
  ∀ (s : State) (q : Request), Settled s → HasRoom s →
    let bad : Instr → Byte → Prop := fun c object =>
      exec c s = .next (s.replied q object .badRequest)
    let p := q.payload
    (p.length < 4 ∨ 12 < p.length ∨ (∃ b, p.head? = some b ∧ 8 ≤ b.toNat) → bad (.load q) 1)
      ∧ (p.length ≠ 3 → bad (.commit q) 2)
      ∧ (p ≠ [] → bad (.abort q) 3)
      ∧ (p.length ≠ 5 ∨ (∃ b r, p = b :: r ∧ 2 ≤ b.toNat)
          ∨ (∃ b x r, p = b :: x :: r ∧ 8 ≤ x.toNat)
          ∨ (∃ b x y z n, p = [b, x, y, z, n] ∧ (n = 0 ∨ 11 ≤ n.toNat)) → bad (.readTable q) 4)
      ∧ (p.length ≠ 1 ∨ (∃ i, p = [i] ∧ 128 ≤ i.toNat) → bad (.readImage q) 5)
      ∧ (p.length ≠ 2 → bad (.readState q) 6)
      ∧ (p ≠ [] → bad (.readFlags q) 7)
      ∧ (p.length ≠ 5 ∨ (∃ a b c d e, p = [a, b, c, d, e] ∧ 8 ≤ e.toNat) → bad (.clearFlags q) 8)
      ∧ (p.length ≠ 2 ∨ (∃ i a, p = [i, a] ∧ (i = 0 ∨ 8 ≤ i.toNat ∨ i.toNat ≤ 6 ∧ a ≠ 0
          ∨ i = 7 ∧ (a = 0 ∨ 4 ≤ a.toNat))) → bad (.proofTest q) 9)
      ∧ (p ≠ [] → bad (.restart q) 10)
      ∧ (p ≠ [] → bad (.identify q) 11)
      ∧ (p.length ≠ 1 ∨ (∃ d, p = [d] ∧ 5 ≤ d.toNat) → bad (.setCondition q) 0)
      ∧ (p ≠ [] → bad (.acceptIncomplete q) 0 ∧ bad (.recover q) 0)
      ∧ (p ≠ [] → ∀ g, bad (.close g q) (groupObject g) ∧ bad (.openDoors g q) (groupObject g)
          ∧ bad (.groupStop g q) (groupObject g))
      ∧ (p.length ≠ 6 → bad (.place q) 16)
      ∧ (p.length ≠ 1 ∨ (∃ m, p = [m] ∧ 64 ≤ m.toNat) → bad (.cancel q) 16)
      ∧ ∀ ch : Channel,
        let badRamp : Instr → Prop := fun c =>
          exec c s = .next ((s.markSilence ch).replied q ch.object .badRequest)
        (p ≠ [] → badRamp (.lower ch q) ∧ badRamp (.raise ch q) ∧ badRamp (.rampStop ch q)
            ∧ badRamp (.resetFault ch q))
          ∧ (p.length ≠ 3 ∨ (∃ d hi lo, p = [d, hi, lo] ∧ (2 ≤ d.toNat ∨ word16 hi lo = 0
              ∨ 8000 < word16 hi lo)) → badRamp (.jog ch q))

/-- LOAD writes its bytes into the STANDBY copy of its section and makes it VALID; one beyond the end, or
while a commit is pending or a copy runs, writes nothing (R169). That the range is judged before BUSY: log 30. -/
def Obligations.LoadWritesStandby : Prop :=
  ∀ (s : State) (n : NodeNo) (sb hi lo : Byte) (data : List Byte) (i : Fin 8), Settled s → HasRoom s →
    sb.toNat = i.val → 1 ≤ data.length → data.length ≤ 9 →
    let q : Request := { source := n, payload := sb :: hi :: lo :: data }
    let off := word16 hi lo
    let x := s.sec i
    let out := exec (.load q) s
    (secSize i < off + data.length → out = .next (s.replied q 1 .badRequest))
      ∧ (off + data.length ≤ secSize i → (s.ts.commit ≠ none ∨ s.ts.copy ≠ none) →
          out = .next (s.replied q 1 .busy))
      ∧ (off + data.length ≤ secSize i → s.ts.commit = none → s.ts.copy = none →
          out = .next ((s.setSec i { x with
            standby := x.standby.writes off data, standbyValid := true }).replied q 1 .done)
          ∧ (TablesOk s → ∀ a, (x.standby.writes off data).read a
              = if off ≤ a then (data[a - off]?).getD (x.standby.read a) else x.standby.read a))

/-- READ_TABLE, READ_IMAGE, READ_STATE, READ_FLAGS and IDENTIFY reply DONE with what they read and change
nothing: the bytes of a copy, as a copy in progress leaves them (log 12); the twelve bytes of an image entry,
used or not (what an unused definition shows of its limit and poll class is the model's choice, log 35); the
state of an object; the flags, summaries, conditions and test bytes (R168, R170, R171, R172, R186). -/
def Obligations.ReadingChangesNothing : Prop :=
  (∀ (s : State) (n : NodeNo), Settled s → HasRoom s →
    let ask : List Byte → Request := fun p => { source := n, payload := p }
    (∀ (bank sb hi lo len : Byte) (i : Fin 8), bank.toNat ≤ 1 → sb.toNat = i.val →
        1 ≤ len.toNat → len.toNat ≤ 10 →
        let q := ask [bank, sb, hi, lo, len]
        let off := word16 hi lo
        (secSize i < off + len.toNat → exec (.readTable q) s = .next (s.replied q 4 .badRequest))
        ∧ (off + len.toNat ≤ secSize i → exec (.readTable q) s = .next (s.replied q 4 .done
            ((List.range len.toNat).map fun k =>
              if bank = 0 then (s.sec i).active.read (off + k) else s.standbyByte i (off + k)))))
      ∧ (∀ i : Fin 32, exec (.readImage (ask [BitVec.ofNat 8 i.val])) s
          = .next (s.replied (ask [BitVec.ofNat 8 i.val]) 5 .done
              [s.img.locals.at i, 168, 0, 0, 0, 0, 0, 0, 0, 0, 0, 0]))
      ∧ (∀ d : Fin 96, exec (.readImage (ask [BitVec.ofNat 8 (32 + d.val)])) s
          = .next (s.replied (ask [BitVec.ofNat 8 (32 + d.val)]) 5 .done
              (s.imageBytes (32 + d.val))))
      ∧ (∀ object selector bytes, s.objectState object selector = some bytes →
          exec (.readState (ask [object, selector])) s
            = .next (s.replied (ask [object, selector]) 6 .done bytes))
      ∧ (∀ object selector, s.objectState object selector = none →
          exec (.readState (ask [object, selector])) s
            = .next (s.replied (ask [object, selector]) 6 .badRequest))
      ∧ exec (.readFlags (ask [])) s = .next (s.replied (ask []) 7 .done s.flagReport)
      ∧ exec (.identify (ask [])) s
          = .next (s.replied (ask []) 11 .done [16, 184, 1, s.node.zeroExtend 8]))
  ∧ (∀ s : State,
    let byte : Nat → Byte := BitVec.ofNat 8
    let two : Nat → List Byte := fun n => [byte (n / 256), byte n]
    let signed : Int → Nat → Nat := fun n width => (n % width).toNat
    (∀ (i : Fin 8) (a : Nat),
        (s.ts.copy = none → s.standbyByte i a = (s.sec i).standby.read a)
        ∧ ∀ c, s.ts.copy = some c → s.standbyByte i a
            = if inSet c.set i = true ∧ a < c.reached i s.now then (s.sec i).active.read a
              else (s.sec i).standby.read a)
      ∧ (∀ d : Fin 96,
        let x := s.img.remotes.at d
        let o := s.img.defs.at d
        let kind := match o.kind with | .none => 0 | .door => 1 | .zone => 2 | .sensor => 3 | .generic => 4
        let standing := match x.standing with | .awaiting => 0 | .valid => 1 | .stale => 2
        let age := if o.kind = .none then 0 else min 65535 ((s.now - x.since) / Config.msec)
        let poll := match o.poll with | .fast => 0 | .slow => 1
        s.imageBytes (32 + d.val) = [x.value, byte (kind * 32 + standing * 8 + x.detail.length)] ++ two age
          ++ (x.detail ++ [0, 0, 0, 0]).take 4 ++ [o.nodeByte, o.object]
          ++ two (poll * 32768 + o.limit % 32768))
      ∧ (∀ object selector : Byte,
        (object ≠ 16 → selector ≠ 0 → s.objectState object selector = none)
          ∧ (object = 16 → 16 ≤ selector.toNat → s.objectState object selector = none)
          ∧ (object = 3 ∨ 7 < object.toNat → object ≠ 16 → object ≠ 30 →
              s.objectState object selector = none))
      ∧ s.objectState 0 0
          = some [s.dcc.deck.code, bit s.dcc.fire.level, bit s.settings.fireEnable]
      ∧ (∀ ch : Channel,
        let r := s.ramp ch
        let dir : Dir → Nat := fun d => match d with | .none => 0 | .lower => 1 | .raise => 2
        let x := signed r.x 16777216
        s.objectState ch.object 0 = some ([r.state.code,
            byte (dir r.dir * 64 + dir r.pendingStart * 16 + (if r.referenced then 2 else 0)
              + (if r.silence then 1 else 0)), r.cause.code, byte (x / 65536)]
          ++ two (x % 65536) ++ two (signed r.s 65536) ++ two (signed r.vCmd 65536)))
      ∧ (∀ g : Fin 4,
        let r := s.group g
        let step : Fin 8 → Byte := fun k =>
          let t := r.steps.at k
          let st := match t.state with | .waiting => 0 | .commanded => 1 | .confirmed => 2 | .failed => 3
          let cause := match t.cause with
            | .none => 0 | .timeout => 1 | .obstructed => 2 | .rejected => 3 | .noAnswer => 4
            | .localControl => 5 | .fault => 6
          byte (st * 64 + cause * 8 + t.attempts % 4)
        s.objectState (groupObject g) 0
          = some ([r.state.code, byte ((if r.mark then 128 else 0) + r.defn.doors.length)]
            ++ ((List.finRange 8).filter fun k => decide (k.val < r.defn.doors.length)).map step))
      ∧ (∀ e : Fin 16,
        let entry := byte e.val
        (s.cl.calls.at e = none → s.objectState 16 entry = some [entry, 0, 0, 0, 0, 0, 0, 0])
          ∧ ∀ c, s.cl.calls.at e = some c →
            let mark : Fin 12 → Nat := fun z => match c.marks.at z with
              | .none => 0 | .pending _ => 1 | .playing _ => 2 | .done => 3
            let marks := ((List.finRange 12).map fun z => mark z * 4 ^ z.val).sum
            let origin : Byte := match c.origin with
              | .group g => byte g.val | .ramp .a => 64 | .ramp .b => 65 | .emergency => 128
              | .bridge src => byte (192 + src.toNat)
            s.objectState 16 entry = some [entry,
              byte (128 + (if c.ready = none then 0 else 64) + c.priority.code), origin,
              byte (marks / 65536), byte (marks / 256), byte marks, c.message,
              byte (c.reps * 16 + c.pattern)])
      ∧ (let status : Fin 8 → Nat := fun i => match (s.sec i).status with
          | .empty => 0 | .valid => 1 | .corrupt => 2
        s.objectState 30 0 = some (two ((List.finRange 8).map fun i => status i * 4 ^ i.val).sum
          ++ [byte ((List.finRange 8).map fun i => if (s.sec i).standbyValid then 2 ^ i.val else 0).sum,
              (s.ts.commit.map CommitRec.set).getD 0, (s.ts.copy.map CopyRec.set).getD 0,
              (s.ts.commit.map fun c => byte ((c.expiry - s.now) / Config.second)).getD 0]))
      ∧ ∃ flags cond : List Byte, s.flagReport = flags ++ [s.fc.summary.zeroExtend 8] ++ cond
          ++ [(s.fc.test.map fun t => t.id.code).getD 0, (s.fc.last.map fun l => l.1.code).getD 0,
              (s.fc.last.map fun l => l.2.code).getD 0]
        ∧ flags.length = 5
        ∧ (∀ b, b < 35 → ∀ x, flags[b / 8]? = some x → x.getLsbD (b % 8) = s.fc.flags.getLsbD b)
        ∧ (∀ b, 35 ≤ b → b < 40 → ∀ x, flags[b / 8]? = some x → x.getLsbD (b % 8) = false)
        ∧ ∃ c : Byte, cond = [c]
          ∧ (c.getLsbD 0 = true ↔ s.bli.silence = .expired)
          ∧ (c.getLsbD 1 = true ↔ ∃ d, (s.img.defs.at d).kind ≠ .none
              ∧ (s.img.remotes.at d).standing = .stale)
          ∧ (c.getLsbD 2 = true ↔ s.estop.level = true ∧ (s.ramp .a).state ≠ .disabled)
          ∧ (c.getLsbD 3 = true ↔ s.estop.level = true ∧ (s.ramp .b).state ≠ .disabled)
          ∧ (c.getLsbD 4 = true ↔ ∃ i, (s.sec i).status = .empty)
          ∧ (c.getLsbD 5 = true ↔ ∃ i, (s.sec i).status = .corrupt)
          ∧ c.getLsbD 6 = false ∧ c.getLsbD 7 = s.fc.alarm)

/-- CLEAR_FLAGS clears each named flag, but for a condition flag whose condition holds, and replies with the
flags left; the summaries are then formed again (R185, R187, R188). That the reply is placed before their
notice: log 10. -/
def Obligations.ClearFlagsClears : Prop :=
  ∀ (s : State) (n : NodeNo) (b0 b1 b2 b3 b4 : Byte), Settled s → HasRoom s → b4.toNat < 8 →
    let q : Request := { source := n, payload := [b0, b1, b2, b3, b4] }
    let set := flagsOfBytes b0 b1 b2 b3 b4
    ∃ left : BitVec 35,
      exec (.clearFlags q) s = .next (State.settled
          (State.replied { s with fc := { s.fc with flags := left } } q 8 .done (flagBytes left)).reform)
        ∧ ∀ k, k < 35 → left.getLsbD k
            = (s.fc.flags.getLsbD k && !(set.getLsbD k && !s.holding.getLsbD k))

/-- PROOF_TEST: BUSY while a test runs, refused in EMERGENCY or with the channel not STOWED_LOCKED, else
ACCEPTED and begun, with its monitor's count at 0 or its test area filled (R190, R191, R192, R194). -/
def Obligations.ProofTestJudged : Prop :=
  ∀ (s : State) (n : NodeNo) (id : TestId) (arg : Byte), Settled s → HasRoom s →
    (id = .scrub ∧ 1 ≤ arg.toNat ∧ arg.toNat ≤ 3 ∨ id ≠ .scrub ∧ arg = 0) →
    let q : Request := { source := n, payload := [id.code, arg] }
    let out := exec (.proofTest q) s
    let fit : Prop := ∀ ch, id.channel? = some ch → (s.ramp ch).state = .stowedLocked
    (s.fc.test ≠ none → out = .next (s.replied q 9 .busy))
      ∧ (s.fc.test = none → s.dcc.deck = .emergency → out = .next (s.refusedWith q 9 .deckCondition))
      ∧ (s.fc.test = none → s.dcc.deck ≠ .emergency → ¬ fit → out = .next (s.refusedWith q 9 .state))
      ∧ (s.fc.test = none → s.dcc.deck ≠ .emergency → fit →
          let u := s.replied q 9 .accepted
          ∃ t, out = .next t
            ∧ t = { u with fc := { s.fc with test := some { id := id, arg := arg, steps := 0 } }
                           ramps := t.ramps, ts := t.ts }
            ∧ (∀ ch, t.ramp ch = { s.ramp ch with
                overspeed := if id = .overspeed ch then 0 else (s.ramp ch).overspeed
                overload := if id = .overload ch then 0 else (s.ramp ch).overload })
            ∧ (id ≠ .scrub → t.ts = s.ts)
            ∧ (id = .scrub → t.ts = { s.ts with
                testArea := (List.range 64).map fun i =>
                  if arg = 1 then 0
                  else if arg = 2 then (if i % 2 = 0 then 85 else 170) else BitVec.ofNat 8 i
                testCode := checkCode t.ts.testArea ^^^ 1 }))

/-! ### Table Store -/

/-- COMMIT is judged in order, and an accepted one is pending for 120 s while a ramp moves, starts or locks
or a group is in a sequence, and is applied at once otherwise. The consistency check names the first section
and entry that fail, of the copies that would become active, by the limits of each section (R38, R57, R124,
R126, R159, R167, R173, R174, R175, R188). The model's choices: of an image index in two door lists the later
group is named, log 46; the PASSAGE header fails after the entries, log 17; the bytes that a disabled or undefined
record does not use are checked where the layout shows them as zero, and no other byte of it, log 18. -/
def Obligations.CommitJudged : Prop :=
  (∀ (s : State) (n : NodeNo) (set hi lo : Byte), Settled s → HasRoom s →
    let q : Request := { source := n, payload := [set, hi, lo] }
    let out := exec (.commit q) s
    let free := set ≠ 0 ∧ s.ts.commit = none ∧ s.ts.copy = none
    let coded := free ∧ (s.standbyCode set).toNat = word16 hi lo
    let allowed := coded ∧ s.dcc.deck ≠ .emergency
    let gate : Prop := (∀ ch : Channel,
        s.img.locals.at ch.stateEntry ∉ ([2, 3, 4, 6, 7, 8, 9, 11] : List Byte))
      ∧ ∀ g : Fin 4, s.img.locals.at (groupEntry g) ∉ ([1, 2, 3, 6] : List Byte)
    (set = 0 → out = .next (s.replied q 2 .badRequest))
      ∧ (set ≠ 0 → (s.ts.commit ≠ none ∨ s.ts.copy ≠ none) → out = .next (s.replied q 2 .busy))
      ∧ (free → (s.standbyCode set).toNat ≠ word16 hi lo → out = .next (s.replied q 2 .crcMismatch))
      ∧ (coded → s.dcc.deck = .emergency → out = .next (s.refusedWith q 2 .deckCondition))
      ∧ (∀ c e, allowed → s.inconsistency set = some (c, e) →
          out = .next (s.replied q 2 .inconsistent [c, e]))
      ∧ (allowed → s.inconsistency set = none →
          let u := State.replied { s with ts := { s.ts with
            commit := some { set := set, expiry := s.now + 120 * Config.second } } } q 2 .accepted
          (¬ gate → out = .next u)
          ∧ (gate → out = .next (State.settled (u.applyCommit set)))))
  ∧ (∀ (s : State) (set : Byte),
      let copy : Fin 8 → Memory := fun i => if inSet set i then (s.sec i).standby else (s.sec i).active
      let fails : Fin 8 → Option Nat := fun i =>
        if inSet set i then
          if (s.sec i).standbyValid then firstBad s.node (copy 0) (copy i) i else some 255
        else match (s.sec i).status with
          | .corrupt => some 255
          | .empty => none
          | .valid => firstBad s.node (copy 0) (copy i) i
      (s.inconsistency set = none ↔ ∀ i, fails i = none)
        ∧ ∀ c e, s.inconsistency set = some (c, e) ↔
          ∃ i k, fails i = some k ∧ (∀ j, j < i → fails j = none)
            ∧ c = BitVec.ofNat 8 i.val ∧ e = BitVec.ofNat 8 k)
  ∧ (∀ (n : NodeNo) (o m : Memory),
      let first : List Nat → (Nat → Bool) → Option Nat → Prop := fun l bad x =>
        x = l.find? bad
      first (List.range 96) (badDef n m) (firstBad n o m 0)
        ∧ first ((List.range 32).drop 1) (badCondition o m) (firstBad n o m 1)
        ∧ first (List.range 65) (fun e => if e = 64 then badHeader m else badPassEntry m e)
            (firstBad n o m 2)
        ∧ first [0, 1] (fun c => badRamp m (if c = 0 then .a else .b)) (firstBad n o m 3)
        ∧ first (List.range 4) (badGroup o m) (firstBad n o m 4)
        ∧ first (List.range 12) (badZoneByte o m) (firstBad n o m 5)
        ∧ first (List.range 16) (fun k => if k < 8 then badBeacon m k else badPattern m (k - 8))
            (firstBad n o m 6)
        ∧ first [0] (fun _ => badSettings m) (firstBad n o m 7))
  ∧ (∀ (n : NodeNo) (o m : Memory),
      let b : Nat → Nat := fun a => (m.read a).toNat
      let w : Nat → Nat := fun a => b a * 256 + b (a + 1)
      let isZone : Nat → Nat → Prop := fun kind i =>
        32 ≤ i ∧ i ≤ 127 ∧ (o.read (6 * (i - 32))).toNat = kind
      (∀ d, badDef n m d = false ↔ b (6 * d) ≤ 4 ∧ (b (6 * d) ≠ 0 →
          1 ≤ b (6 * d + 1) ∧ b (6 * d + 1) ≤ 62 ∧ b (6 * d + 1) ≠ n.toNat ∧ b (6 * d + 3) ≤ 1
          ∧ 20 ≤ w (6 * d + 4) ∧ w (6 * d + 4) ≤ 20000
          ∧ ∀ e, e < d → b (6 * e) ≠ 0 →
            ¬ (b (6 * d + 1) = b (6 * e + 1) ∧ b (6 * d + 2) = b (6 * e + 2))))
        ∧ (∀ c, badCondition o m c = false ↔
          b (13 * (c - 1)) / 16 ≤ 1 ∧ 1 ≤ b (13 * (c - 1)) % 16 ∧ b (13 * (c - 1)) % 16 ≤ 4
          ∧ ∀ t, t < b (13 * (c - 1)) % 16 →
            badTerm o (b (13 * (c - 1) + 1 + 3 * t)) (b (13 * (c - 1) + 2 + 3 * t))
              (b (13 * (c - 1) + 3 + 3 * t)) = false)
        ∧ (badHeader m = false ↔ b 0 ≤ 1 ∧ b 1 ≤ 1)
        ∧ (∀ e, badPassEntry m e = false ↔
          (m.read (2 + 12 * e)).getLsbD 6 = false ∧ b (2 + 12 * e) / 16 % 4 ≤ 2
          ∧ b (2 + 12 * e) % 16 ≤ 6
          ∧ (m.read (2 + 12 * e + 1)).getLsbD 7 = false ∧ (m.read (2 + 12 * e + 1)).getLsbD 3 = false
          ∧ b (2 + 12 * e + 2) ≤ 63 ∧ b (2 + 12 * e + 3) ≤ 63 ∧ b (2 + 12 * e + 8) ≤ 31
          ∧ (b (2 + 12 * e) % 16 = 6 → b (2 + 12 * e + 9) ≠ 0)
          ∧ b (2 + 12 * e + 10) = 0 ∧ b (2 + 12 * e + 11) = 0)
        ∧ (∀ ch, badRamp m ch = false ↔
          b (rampOffset ch) ≤ 1 ∧ (∀ i, i < 7 → b (rampOffset ch + 57 + i) = 0)
          ∧ (b (rampOffset ch) = 1 → (readRamp m ch).outOfRange = false
            ∧ 1 ≤ w (rampOffset ch + 53) ∧ w (rampOffset ch + 53) ≤ 4095))
        ∧ (∀ g, badGroup o m g = false ↔
          b (24 * g) ≤ 3 ∧ (∀ i, i < 3 → b (24 * g + 21 + i) = 0) ∧ b (24 * g + 1) ≤ 8
          ∧ (b (24 * g + 1) ≠ 0 →
            (∀ i, i < b (24 * g + 1) → isZone 1 (b (24 * g + 2 + i)))
            ∧ (∀ i j, i < j → j < b (24 * g + 1) → b (24 * g + 2 + i) ≠ b (24 * g + 2 + j))
            ∧ (∀ h i j, h < g → i < min 8 (b (24 * h + 1)) → j < b (24 * g + 1) →
                b (24 * h + 2 + i) ≠ b (24 * g + 2 + j))
            ∧ 1 ≤ w (24 * g + 10) ∧ w (24 * g + 10) ≤ 4095 ∧ b (24 * g + 12) ≤ 63
            ∧ b (24 * g + 13) ≤ 8 ∧ b (24 * g + 14) ≤ 120 ∧ b (24 * g + 15) ≤ 30
            ∧ b (24 * g + 16) ≤ 30 ∧ 1 ≤ b (24 * g + 17) ∧ b (24 * g + 17) ≤ 120
            ∧ 1 ≤ b (24 * g + 18) ∧ b (24 * g + 18) ≤ 30 ∧ b (24 * g + 19) ≤ 31
            ∧ b (24 * g + 20) ≤ 31))
        ∧ (∀ z, badZoneByte o m z = false ↔ (b z ≠ 0 → isZone 2 (b z)))
        ∧ (∀ x, badBeacon m x = false ↔ b (3 * x) ≤ 3 ∧ (b (3 * x) = 1 → b (3 * x + 1) ≤ 11)
          ∧ (b (3 * x) ≠ 1 → b (3 * x + 1) = 0)
          ∧ (m.read (3 * x + 2)).getLsbD 5 = false ∧ (m.read (3 * x + 2)).getLsbD 6 = false)
        ∧ (∀ p, badPattern m p = false ↔ 1 ≤ b (26 + 3 * p) ∧ b (26 + 3 * p) ≤ 15)
        ∧ (badSettings m = false ↔
          (∀ i, i ∈ [1, 3, 4, 5, 6, 7] → (m.read 4).getLsbD i = false) ∧ (m.read 5).getLsbD 7 = false
          ∧ (w 6 = 0 ∨ 500 ≤ w 6 ∧ w 6 ≤ 10000) ∧ 5 ≤ b 8 ∧ b 8 ≤ 60 ∧ b 9 ≤ 31 ∧ b 10 ≤ 1
          ∧ 1 ≤ w 11 ∧ w 11 ≤ 4095 ∧ b 13 ≤ 63 ∧ b 14 ≤ 8 ∧ b 15 ≤ 8))
  ∧ (∀ (o : Memory) (i t x : Nat), badTerm o i t x = false ↔ i ≤ 127 ∧ (i < 24 ∨ 31 < i)
      ∧ (32 ≤ i → (o.read (6 * (i - 32))).toNat ≠ 0) ∧ t ≤ 3 ∧ x ≠ 255)
  ∧ (∀ p : RampParams, p.outOfRange = false ↔
      p.stowPos < p.deployPos ∧ 1 ≤ p.wLand ∧ p.wLand ≤ 4095 ∧ 1 ≤ p.wStow ∧ p.wStow ≤ 4095
        ∧ 1 ≤ p.wOver ∧ p.wOver ≤ 4095 ∧ 1 ≤ p.wUnder ∧ p.wUnder ≤ 4095 ∧ 16 ≤ p.vMax ∧ p.vMax ≤ 8000
        ∧ 1 ≤ p.vCreep ∧ p.vCreep ≤ p.vMax ∧ p.vStill ≤ p.vCreep ∧ p.vMargin ≤ 4000
        ∧ 1 ≤ p.accel ∧ p.accel ≤ 1000 ∧ 1 ≤ p.accelStop ∧ p.accelStop ≤ 2000 ∧ 1 ≤ p.filter
        ∧ p.filter ≤ 16 ∧ p.kff ≤ 1023 ∧ p.kp ≤ 1023 ∧ p.iLim ≤ 4000 ∧ 200 ≤ p.pwmN ∧ p.pwmN ≤ 4000
        ∧ p.f0 ≤ p.pwmN ∧ 1 ≤ p.dMax ∧ p.dMax ≤ p.pwmN ∧ 1 ≤ p.nSettle ∧ p.nSettle ≤ 255
        ∧ 1 ≤ p.nLift ∧ p.nLift ≤ 255 ∧ 1 ≤ p.nStall ∧ p.nStall ≤ 255 ∧ 1 ≤ p.nOver ∧ p.nOver ≤ 255
        ∧ 1 ≤ p.pMax ∧ p.pMax ≤ 4095 ∧ 5 ≤ p.tPin ∧ p.tPin ≤ 300 ∧ 10 ≤ p.tMotion ∧ p.tMotion ≤ 600
        ∧ p.tPrewarn ≤ 60 ∧ p.lowerPermit.toNat ≤ 31 ∧ p.raisePermit.toNat ≤ 31
        ∧ p.message.toNat ≤ 63 ∧ p.pattern ≤ 8)

/-- The application of a commit exchanges the two copies of every listed section and of no other, makes each
VALID with its code recorded, closes the commit, starts the copy, and has the block of each listed section act
(R176). COPY_COMPLETE: each copied section's STANDBY holds the ACTIVE content and is VALID, or EMPTY when ACTIVE
is CORRUPT; nothing else changes (R177; the clock: log 2). What the blocks do: OBJECTS resets the image and the
rotation and discards an open POLL's outcome (R36); RAMPS enables, disables or updates each channel (R104,
R125); DOORS keeps a group whose list is unchanged and builds the others anew (R143); CALLS and OBJECTS move
each zone whose node changes (R159); BEACONS restarts every beacon (R165); SETTINGS acts on the silence timer,
the masks and the fire alarm (R18, R52, R188). The model's choices: the order of the blocks, log 26; a channel
that is or becomes DISABLED keeps its old record, log 15; EMERGENCY at a SETTINGS swap whatever the old enable,
log 16; a zone without an owner advances its issue too, log 21; a pending STOP is kept when a list changes,
log 32; a new step starts from the issue of its place, which places outside the list advance too, log 50; the
encoder filters of a disabled channel stand at the low level, log 36; a beacon whose pattern is none stands at
step 0, log 54; the notice of the application before that of a proof test which the swap aborts, log 56; the
order of the blocks that act at one SETTINGS swap, log 57. -/
def Obligations.SwapAndCopy : Prop :=
  (∀ (s : State) (set : Byte), s.ts.commit ≠ none →
      let t := s.applyCommit set
      t.ts.commit = none ∧ t.ts.copy = some { set := set, start := s.now }
        ∧ ∀ i : Fin 8,
          (inSet set i = false → t.sec i = s.sec i)
          ∧ (inSet set i = true →
              (t.sec i).active = (s.sec i).standby ∧ (t.sec i).standby = (s.sec i).active
                ∧ (t.sec i).status = .valid
                ∧ (t.sec i).code = some (checkCode ((s.sec i).standby.slice 0 (secSize i)))))
  ∧ (∀ (s : State) (c : CopyRec), Settled s → s.ts.copy = some c →
      ∃ t, exec .copyComplete s = .next t
        ∧ t = { s with now := max s.now (c.start + copyMsBefore c.set 8 * 4000)
                       ts := { s.ts with copy := none, secs := t.ts.secs } }
        ∧ ∀ i : Fin 8, t.sec i = if inSet c.set i then
            { s.sec i with standby := (s.sec i).active
                           standbyValid := decide ((s.sec i).status ≠ .corrupt) }
          else s.sec i)
  ∧ (∀ (s : State) (set : Byte),
      let e := (s.exchange set).notice 30 1 [set]
      let m : Fin 8 → Memory := fun i => (e.sec i).active
      let copied := e.takeCopies set
      let x0 := if inSet set 0 then copied.swapObjects else copied
      let x3 := if inSet set 3 then
          (x0.swapRamp .a (readRamp (m 3) .a)).swapRamp .b (readRamp (m 3) .b) else x0
      let x4 := if inSet set 4 then
          ([0, 1, 2, 3] : List (Fin 4)).foldl (fun t g => t.swapGroup g (readGroup (m 4) g)) x3 else x3
      let x5 := if inSet set 0 ∨ inSet set 5 then
          x4.swapZones s.img.defs fun z =>
            if inSet set 5 then readZoneIndex (m 5) z else (x4.cl.zones.at z).index
        else x4
      let x6 := if inSet set 6 then x5.restartBeacons else x5
      s.applyCommit set = (if inSet set 7 then x6.swapSettings else x6)
        ∧ (∀ d, copied.img.defs.at d = if inSet set 0 then readDef (m 0) d else s.img.defs.at d)
        ∧ (∀ b, copied.bd.recs.at b = if inSet set 6 then readBeacon (m 6) b else s.bd.recs.at b)
        ∧ (∀ p, copied.bd.patterns.at p = if inSet set 6 then readPattern (m 6) p else s.bd.patterns.at p)
        ∧ copied.settings = (if inSet set 7 then readSettings (m 7) else s.settings)
        ∧ copied.fc.masks = (if inSet set 7 then readMasks (m 7) else s.fc.masks)
        ∧ copied.fc.summaryMasks = (if inSet set 7 then readSummaryMasks (m 7) else s.fc.summaryMasks))
  ∧ (∀ s : State,
      let t := s.swapObjects
      t = { s with img := { s.img with remotes := t.img.remotes, pointer := 0, pass := 0 }
                   dls := t.dls, agenda := t.agenda }
        ∧ (∀ d, t.img.remotes.at d = ⟨255, [], .awaiting, s.now⟩)
        ∧ t.dls = { s.dls with
            tx := s.dls.tx.map fun x => if x.kind = .poll then { x with discard := true } else x
            choose := s.dls.choose || decide (s.dls.line = .free) }
        ∧ t.agenda = s.agenda ++ ((List.finRange 96).filter fun d =>
            decide ((s.img.remotes.at d).value ≠ 255)).map fun d =>
              .imageChange (remoteIndex d) (s.img.remotes.at d).value 255)
  ∧ (∀ (s : State) (ch : Channel) (p : RampParams),
      let r := s.ramp ch
      let t := s.swapRamp ch p
      let cleared : Ramp := { r with
        encA := .at false, encB := .at false, x := 0, xPrev := 0, lastDir := .none, lastCapture := 0
        interval := 65535, recent := none, s := 0, vTarget := 0, vCmd := 0, integrator := 0
        haltSign := 1, buffered := .off, active := .off, lastSample := 0, conversion := none
        pwmCentred := false, motionTime := 0, settle := 0, overspeed := 0, stall := 0, overload := 0
        lift := 0, referenced := false }
      RampOnly ch s t
        ∧ (r.state = .disabled → p.enable = false → t = s)
        ∧ (r.state = .disabled → p.enable = true →
          let u := s.setRamp ch { cleared with
            params := p, pwmZero := some s.now, encA := .at (s.pins.channels.get ch).encA
            encB := .at (s.pins.channels.get ch).encB }
          t = (if s.estop.level then (u.enterRamp ch .halted).raiseFlag (.ramp ch .estop)
            else u.enterRamp ch (if r.stow.level && r.pinsIn.level then .stowedLocked else .halted)))
        ∧ (r.state ≠ .disabled → p.enable = true →
          t = ((s.setRamp ch { r with
            params := p, vCmd := 0, pwmZero := some s.now, pwmCentred := false
            referenced := r.referenced && decide (r.params.stowPos = p.stowPos) }).abortTestOn ch).formBeacons)
        ∧ (r.state ≠ .disabled → p.enable = false →
          t = (s.setRamp ch { cleared with cause := .none, pwmZero := none, pendingStart := .none }).enterRamp
            ch .disabled))
  ∧ (∀ (s : State) (g : Fin 4) (d : GroupDef),
      let r := s.group g
      let t := s.swapGroup g d
      (r.defn.doors = d.doors → t = s.setGroup g { r with defn := d })
        ∧ (r.defn.doors ≠ d.doors → GroupOnly g s t ∧ (t.group g).defn = d ∧ (t.group g).state = .idle
          ∧ t.img.locals.at (groupEntry g)
            = (if r.state = .idle then s.img.locals.at (groupEntry g) else 0)
          ∧ ∀ k, (t.group g).steps.at k = { r.steps.at k with
              state := .waiting, cause := .none, attempts := 0, travel := none, retry := none
              pendingCmd := none, issue := (r.steps.at k).issue + 1 }))
  ∧ (∀ (s : State) (old : Tab ObjDef 96) (index : Fin 12 → Nat),
      let target : Tab ObjDef 96 → Nat → Option (NodeNo × Byte) := fun defs i =>
        (remoteOf? i).map fun d => ((defs.at d).node, (defs.at d).object)
      (s.swapZones old index = (([0, 1, 2, 3, 4, 5, 6, 7, 8, 9, 10, 11] : List (Fin 12)).foldl (fun t z =>
            let was := (t.cl.zones.at z).index
            let u := t.setZone z { t.cl.zones.at z with index := index z }
            if was = index z ∧ target old was = target u.img.defs (index z) then u
            else u.moveZone z (target old was)) s).settleDone)
        ∧ ∀ z from_,
          let u := s.setZone z { s.cl.zones.at z with pendingCut := none, pendingPlay := none }
          (s.ownerCall z = none → s.moveZone z from_ = u.playOwner z)
          ∧ ∀ e c, s.ownerCall z = some (e, c) →
            (c.isPlaying z = true → ∀ node object, from_ = some (node, object) →
              s.moveZone z from_ = (((u.cutTo z node object (decide (c.priority = .emergency))).setMark e z
                (.pending false)).playOwner z))
            ∧ ((c.isPlaying z = false ∨ from_ = none) →
              s.moveZone z from_ = ((u.setMark e z (.pending false)).playOwner z)))
  ∧ (∀ (s : State) (b : Fin 8),
      let r := s.bd.recs.at b
      let p := s.sourcePattern r.source
      let pat := s.bd.pattern p
      (s.restartBeacons.bd.shown.at b = {
          pattern := p, step := 0
          timer := if p = 0 then none else some (s.now + pat.length * (50 * Config.msec))
          level := if p ≠ 0 ∧ (pat.steps.getLsbD 0 != r.opposite) = true then
            (if s.dcc.deck = .emergency then 31 else r.intensity) else 0 })
        ∧ s.restartBeacons = { s with bd := { s.bd with shown := s.restartBeacons.bd.shown } })
  ∧ (∀ s : State,
      let run : State := { s with bli := { s.bli with
        silence := .running (s.now + s.settings.tBridge * Config.msec) } }
      let stop : State := { s with bli := { s.bli with silence := .stopped } }
      let t := s.swapSilence
      (s.settings.tBridge = 0 → s.bli.silence ≠ .expired → t = stop)
        ∧ (s.settings.tBridge = 0 → s.bli.silence = .expired → t = stop.writeLocal 10 0)
        ∧ (s.settings.tBridge ≠ 0 → s.bli.silence ≠ .expired → t = run)
        ∧ (s.settings.tBridge ≠ 0 → s.bli.silence = .expired → t = s)
        ∧ let v := t.reform.formBeacons
          s.swapSettings = if v.settings.fireEnable = true ∧ v.dcc.fire.level = true
              ∧ v.dcc.deck ≠ .emergency then v.enterEmergency .fireAlarm else v)

/-- ABORT closes a pending commit with a notice of value 3, and with none pending changes nothing. COMMIT_EXPIRY
closes the record, raises COMMIT_EXPIRED and places the notice of value 2; the copies keep what was loaded
(R178). That the notice of value 3 carries the section set too: log 45; the reply before the notice: log 10;
the clock moves to the timer's end: log 2. -/
def Obligations.PendingCommitEnds : Prop :=
  (∀ (s : State) (n : NodeNo), Settled s → HasRoom s →
      let q : Request := { source := n, payload := [] }
      (s.ts.commit = none → exec (.abort q) s = .next (s.replied q 3 .done))
        ∧ ∀ c : CommitRec, s.ts.commit = some c →
          exec (.abort q) s = .next (State.settled
            ((State.replied { s with ts := { s.ts with commit := none } } q 3 .done).notice 30 3 [c.set])))
  ∧ (∀ (s : State) (c : CommitRec), s.node ≠ 63 → s.ts.commit = some c →
      ∃ t : State, exec .commitExpiry s = .next t.settled
        ∧ CallsOnly { s with now := max s.now c.expiry, ts := { s.ts with commit := none } } t
        ∧ t.dls = s.dls ∧ t.cl = s.cl ∧ t.hasFlag .commitExpired
        ∧ (s.bli.queue.length ≤ 24 → t.tells (s.noticeFrame 30 2 [c.set])))

/-- SCRUB_SLOT_END: the slot's section becomes CORRUPT, with SECTION_CORRUPT raised, when it is VALID, was
not swapped in the slot and its code differs; no other section changes, and the next slot begins (R180). A RAMPS
section that becomes CORRUPT halts the channels (R100); a SCRUB test ends by the check of the test area (R194).
Nothing else changes, but what a halt does to the calls, the queues and the entries; without a mismatch and
without a SCRUB test nothing at all. The mark of a swap within the slot: log 29; channel A before B: log 49;
the section before the test area: log 52; the clock moves to the slot's end: log 2. -/
def Obligations.ScrubSlotEnds : Prop :=
  ∀ s : State, s.node ≠ 63 →
    let i := s.ts.slot
    let x := s.sec i
    let bad : Prop := x.status = .valid ∧ s.ts.slotSwapped = false
      ∧ x.code ≠ some (checkCode (x.active.slice 0 (secSize i)))
    let halts : Prop := bad ∧ i = 3
    ∃ t : State, exec .scrubSlotEnd s = .next t.settled
      ∧ t.now = max s.now s.ts.slotEnd
      ∧ t.ts = { s.ts with slot := i + 1, slotEnd := s.ts.slotEnd + 125 * Config.msec, slotSwapped := false
                           secs := t.ts.secs }
      ∧ (∀ k, k ≠ i → t.sec k = s.sec k)
      ∧ (bad → t.sec i = { x with status := .corrupt } ∧ t.hasFlag .sectionCorrupt)
      ∧ (¬ bad → t.sec i = x)
      ∧ (∀ arg steps, s.fc.test = some ⟨.scrub, arg, steps⟩ → t.fc.test = none
          ∧ t.fc.last = some (.scrub, if checkCode s.ts.testArea ≠ s.ts.testCode then .pass else .fail))
      ∧ (¬ bad → s.runsTest .scrub = false → t = { s with now := t.now, ts := t.ts })
      ∧ (¬ halts → CallsOnly { s with now := t.now, ts := t.ts
                                      fc := { s.fc with test := t.fc.test, last := t.fc.last } } t
          ∧ t.dls = s.dls ∧ t.cl = s.cl ∧ t.bd = s.bd
          ∧ (s.runsTest .scrub = false → t.fc.test = s.fc.test ∧ t.fc.last = s.fc.last)
          ∧ ∀ k : Fin 32, k.val ≠ 11 → t.img.locals.at k = s.img.locals.at k)
      ∧ (halts →
          (∀ ch, (t.ramp ch).state = (match (s.ramp ch).state with
              | .lowering | .landing | .raising | .stowing | .jog | .halting => .halting
              | .starting => .halted
              | y => y)
            ∧ (t.ramp ch).pendingStart = (if (s.ramp ch).state = .halting then .none
                else (s.ramp ch).pendingStart)
            ∧ (t.ramp ch).x = (s.ramp ch).x ∧ (t.ramp ch).vCmd = (s.ramp ch).vCmd
            ∧ (t.ramp ch).referenced = (s.ramp ch).referenced ∧ (t.ramp ch).params = (s.ramp ch).params
            ∧ ((s.ramp ch).state.isRest = true ∨ (s.ramp ch).state = .locking → t.ramp ch = s.ramp ch)
            ∧ (PublishedOk s → t.img.locals.at ch.stateEntry = (t.ramp ch).state.code))
          ∧ Grows s t ∧ t.pending = s.pending ∧ t.node = s.node ∧ t.straps = s.straps ∧ t.pins = s.pins
          ∧ t.dcc = s.dcc ∧ t.held = s.held ∧ t.estop = s.estop ∧ t.groups = s.groups
          ∧ t.settings = s.settings ∧ t.img.remotes = s.img.remotes ∧ t.img.defs = s.img.defs
          ∧ t.img.pointer = s.img.pointer ∧ t.img.pass = s.img.pass ∧ t.bli.silence = s.bli.silence
          ∧ t.bli.restarting = s.bli.restarting ∧ t.fc.masks = s.fc.masks
          ∧ t.fc.summaryMasks = s.fc.summaryMasks
          ∧ (∀ k : Fin 32, k.val = 0 ∨ 2 < k.val ∧ k.val < 11 ∨ 23 < k.val →
              t.img.locals.at k = s.img.locals.at k)
          ∧ ((∀ ch, (s.ramp ch).state ≠ .starting) → t.cl = s.cl ∧ t.dls = s.dls))

/-! ### RESTART -/

/-- RESTART is refused while a ramp is outside a rest state, a group in a sequence, a commit pending, a copy
running, a frame held or a proof test running; else it replies DONE and a restart is pending (R181).
RESTART_TAKES_EFFECT: abandoned with the notice of value 4 when a ramp or group has moved meanwhile;
otherwise lines, image, ramps, groups, calls and flags are at their RESTART values, and the deck condition,
the held list, the tables, the settings and the masks stay (R17, R37, R106, R145, R161, R182, R196), and the
summary notice is owed whether or not the value changed (R196; it is placed in the emptied queue as
FlagsAndAlarm gives: log 48). The order of the blocks: log 26; the clock moves to the last stop bit of the reply:
log 2. -/
def Obligations.Restart : Prop :=
  (∀ (s : State) (n : NodeNo), Settled s → HasRoom s →
      let q : Request := { source := n, payload := [] }
      let busy : Prop := (∃ ch, (s.ramp ch).state.isRest = false)
        ∨ (∃ g : Fin 4, (s.group g).state.isSequence = true) ∨ s.ts.commit ≠ none ∨ s.ts.copy ≠ none
        ∨ s.held ≠ [] ∨ s.fc.test ≠ none
      (busy → exec (.restart q) s = .next (s.refusedWith q 10 .state))
        ∧ (¬ busy → exec (.restart q) s = .next (State.kickBridge { s with bli := { s.bli with
              restarting := true
              queue := s.bli.queue
                ++ [{ frame := s.replyFrame n 10 .done [], restartReply := true }] } })))
  ∧ (∀ s : State, s.node ≠ 63 → s.bli.restarting = true → (∀ r ∈ s.bli.queue, r.restartReply = false) →
      let moved : Prop := (∃ ch, (s.ramp ch).state.isRest = false)
        ∨ ∃ g : Fin 4, (s.group g).state.isSequence = true
      let n := match s.bli.tx with
        | some x => if x.restartReply then max s.now x.lastStop else s.now
        | none => s.now
      (moved → exec .restartTakesEffect s = .next (State.settled
          (State.notice { s with now := n, bli := { s.bli with restarting := false } } 30 4 [0])))
        ∧ (¬ moved → ∃ t : State, exec .restartTakesEffect s = .next t.settled
          ∧ t.now = n ∧ t.node = s.node ∧ t.straps = s.straps ∧ t.pins = s.pins ∧ t.pending = s.pending
          ∧ t.bli.restarting = false
          ∧ t.bli.silence = (if s.settings.tBridge = 0 then .stopped
              else .running (n + s.settings.tBridge * Config.msec))
          ∧ t.bli.queue = [] ∧ t.bli.tx = s.bli.tx ∧ t.fc.owed = true ∧ (SummaryOk s → SummaryOk t)
          ∧ t.img.locals.at 10 = 0
          ∧ t.dls.line = s.dls.line ∧ t.dls.alternation = .frame
          ∧ t.dls.tx = s.dls.tx.map (fun x => { x with discard := true })
          ∧ (∀ r ∈ t.dls.urgent ++ t.dls.normal, ∃ z i p, r.origin = .zone z i p)
          ∧ (∀ d, t.img.remotes.at d = ⟨255, [], .awaiting, n⟩) ∧ t.img.defs = s.img.defs
          ∧ t.img.pointer = 0 ∧ t.img.pass = 0
          ∧ t.dcc = s.dcc ∧ t.held = s.held ∧ t.estop = s.estop ∧ t.ts = s.ts ∧ t.settings = s.settings
          ∧ (∀ ch, t.ramp ch = { s.ramp ch with
              dir := .none, pendingStart := .none, integrator := 0, silence := false, pinTimer := none
              warnTimer := none, warned := false, deadTimer := none, motionTime := 0, settle := 0
              overspeed := 0, stall := 0, overload := 0, lift := 0, buffered := .off, active := .off
              pinOut := false, pinIn := false })
          ∧ (∀ g : Fin 4, (t.group g).state = (if (s.group g).state = .closed then .closed else .idle)
              ∧ (t.group g).mark = false ∧ (t.group g).defn = (s.group g).defn
              ∧ (t.group g).warnTimer = none ∧ (t.group g).spacing = none
              ∧ ∀ k, ((t.group g).steps.at k).travel = none ∧ ((t.group g).steps.at k).retry = none
                ∧ ((t.group g).steps.at k).pendingStop = none ∧ ((t.group g).steps.at k).pendingCmd = none)
          ∧ (∀ e : Fin 16, (e ≠ 6 ∨ s.dcc.deck ≠ .emergency) → t.cl.calls.at e = none)
          ∧ (s.dcc.deck = .emergency → (t.cl.calls.at 6).isSome = true)
          ∧ t.fc.masks = s.fc.masks ∧ t.fc.summaryMasks = s.fc.summaryMasks ∧ t.fc.test = s.fc.test
          ∧ t.fc.last = s.fc.last
          ∧ t.fc.flags = (if s.estopHolds .a then (Flag.ramp .a .estop).bit else 0)
              ||| (if s.estopHolds .b then (Flag.ramp .b .estop).bit else 0)
              ||| (if s.anySec .empty then Flag.sectionEmpty.bit else 0)
              ||| (if s.anySec .corrupt then Flag.sectionCorrupt.bit else 0)))

/-! ### Deck condition -/

/-- A change of the deck condition: the condition and entry 0 take it, with an image-change event when the
entry's value differs, and the notice carries the old condition and the cause; nothing else changes but what
the notice brings (R43). While the deck is in CLOSING_UP it enters SEA exactly when every SEA group is CLOSED
and every enabled channel STOWED_LOCKED (R48). -/
def Obligations.DeckConditionChanges : Prop :=
  (∀ (s : State) (d : DeckCondition) (c : DeckCause),
      s.changeDeck d c
          = State.notice (State.writeLocal { s with dcc := { s.dcc with deck := d } } 0 d.code) 0 d.code
              [s.dcc.deck.code, c.code]
        ∧ CallsOnly (({ s with dcc := { s.dcc with deck := d } } : State).published 0 d.code)
            (s.changeDeck d c)
        ∧ (s.changeDeck d c).dls = s.dls ∧ (s.changeDeck d c).cl = s.cl ∧ (s.changeDeck d c).bd = s.bd
        ∧ (HasRoom s → (s.changeDeck d c).fc = s.fc
            ∧ (s.changeDeck d c).tells (s.noticeFrame 0 d.code [s.dcc.deck.code, c.code])))
  ∧ (∀ s : State, PublishedOk s → s.dcc.deck = .closingUp →
      let ready : Prop := (∀ g : Fin 4, (s.group g).defn.sea = true → (s.group g).state = .closed)
        ∧ ∀ ch, (s.ramp ch).state = .disabled ∨ (s.ramp ch).state = .stowedLocked
      (ready → s.trySea = s.changeDeck .sea .automaticSea) ∧ (¬ ready → s.trySea = s))

/-- SET_CONDITION: DONE for the present condition, TRANSITION for a move the table does not give, the
reason of a requirement that does not hold, else DONE and the move. To CLOSING_UP: a normal close of every SEA
group, refused to no one, and the test for SEA. Back to LOADING: the pending closing of every SEA group is
cancelled (R45, R46, R47, R48, R50, R53, R132, R142). That the steps of a group are begun anew before its notice
is formed, with one advance of each issue: log 20; the step places outside the list with them: log 50. -/
def Obligations.SetConditionJudged : Prop :=
  (∀ (s : State) (n : NodeNo) (d : DeckCondition), Settled s → HasRoom s → PublishedOk s →
    let q : Request := { source := n, payload := [d.code] }
    let u := s.replied q 0 .done
    let now := s.dcc.deck
    let out := exec (.setCondition q) s
    let refused := fun r => out = .next (s.refusedWith q 0 r)
    let becomes := fun t : State => out = .next t.settled
    let stowed : Prop := ∀ ch, (s.ramp ch).state = .disabled ∨ (s.ramp ch).state = .stowedLocked
    let moving : Prop := ∃ ch, (s.ramp ch).state = .starting ∨ (s.ramp ch).state.isMotion = true
    (d = now → out = .next u)
      ∧ (now = .harbour → d = .loading →
        (s.condition s.settings.loadingPermit = true → becomes (u.changeDeck .loading .setCondition))
        ∧ (s.condition s.settings.loadingPermit = false →
            refused (.conditionFalse s.settings.loadingPermit)))
      ∧ (now = .loading → d = .harbour →
        (¬ moving → becomes (u.changeDeck .harbour .setCondition)) ∧ (moving → refused .state))
      ∧ ((now = .harbour ∨ now = .loading) → d = .closingUp →
        (stowed → becomes u.closeUp) ∧ (¬ stowed → refused .state))
      ∧ (now = .closingUp → d = .loading → becomes u.reopen)
      ∧ (now = .sea → d = .harbour → becomes (u.changeDeck .harbour .setCondition))
      ∧ (now ≠ .emergency → d = .emergency → becomes (u.enterEmergency .setCondition))
      ∧ (now = .emergency ∧ d ≠ .emergency ∨ now ≠ .emergency ∧ now ≠ .sea ∧ d = .sea
          ∨ now = .closingUp ∧ d = .harbour ∨ now = .sea ∧ (d = .loading ∨ d = .closingUp) →
          refused .transition))
  ∧ (∀ s : State,
    let groups : List (Fin 4) := [0, 1, 2, 3]
    let sea := groups.filter fun g => (s.group g).defn.sea
    let close : State → Fin 4 → State := fun t g =>
      let r := t.group g
      if r.state ∈ [.idle, .stopped, .incomplete, .opening] ∧ (t.sec 4).status ≠ .corrupt
          ∧ t.condition r.defn.closePermit = true then
        ((t.resetSteps g).enterGroup g .warning).placeEntry (groupCallEntry g) (t.groupCall g)
      else t
    let up := s.closeUp
    let back := s.reopen
    up = (sea.foldl close (s.changeDeck .closingUp .setCondition)).trySea
      ∧ (up.dcc.deck = .closingUp ∨ up.dcc.deck = .sea)
      ∧ (∀ g : Fin 4, (s.group g).defn.sea = false → up.group g = s.group g ∧ back.group g = s.group g)
      ∧ (∀ g : Fin 4, (s.group g).defn.sea = true →
          ((s.group g).state ∈ [.closed, .warning, .waitPermit, .closing] → up.group g = s.group g)
          ∧ ((s.group g).state ∈ [.idle, .stopped, .incomplete, .opening] →
              up.group g = s.group g ∨ (up.group g).state = .warning
                ∧ (∀ k, ((up.group g).steps.at k).state = .waiting ∧ ((up.group g).steps.at k).attempts = 0))
          ∧ ((s.group g).state ∈ [.warning, .waitPermit] → (back.group g).state = .idle)
          ∧ ((s.group g).state = .warning → back.cl.calls.at (groupCallEntry g) = none)
          ∧ ((s.group g).state = .closing → (back.group g).state = .stopped
              ∧ ∀ k : Fin 8, ((s.group g).steps.at k).state = .commanded →
                ((back.group g).steps.at k).travel = none ∧ ((back.group g).steps.at k).retry = none
                ∧ ((back.group g).steps.at k).issue = ((s.group g).steps.at k).issue + 1)
          ∧ ((s.group g).state ∈ [.idle, .closed, .incomplete, .opening, .stopped] →
              back.group g = s.group g))
      ∧ back.dcc.deck = .loading ∧ (∀ ch, back.ramp ch = s.ramp ch ∧ up.ramp ch = s.ramp ch))

/-- ACCEPT_INCOMPLETE: lawful in CLOSING_UP, with no SEA group in WARNING, WAIT_PERMIT or CLOSING, one or
more INCOMPLETE, and every enabled channel STOWED_LOCKED; the deck then enters SEA with cause 3, and the
groups keep their states and flags (R49). -/
def Obligations.AcceptIncomplete : Prop :=
  ∀ (s : State) (n : NodeNo), Settled s → HasRoom s → PublishedOk s →
    let q : Request := { source := n, payload := [] }
    let out := exec (.acceptIncomplete q) s
    let holds : Prop :=
      (∀ g : Fin 4, (s.group g).defn.sea = true → (s.group g).state ≠ .warning
          ∧ (s.group g).state ≠ .waitPermit ∧ (s.group g).state ≠ .closing)
        ∧ (∃ g : Fin 4, (s.group g).defn.sea = true ∧ (s.group g).state = .incomplete)
        ∧ ∀ ch, (s.ramp ch).state = .disabled ∨ (s.ramp ch).state = .stowedLocked
    let t := (s.replied q 0 .done).changeDeck .sea .acceptIncomplete
    (s.dcc.deck ≠ .closingUp → out = .next (s.refusedWith q 0 .transition))
      ∧ (s.dcc.deck = .closingUp → ¬ holds → out = .next (s.refusedWith q 0 .state))
      ∧ (s.dcc.deck = .closingUp → holds → out = .next t.settled ∧ t.dcc.deck = .sea
          ∧ t.groups = s.groups ∧ (∀ f, s.hasFlag f → t.hasFlag f)
          ∧ (s.bli.queue.length ≤ 24 →
              t.tells (s.replyFrame n 0 .done []) ∧ t.tells (s.noticeFrame 0 3 [2, 3])))

/-- RECOVER: lawful in EMERGENCY while the fire-alarm level is inactive; the deck enters HARBOUR and the
emergency general call leaves the list (R54). -/
def Obligations.RecoverReturnsToHarbour : Prop :=
  ∀ (s : State) (n : NodeNo), Settled s → HasRoom s →
    let q : Request := { source := n, payload := [] }
    let out := exec (.recover q) s
    (s.dcc.deck ≠ .emergency → out = .next (s.refusedWith q 0 .transition))
      ∧ (s.dcc.deck = .emergency → s.dcc.fire.level = true → out = .next (s.refusedWith q 0 .state))
      ∧ (s.dcc.deck = .emergency → s.dcc.fire.level = false →
          ∃ t : State, out = .next t.settled ∧ t.cl.calls.at 6 = none
            ∧ (s.bli.queue.length ≤ 24 →
                t.tells (s.replyFrame n 0 .done []) ∧ t.tells (s.noticeFrame 0 0 [4, 5]))
            ∧ CallsOnly (({ s with dcc := { s.dcc with deck := .harbour } } : State).published 0 0) t)

/-- FIRE_ALARM_ACCEPTED: the first level after full reset is written to entry 9 without an event; a change
is published, and one to active enters EMERGENCY when the enable is set and the deck is not in it (R21,
R52). That the pin shows the accepted level: log 25. -/
def Obligations.FireAlarmAccepted : Prop :=
  ∀ (s : State) (a : Bool), Settled s →
    let out := exec (.fireAlarmAccepted a) s
    let u : State := { s with
      pins := { s.pins with fireAlarm := a }
      dcc := { s.dcc with fire := { level := a, seen := true, sampled := a, run := 0 } } }
    (s.dcc.fire.seen = false → out = .next (u.published 9 (bit a)))
      ∧ (s.dcc.fire.seen = true → s.dcc.fire.level = a → out = .next u)
      ∧ (s.dcc.fire.seen = true → s.dcc.fire.level ≠ a →
        (a = true ∧ s.settings.fireEnable = true ∧ s.dcc.deck ≠ .emergency →
            out = .next (State.settled ((u.writeLocal 9 1).enterEmergency .fireAlarm)))
        ∧ (¬ (a = true ∧ s.settings.fireEnable = true ∧ s.dcc.deck ≠ .emergency) →
            out = .next (State.settled (u.writeLocal 9 (bit a)))))

/-- The entry to EMERGENCY: published with its cause; every lit beacon step raised to 31; the emergency general
call in entry 6, an emergency close of every FIRE group, both channels halted, a pending commit and a running
test aborted (R43, R53, R100, R135, R164, R178, R195). The order of these requests is the model's choice: log
40. -/
def Obligations.EmergencyEntered : Prop :=
  ∀ (s : State) (cause : DeckCause),
    let t := s.enterEmergency cause
    t = ((((([0, 1, 2, 3] : List (Fin 4)).foldl
          (fun u g => if (u.group g).defn.fire then u.emergencyClose g else u)
          (s.changeDeck .emergency cause).raiseBeacons.placeEmergency).haltRamp .a).haltRamp
          .b).abortCommit.endTest .aborted)
      ∧ t.dcc.deck = .emergency ∧ t.img.locals.at 0 = 4
      ∧ (∀ b, t.stepLit b (t.bd.shown.at b).pattern (t.bd.shown.at b).step = true →
          (t.bd.shown.at b).level = 31)
      ∧ (∃ c, t.cl.calls.at 6 = some c ∧ c.origin = .emergency ∧ c.zones = s.settings.emZones
          ∧ c.message = s.settings.emMessage ∧ c.priority = .emergency ∧ c.reps = 0
          ∧ c.pattern = s.settings.emPattern)
      ∧ (∀ ch, (t.ramp ch).state = (match (s.ramp ch).state with
          | .lowering | .landing | .raising | .stowing | .jog | .halting => .halting
          | .starting => .halted
          | x => x))
      ∧ (∀ g : Fin 4, (s.group g).defn.fire = false → t.group g = s.group g)
      ∧ (∀ g : Fin 4, (s.group g).defn.fire = true →
          ((s.group g).state = .closed → t.group g = s.group g)
          ∧ ((s.group g).state ≠ .closed → (t.group g).mark = true)
          ∧ ((s.group g).state = .waitPermit ∨ (s.group g).state = .closing → (t.group g).state = .closing)
          ∧ ((s.group g).state ∈ [.idle, .stopped, .incomplete, .opening, .warning] →
              (t.group g).state = .warning ∨ (t.group g).state = .closing))
      ∧ t.ts.commit = none ∧ (s.ts.commit ≠ none → t.hasFlag .commitExpired)
      ∧ t.fc.test = none
      ∧ (∀ p : ProofTest, s.fc.test = some p → t.fc.last = some (p.id, .aborted))
      ∧ t.settings = s.settings ∧ t.img.remotes = s.img.remotes ∧ t.held = s.held
      ∧ ∀ i : Fin 8, t.sec i = s.sec i

/-! ### The deck line -/

/-- DECK_FRAME_SENT, DECK_LINE_START_BIT and SETTLING_END: the line goes to WINDOW for 1 ms, to SETTLING for two
characters after a broadcast, to RECEIVING, and back to FREE; nothing else changes. REPLY_WINDOW_EXPIRY: the
line is FREE, the transaction ends without an answer: nothing for a POLL or a discarded outcome, NO_ANSWER
and DL_NO_ANSWER for a bridge source, DL_NO_ANSWER and the owner told for the part's own frames (R11 to
R17). The clock moves to the end or expiry named: log 2; the line is free before the outcome is handed on:
log 9; the reply before the notice of DL_NO_ANSWER: log 10. -/
def Obligations.DeckLineMoves : Prop :=
  (∀ s : State, Settled s →
      let at_ : Nat → Line → State := fun n l => { s with now := n, dls := { s.dls with line := l } }
      (∀ f stop, s.dls.line = .sending f stop →
          let n := max s.now stop
          exec .deckFrameSent s = .next
            (at_ n (if f.dest = 63 then .settling (n + 44 * Config.usec) else .window (n + Config.msec))))
        ∧ (∀ due, s.dls.line = .window due →
            exec .deckLineStartBit s = .next (at_ s.now (.receiving true)))
        ∧ (∀ due, s.dls.line = .free ∨ s.dls.line = .settling due →
            exec .deckLineStartBit s = .next (at_ s.now (.receiving false)))
        ∧ (∀ f stop b, s.dls.line = .sending f stop ∨ s.dls.line = .receiving b →
            exec .deckLineStartBit s = .next s)
        ∧ (∀ due, s.dls.line = .settling due →
            exec .settlingEnd s = .next (State.settled { s with
              now := max s.now due, dls := { s.dls with line := .free, choose := true } })))
  ∧ (∀ (s : State) (due : Nat) (x : Transaction), Settled s → HasRoom s → s.dls.line = .window due →
      s.dls.tx = some x →
      let v : State := { s with now := max s.now due
                                dls := { s.dls with line := .free, choose := true, tx := none } }
      let out := exec .replyWindowExpiry s
      ((x.discard = true ∨ ∃ d, x.origin = .entry d) → out = .next v.settled)
        ∧ (∀ src, x.discard = false → x.origin = .owner (.bridge src) →
            out = .next (State.settled
              ((v.queued (s.replyFrame src x.object .noAnswer [])).raiseFlag .dlNoAnswer)))
        ∧ (∀ g k i c d, x.discard = false → x.origin = .owner (.door g k i c d) →
            out = .next (State.settled ((v.doorOutcome g k i c .noAnswer).raiseFlag .dlNoAnswer)))
        ∧ (∀ z i p, x.discard = false → x.origin = .owner (.zone z i p) →
            out = .next (State.settled ((v.zoneOutcome z i p false).raiseFlag .dlNoAnswer))))

/-- DECK_FRAME_END in a window: a frame that answers the transaction ends it: a STATUS is absorbed and
offered to the Passage Filter, a REPLY is relayed to its bridge source or told to its owner; any other
frame, and any frame outside a window, raises DL_FORMAT (R7, R13, R14, R15, R25, R75). -/
def Obligations.DeckFrameEnds : Prop :=
  ∀ (s : State) (chars : List RxChar), Settled s → HasRoom s →
    let v : State := { s with dls := { s.dls with line := .free, choose := true } }
    let w : State := { s with dls := { s.dls with line := .free, choose := true, tx := none } }
    let out := exec (.deckFrameEnd chars) s
    (s.dls.line = .receiving false → out = .next (State.settled (v.raiseFlag .dlFormat)))
      ∧ (s.dls.line = .receiving true → ∀ x : Transaction, s.dls.tx = some x →
        (receive chars = none →
            out = .next (State.settled ((v.raiseFlag .dlFormat).endTransaction none)))
        ∧ ∀ f, receive chars = some f →
          let fits : Prop := f.cls = (if x.kind = .poll then .status else .reply) ∧ f.src = x.node
            ∧ f.dest = s.node ∧ f.object = x.object
          (¬ fits → out = .next (State.settled ((v.raiseFlag .dlFormat).endTransaction none)))
          ∧ (fits → x.discard = true → out = .next w.settled)
          ∧ (fits → x.discard = false → ∀ d, x.origin = .entry d →
              out = .next (State.settled
                ((w.changeRemote d ⟨f.verb, f.payload.take 4, .valid, s.now⟩).offerStatus f)))
          ∧ (fits → x.kind ≠ .poll → x.discard = false → ∀ src, x.origin = .owner (.bridge src) →
              out = .next (State.settled (w.queued { f with dest := src, urgent := false })))
          ∧ (fits → x.discard = false → ∀ g k i c d, x.origin = .owner (.door g k i c d) →
              out = .next (State.settled (w.doorOutcome g k i c
                (if f.verb = 0 ∨ f.verb = 1 then .accepted else .rejected))))
          ∧ (fits → x.discard = false → ∀ z i p, x.origin = .owner (.zone z i p) →
              out = .next (State.settled (w.zoneOutcome z i p (decide (f.verb = 0 ∨ f.verb = 1))))))

/-- The due poll is the first entry eligible in its pass on the walk from the pointer, and there is none
exactly when no remote entry is used (R32, R33). -/
def Obligations.DuePollIsFirstEligible : Prop :=
  ∀ s : State,
    let entry : Nat → Fin 96 := fun n => Fin.ofNat 96 (s.img.pointer.val + n)
    let pass : Nat → Fin 8 := fun n => Fin.ofNat 8 (s.img.pass.val + (s.img.pointer.val + n) / 96)
    let eligible : Nat → Prop := fun n => (s.img.defs.at (entry n)).kind ≠ .none
      ∧ ((s.img.defs.at (entry n)).poll = .fast ∨ pass n = 0)
    (s.duePoll = none ↔ ∀ d, (s.img.defs.at d).kind = .none)
      ∧ ∀ d p, s.duePoll = some (d, p) ↔
        ∃ n, entry n = d ∧ pass n = p ∧ eligible n ∧ ∀ m, m < n → ¬ eligible m

/-- The arbiter's choice, by the first step that applies: an urgent frame, then a poll or a non-urgent frame by
the alternation when both are there, then whichever is there; a frame whose condition is false at its
second look is removed and refused with the late marker; any other begins: it leaves the queue, holds the
line for 22 µs a byte, and writes the transaction record unless it is a broadcast; the freed place is
offered and its owner told (R12, R16, R69, R71, R72, R73; the order of the last two: log 9). The offering: groups
0 to 3, each its pending STOPs and then its pending CLOSE or OPEN frames in step order, urgent when the mark is
set then; zones 0 to 11, each its pending CUT and then its pending PLAY; what finds no place stays pending
(R71, R130, R154). The telling (R131, R155). -/
def Obligations.ArbiterChooses : Prop :=
  (∀ s : State,
      (∀ r rest, s.dls.urgent = r :: rest → s.choice = .frame r)
        ∧ (s.dls.urgent = [] →
          (∀ r rest d p, s.dls.normal = r :: rest → s.duePoll = some (d, p) →
              s.choice = if s.dls.alternation = .frame then .poll d p else .frame r)
          ∧ (∀ r rest, s.dls.normal = r :: rest → s.duePoll = none → s.choice = .frame r)
          ∧ (∀ d p, s.dls.normal = [] → s.duePoll = some (d, p) → s.choice = .poll d p)
          ∧ (s.dls.normal = [] → s.duePoll = none → s.choice = .nothing))
        ∧ ∀ (r : DeckRec) (c : Byte) (k : Nat), s.choice = .frame r → r.cond = some c →
          s.condition c = false →
          s.arbitrate (k + 1) = State.arbitrate k (State.offerPending (State.refuse
            { s with dls := { s.dls with
              urgent := if r.urgent then s.dls.urgent.tail else s.dls.urgent
              normal := if r.urgent then s.dls.normal else s.dls.normal.tail } }
            r.frame.src r.frame.object (.conditionFalse c) true)))
  ∧ (∀ (s : State) (r : DeckRec) (k : Nat), s.choice = .frame r →
      (∀ c, r.cond = some c → s.condition c = true) →
      let f : Frame := { r.frame with urgent := r.urgent }
      s.arbitrate (k + 1) = State.tellStart (State.offerPending { s with dls := { s.dls with
        urgent := if r.urgent then s.dls.urgent.tail else s.dls.urgent
        normal := if r.urgent then s.dls.normal else s.dls.normal.tail
        alternation := if r.urgent then s.dls.alternation else .frame
        line := .sending f (s.now + (7 + f.payload.length) * (22 * Config.usec))
        tx := if f.dest = 63 then none
              else some { kind := if f.cls = .call then .call else .command, node := f.dest
                          object := f.object, origin := .owner r.origin, discard := false } } }) r)
  ∧ (∀ s : State,
      let groups : List (Fin 4) := [0, 1, 2, 3]
      let steps : List (Fin 8) := [0, 1, 2, 3, 4, 5, 6, 7]
      let zones : List (Fin 12) := [0, 1, 2, 3, 4, 5, 6, 7, 8, 9, 10, 11]
      s.offerPending = zones.foldl State.offerZonePending (groups.foldl State.offerGroupPending s)
        ∧ ∀ g, s.offerGroupPending g
            = steps.foldl (State.offerCmd g) (steps.foldl (State.offerStop g) s))
  ∧ (∀ (s : State) (g : Fin 4) (k : Fin 8),
      let x := (s.group g).steps.at k
      (x.pendingStop = none → s.offerStop g k = s)
        ∧ (∀ r, x.pendingStop = some r → s.offerStop g k = if s.dls.hasPlace r.urgent
            then { s.setStep g k { x with pendingStop := none } with dls := s.dls.accept r } else s)
        ∧ (x.pendingCmd = none → s.offerCmd g k = s)
        ∧ ∀ r, x.pendingCmd = some r → s.offerCmd g k = if s.dls.hasPlace (s.group g).mark
            then { s.setStep g k { x with pendingCmd := none } with
                   dls := s.dls.accept { r with urgent := (s.group g).mark } }
            else s)
  ∧ (∀ (s : State) (z : Fin 12),
      let x := s.cl.zones.at z
      let cut : State := match x.pendingCut with
        | none => s
        | some r => if s.dls.hasPlace r.urgent
            then { s.setZone z { x with pendingCut := none } with dls := s.dls.accept r } else s
      let y := cut.cl.zones.at z
      s.offerZonePending z = match x.pendingPlay with
        | none => cut
        | some r => if cut.dls.hasPlace r.urgent
            then { cut.setZone z { y with pendingPlay := none } with dls := cut.dls.accept r } else cut)
  ∧ (∀ (s : State) (r : DeckRec),
      (∀ src, r.origin = .bridge src → s.tellStart r = s)
        ∧ (∀ g k i c d, r.origin = .door g k i c d → s.tellStart r = s.doorFrameStarted g k i c d r.frame)
        ∧ ∀ z i p, r.origin = .zone z i p → s.tellStart r = s.zoneFrameStarted z i p r.urgent r.frame)

/-- An image entry written with another value raises one image-change event, with the values before and after;
the same value raises none (R20, R25, R31); an event is taken by the held list, the door groups, the call list,
and, for entries 1, 2 and 5 to 8, the deck condition and a pending commit (R31), in this order, with the groups
from 0 to 3: the model's choice, log 7. At such an event a pending commit is applied when no ramp channel is
published in STARTING, LOCKING or a motion state and no group in a sequence state, and waits otherwise (R175).
FRESHNESS_EXPIRY
of a used entry not yet STALE: it reads 255, STALE, with no detail; OBJECT_STALE is raised; nothing else changes
but what the flag and the event bring (R28, R30); the clock moves to the expiry: log 2. -/
def Obligations.ImageChanges : Prop :=
  ((∀ (s : State) (i : Fin 32) (v : Byte),
        (s.img.locals.at i = v → s.writeLocal i v = s)
        ∧ (s.img.locals.at i ≠ v → s.writeLocal i v = { s.published i v with
            agenda := s.agenda ++ [.imageChange ⟨i.val, by omega⟩ (s.img.locals.at i) v] }))
      ∧ ∀ (s : State) (d : Fin 96) (r : Remote),
        let old := (s.img.remotes.at d).value
        (old = r.value → s.changeRemote d r = s.setRemote d r)
        ∧ (old ≠ r.value → s.changeRemote d r = { s.setRemote d r with
            agenda := s.agenda ++ [.imageChange ⟨32 + d.val, by omega⟩ old r.value] }))
  ∧ (∀ (s : State) (index : Fin 128) (old new : Byte),
      let a := ([0, 1, 2, 3] : List (Fin 4)).foldl (fun t g => t.groupImageChange g index.val new)
        s.evaluateHeld
      let b := a.callsImageChange index.val new
      s.handle (.imageChange index old new)
        = if index.val ∈ [1, 2, 5, 6, 7, 8] then b.trySea.tryApply else b)
  ∧ (∀ s : State,
      let gate : Prop := (∀ ch : Channel,
          s.img.locals.at ch.stateEntry ∉ ([2, 3, 4, 6, 7, 8, 9, 11] : List Byte))
        ∧ ∀ g : Fin 4, s.img.locals.at (groupEntry g) ∉ ([1, 2, 3, 6] : List Byte)
      (s.ts.commit = none → s.tryApply = s)
        ∧ ∀ c, s.ts.commit = some c →
          (gate → s.tryApply = s.applyCommit c.set) ∧ (¬ gate → s.tryApply = s))
  ∧ (∀ (s : State) (d : Fin 96), s.node ≠ 63 → (s.img.defs.at d).kind ≠ .none →
      (s.img.remotes.at d).standing ≠ .stale →
      let r := s.img.remotes.at d
      let n := max s.now (r.since + ((s.img.defs.at d).limit + 1) * Config.msec)
      let u : State := { s with now := n }
      let stale : Remote := { r with value := 255, detail := [], standing := .stale }
      let t := (u.changeRemote d stale).raiseFlag .objectStale
      exec (.freshnessExpiry d) s = .next t.settled
        ∧ CallsOnly (u.setRemote d stale) t
        ∧ t.hasFlag .objectStale ∧ t.dls = s.dls ∧ t.cl = s.cl ∧ t.bd = s.bd
        ∧ ∀ i : Fin 32, i.val ≠ 11 → t.img.locals.at i = s.img.locals.at i)

/-- A poll chosen on a FREE line: a POLL frame of 7 bytes to the entry's node, 154 µs on the line and then
a window; the transaction record, and the rotation moved past the entry (R12, R13, R34, R73). The clock moves
to the end of the frame: log 2; that the arbiter chooses last in a command: log 8. -/
def Obligations.PollBegins : Prop :=
  ∀ (s : State) (d : Fin 96) (p : Fin 8), Settled s → s.dls.line = .free → s.choice = .poll d p →
    let o := s.img.defs.at d
    let f : Frame := { dest := o.node, urgent := false, src := s.node, cls := .poll, object := o.object
                       verb := 0, payload := [] }
    let stop := s.now + 154 * Config.usec
    let t : State := { s with
      img := { s.img with
        pointer := if d.val = 95 then 0 else d + 1
        pass := if d.val = 95 then p + 1 else p }
      dls := { s.dls with
        line := .sending f stop, alternation := .poll
        tx := some { kind := .poll, node := o.node, object := o.object, origin := .entry d
                     discard := false } } }
    State.settled { s with dls := { s.dls with choose := true } } = t
      ∧ f.size = 7
      ∧ (o.node ≠ 63 → exec .deckFrameSent t = .next { t with
          now := stop, dls := { t.dls with line := .window (stop + Config.msec) } })

/-! ### Ramp channels: commands -/

/-- The seven checks of LOWER, RAISE and JOG, in order; the first that fails gives the answer (R84). -/
def Obligations.RampChecksInOrder : Prop :=
  ∀ (s : State) (ch : Channel) (d : Dir) (jog : Bool),
    let r := s.ramp ch
    let permit := if d = .raise then r.params.raisePermit else r.params.lowerPermit
    let c1 : Prop := s.dcc.deck = .closingUp ∨ s.dcc.deck = .sea ∨ s.dcc.deck = .emergency
    let c2 : Prop := s.estop.level = true
    let c3 : Prop := ∃ p, s.fc.test = some p ∧ p.id.channel? = some ch
    let c4 : Prop := (s.sec 3).status = .corrupt
    let c5 : Prop := jog = false ∧ r.referenced = false ∧ r.state ≠ .disabled
    let c6 : Prop := s.condition permit = false
    let c7 : Prop := r.silence = true
    (c1 → s.rampChecks ch d jog = some (.refuse .deckCondition))
      ∧ (¬ c1 → c2 → s.rampChecks ch d jog = some (.refuse .estop))
      ∧ (¬ c1 → ¬ c2 → c3 → s.rampChecks ch d jog = some (.code .testing))
      ∧ (¬ c1 → ¬ c2 → ¬ c3 → c4 → s.rampChecks ch d jog = some (.refuse .corrupt))
      ∧ (¬ c1 → ¬ c2 → ¬ c3 → ¬ c4 → c5 → s.rampChecks ch d jog = some (.code .notReferenced))
      ∧ (¬ c1 → ¬ c2 → ¬ c3 → ¬ c4 → ¬ c5 → c6 →
          s.rampChecks ch d jog = some (.refuse (.conditionFalse permit)))
      ∧ (¬ c1 → ¬ c2 → ¬ c3 → ¬ c4 → ¬ c5 → ¬ c6 → c7 →
          s.rampChecks ch d jog = some (.refuse .state))
      ∧ (¬ c1 → ¬ c2 → ¬ c3 → ¬ c4 → ¬ c5 → ¬ c6 → ¬ c7 → s.rampChecks ch d jog = none)

/-- LOWER and RAISE: the silence mark is taken, then the first failing check answers, else the state does. One
that starts: ACCEPTED, STARTING with its direction, the pins driven out and the pin timer started unless
they are out, the warning call placed; in JOG the channel halts with the start pending; nothing else changes
but what the call list does with the warning call (R81, R84, R85, R86, R90). -/
def Obligations.MoveJudged : Prop :=
  (∀ (s : State) (ch : Channel) (n : NodeNo) (d : Dir) (c : Instr), Settled s → HasRoom s →
      (d = .lower ∧ c = .lower ch { source := n, payload := [] }
        ∨ d = .raise ∧ c = .raise ch { source := n, payload := [] }) →
      let q : Request := { source := n, payload := [] }
      let u := s.markSilence ch
      let st := (s.ramp ch).state
      (u = s.setRamp ch { s.ramp ch with silence := decide (s.img.locals.at 10 = 1) })
        ∧ (∀ r, u.rampChecks ch d false = some (.refuse r) →
            exec c s = .next (u.refusedWith q ch.object r))
        ∧ (∀ k, u.rampChecks ch d false = some (.code k) → exec c s = .next (u.replied q ch.object k))
        ∧ (u.rampChecks ch d false = none →
          ((st = .disabled ∨ st = .fault) → exec c s = .next (u.refusedWith q ch.object .state))
          ∧ ((d = .raise ∧ st = .stowedLocked ∨ d = .lower ∧ (st = .lowering ∨ st = .landing ∨ st = .landed)
              ∨ d = .raise ∧ (st = .raising ∨ st = .stowing)) →
              exec c s = .next (u.replied q ch.object .done))
          ∧ ((st = .starting ∨ st = .locking ∨ st = .halting ∨ d = .raise ∧ (st = .lowering ∨ st = .landing)
              ∨ d = .lower ∧ (st = .raising ∨ st = .stowing)) →
              exec c s = .next (u.replied q ch.object .busy))))
  ∧ (∀ (s : State) (ch : Channel) (n : NodeNo) (d : Dir) (c : Instr), Settled s → HasRoom s →
      (d = .lower ∧ c = .lower ch { source := n, payload := [] }
        ∨ d = .raise ∧ c = .raise ch { source := n, payload := [] }) →
      let q : Request := { source := n, payload := [] }
      let u := (s.markSilence ch).replied q ch.object .accepted
      let r := u.ramp ch
      (s.markSilence ch).rampChecks ch d false = none →
      (((d = .lower ∧ r.state = .stowedLocked) ∨ (d = .raise ∧ r.state = .landed) ∨ r.state = .halted) →
        let t := u.startRamp ch d
        exec c s = .next t.settled ∧ RampOnly ch u t ∧ t.bli = u.bli ∧ t.fc = u.fc
          ∧ (t.ramp ch) = { r with
              state := .starting, dir := d, pendingStart := .none, integrator := 0
              buffered := .off, active := .off, pinOut := !r.pinsOut.level, pinIn := false
              pinTimer := if r.pinsOut.level then none
                else some (s.now + r.params.tPin * (100 * Config.msec))
              warnTimer := none, warned := false, deadTimer := none }
          ∧ t.img.locals.at ch.stateEntry = 2
          ∧ ∃ x, t.cl.calls.at ch.callEntry = some x ∧ x.origin = .ramp ch ∧ x.zones = r.params.zones
              ∧ x.message = r.params.message ∧ x.priority = .safety ∧ x.reps = 0
              ∧ x.pattern = r.params.pattern)
        ∧ (r.state = .jog →
          let t := u.pendStart ch d
          exec c s = .next t.settled ∧ RampOnly ch u t ∧ t.bli = u.bli ∧ t.fc = u.fc
            ∧ (t.ramp ch) = { r with
                state := .halting, pendingStart := d, deadTimer := none, pinOut := false, pinIn := false
                pinTimer := none, warnTimer := none, warned := false, haltSign := r.jogSign }
            ∧ t.cl = u.cl ∧ t.img.locals.at ch.stateEntry = 9))

/-- RAMP_STOP: TESTING under a proof test, else DONE; a motion state goes to HALTING, STARTING to HALTED with its
drive and timers off, a pending start is cleared, and other states stay. RESET_FAULT: TESTING under a proof
test; outside FAULT, DONE and no change; in FAULT with the cause still present, refused; else DONE, the
cause NONE, and STOWED_LOCKED or HALTED by the two switches (R84, R88, R89). -/
def Obligations.StopAndResetFault : Prop :=
  (∀ (s : State) (ch : Channel) (n : NodeNo), Settled s → HasRoom s →
      let q : Request := { source := n, payload := [] }
      let m := s.markSilence ch
      let u := m.replied q ch.object .done
      let r := u.ramp ch
      let out := exec (.rampStop ch q) s
      (s.testingOn ch = true → out = .next (m.replied q ch.object .testing))
        ∧ (s.testingOn ch = false →
          (r.state ∈ [.disabled, .stowedLocked, .landed, .halted, .locking, .fault] → out = .next u)
          ∧ (r.state = .halting → out = .next (u.setRamp ch { r with pendingStart := .none }))
          ∧ (r.state ∈ [.lowering, .landing, .raising, .stowing, .jog, .starting] →
              ∃ t : State, out = .next t.settled ∧ RampOnly ch u t ∧ t.now = s.now ∧ t.bli = u.bli
                ∧ (t.ramp ch).state = (if r.state = .starting then .halted else .halting)
                ∧ (t.ramp ch).pinOut = false ∧ (t.ramp ch).pinIn = false ∧ (t.ramp ch).pinTimer = none
                ∧ (t.ramp ch).warnTimer = none ∧ (t.ramp ch).deadTimer = none
                ∧ (t.ramp ch).motionTime = (if r.state = .starting then 0 else r.motionTime)
                ∧ (t.ramp ch).x = r.x ∧ (t.ramp ch).vCmd = r.vCmd
                ∧ (t.ramp ch).referenced = r.referenced ∧ (t.ramp ch).params = r.params
                ∧ t.img.locals.at ch.stateEntry = (t.ramp ch).state.code)))
  ∧ (∀ (s : State) (ch : Channel) (n : NodeNo), Settled s → HasRoom s →
      let q : Request := { source := n, payload := [] }
      let m := s.markSilence ch
      let u := m.replied q ch.object .done
      let r := s.ramp ch
      let out := exec (.resetFault ch q) s
      let present : Prop := r.params.pMax < r.lastSample.toNat ∨ s.estop.level = true
      (s.testingOn ch = true → out = .next (m.replied q ch.object .testing))
        ∧ (s.testingOn ch = false → r.state ≠ .fault → out = .next u)
        ∧ (s.testingOn ch = false → r.state = .fault → present →
            out = .next (m.refusedWith q ch.object .state))
        ∧ (s.testingOn ch = false → r.state = .fault → ¬ present →
            ∃ t : State, out = .next t.settled ∧ RampOnly ch u t ∧ t.now = s.now ∧ t.bli = u.bli
              ∧ t.fc = s.fc
              ∧ (t.ramp ch).cause = .none
              ∧ (t.ramp ch).state
                  = (if r.stow.level = true ∧ r.pinsIn.level = true then .stowedLocked else .halted)
              ∧ (t.ramp ch).referenced = r.referenced ∧ (t.ramp ch).x = r.x
              ∧ (t.ramp ch).integrator = 0 ∧ (t.ramp ch).vCmd = r.vCmd))

/-- JOG: the first failing check answers, else the state does; a taken JOG sets direction, jog speed and
V_target, clamped to V_max or, unreferenced, to V_creep, and starts the dead-man timer for 300 ms (R84,
R87). -/
def Obligations.JogJudged : Prop :=
  ∀ (s : State) (ch : Channel) (n : NodeNo) (d : Dir) (db hi lo : Byte), Settled s → HasRoom s →
    (db = 0 ∧ d = .lower ∨ db = 1 ∧ d = .raise) → 1 ≤ word16 hi lo → word16 hi lo ≤ 8000 →
    let q : Request := { source := n, payload := [db, hi, lo] }
    let speed := word16 hi lo
    let m := s.markSilence ch
    let st := (s.ramp ch).state
    let out := exec (.jog ch q) s
    let v : Ramp → Int := fun r =>
      d.sign * (min speed (if r.referenced then r.params.vMax else r.params.vCreep) : Nat)
    (∀ r, m.rampChecks ch d true = some (.refuse r) → out = .next (m.refusedWith q ch.object r))
      ∧ (∀ k, m.rampChecks ch d true = some (.code k) → out = .next (m.replied q ch.object k))
      ∧ (m.rampChecks ch d true = none →
        ((st ∈ [.stowedLocked, .fault, .disabled]
            ∨ (st = .halted ∨ st = .landed) ∧ (s.ramp ch).pinsOut.level = false) →
          out = .next (m.refusedWith q ch.object .state))
        ∧ (st ∈ [.starting, .locking, .lowering, .landing, .raising, .stowing, .halting] →
            out = .next (m.replied q ch.object .busy))
        ∧ (st = .jog →
            let u := m.replied q ch.object .done
            out = .next (u.setRamp ch { u.ramp ch with
              dir := d, jogSpeed := speed, vTarget := v (u.ramp ch)
              deadTimer := some (s.now + 300 * Config.msec) }))
        ∧ ((st = .halted ∨ st = .landed) → (s.ramp ch).pinsOut.level = true →
            let u := m.replied q ch.object .accepted
            ∃ t : State, out = .next t.settled ∧ RampOnly ch u t ∧ t.now = s.now ∧ t.bli = u.bli
              ∧ t.ramp ch = { u.ramp ch with
                  state := .jog, dir := d, jogSpeed := speed, vTarget := v (u.ramp ch)
                  deadTimer := some (s.now + 300 * Config.msec), pinOut := false, pinIn := false
                  pinTimer := none, warnTimer := none, warned := false, motionTime := 0 }
              ∧ t.img.locals.at ch.stateEntry = 11))

/-! ### Ramp channels: inputs and timers -/

/-- RAMP_SWITCH_ACCEPTED: the level is taken; the first since full reset and an unchanged one do nothing
more, nor do STOW and LAND; PINS_OUT in STARTING ends or begins the drive out, and with the warning already run
ends STARTING by the permit; PINS_IN in LOCKING enters STOWED_LOCKED (R82, R90, R91, R92). That the pin shows
the accepted level: log 25. -/
def Obligations.SwitchAccepted : Prop :=
  ∀ (s : State) (ch : Channel) (sw : Switch) (a : Bool), Settled s →
    let f := (s.ramp ch).filterOf sw
    let u := (s.setChannelPins ch ((s.pins.channels.get ch).setSwitch sw a)).setRamp ch
      ((s.ramp ch).acceptSwitch sw a)
    let r := u.ramp ch
    let out := exec (.rampSwitchAccepted ch sw a) s
    r.filterOf sw = { level := a, seen := true, sampled := a, run := 0 }
      ∧ (∀ other, other ≠ sw → r.filterOf other = (s.ramp ch).filterOf other)
      ∧ ((f.seen = false ∨ f.level = a ∨ sw = .stow ∨ sw = .land
          ∨ sw = .pinsOut ∧ r.state ≠ .starting
          ∨ sw = .pinsIn ∧ (r.state ≠ .locking ∨ a = false)) → out = .next u)
      ∧ (f.seen = true → f.level ≠ a → sw = .pinsOut → r.state = .starting →
        (a = false → out = .next (u.setRamp ch { r with
            pinOut := true, pinTimer := some (s.now + r.params.tPin * (100 * Config.msec)) }))
        ∧ (a = true → r.warned = false →
            out = .next (u.setRamp ch { r with pinOut := false, pinTimer := none }))
        ∧ (a = true → r.warned = true →
            let v := u.setRamp ch { r with pinOut := false, pinTimer := none }
            ∃ t : State, out = .next t.settled ∧ RampOnly ch v t ∧ StartingEnds ch v t))
      ∧ (f.seen = true → f.level ≠ a → sw = .pinsIn → a = true → r.state = .locking →
          ∃ t : State, out = .next t.settled ∧ RampOnly ch u t ∧ (t.ramp ch).state = .stowedLocked
            ∧ (t.ramp ch).pinIn = false ∧ (t.ramp ch).pinTimer = none)

/-- A channel leaves STARTING with its warning run and its pins out: by its permit, lowering to LOWERING,
raising to RAISING or, with the stow switch active, LOCKING at STOW_POS; with the permit false to HALTED, with
PERMIT_LOST (R91, R92, R94, R101, R109). The clock moves to the timer's end: log 2. The warning time begins to
count when the call list reports the channel's call ready, in STARTING, once; with T_prewarn 0 it has run then,
and the channel leaves if its pins are out (R90, R91). -/
def Obligations.StartingLeft : Prop :=
  (∀ (s : State) (ch : Channel) (due : Nat), s.node ≠ 63 → (s.ramp ch).warnTimer = some due →
    (s.ramp ch).state = .starting →
    let r := s.ramp ch
    let u := ({ s with now := max s.now due } : State).setRamp ch { r with warnTimer := none, warned := true }
    (r.pinsOut.level = false → exec (.rampWarningExpiry ch) s = .next u.settled)
      ∧ (r.pinsOut.level = true →
        ∃ t : State, exec (.rampWarningExpiry ch) s = .next t.settled ∧ RampOnly ch u t
          ∧ StartingEnds ch u t))
  ∧ (∀ (s : State) (ch : Channel),
      let r := s.ramp ch
      let t := s.handle (.callReady ch.callEntry)
      let begins : Prop := (∃ c, s.cl.calls.at ch.callEntry = some c ∧ c.ready ≠ none)
        ∧ r.state = .starting ∧ r.warned = false ∧ r.warnTimer = none
      (¬ begins → t = s)
        ∧ (begins → r.params.tPrewarn ≠ 0 → t = s.setRamp ch { r with
            warnTimer := some (s.now + r.params.tPrewarn * Config.second) })
        ∧ (begins → r.params.tPrewarn = 0 →
          let u := s.setRamp ch { r with warned := true }
          (r.pinsOut.level = false → t = u)
          ∧ (r.pinsOut.level = true → RampOnly ch u t ∧ StartingEnds ch u t)))

/-- PIN_TIMER_EXPIRY in STARTING or LOCKING enters FAULT with cause PIN_TIMEOUT, and DEAD_MAN_EXPIRY in JOG
enters HALTING; a fault puts outputs, timers, speed command, counts and pending start to rest and raises
its flag (R87, R90, R92, R103). The clock moves to the timer's end: log 2. -/
def Obligations.RampTimersExpire : Prop :=
  ∀ (s : State) (ch : Channel) (due : Nat), s.node ≠ 63 →
    let u : State := { s with now := max s.now due }
    ((s.ramp ch).pinTimer = some due → ((s.ramp ch).state = .starting ∨ (s.ramp ch).state = .locking) →
      ∃ t : State, exec (.pinTimerExpiry ch) s = .next t.settled ∧ RampOnly ch u t
        ∧ t.hasFlag (.ramp ch .pinTimeout) ∧ t.img.locals.at ch.stateEntry = 12
        ∧ (t.ramp ch) = { s.ramp ch with
            state := .fault, dir := .none, cause := .pinTimeout, vCmd := 0, integrator := 0
            pendingStart := .none, buffered := .off, active := .off, pinOut := false, pinIn := false
            pinTimer := none, warnTimer := none, warned := false, deadTimer := none, motionTime := 0
            overspeed := 0, stall := 0, overload := 0 })
      ∧ ((s.ramp ch).deadTimer = some due → (s.ramp ch).state = .jog →
        ∃ t : State, exec (.deadManExpiry ch) s = .next t.settled ∧ RampOnly ch u t
          ∧ (t.ramp ch).state = .halting ∧ (t.ramp ch).deadTimer = none
          ∧ (t.ramp ch).haltSign = (s.ramp ch).jogSign ∧ t.img.locals.at ch.stateEntry = 9)

/-- ESTOP_ACCEPTED: the level is taken; an unchanged level and a change to inactive do nothing more; becoming
active, it halts each channel that is not DISABLED or in FAULT with outputs and drives off, and raises its ESTOP
flag; FAULT raises the flag alone (R82, R98). The first level since full reset is no input event and halts
nothing; when it is active the condition of the flags begins, and the flag of each channel that is not DISABLED
is raised (R82, R185; the model's reading: log 47). That the pin shows the level: log 25; channel A before B:
log 49. -/
def Obligations.EstopHaltsChannels : Prop :=
  ∀ (s : State) (a : Bool), Settled s →
    let u : State := { s with pins := { s.pins with estop := a }
                              estop := { level := a, seen := true, sampled := a, run := 0 } }
    let flag : Channel → BitVec 35 := fun ch =>
      if (s.ramp ch).state = .disabled then 0 else (Flag.ramp ch .estop).bit
    ((s.estop.level = true ∨ a = false) → exec (.estopAccepted a) s = .next u)
      ∧ (s.estop.seen = false → s.estop.level = false → a = true →
        ∃ t : State, exec (.estopAccepted a) s = .next t.settled ∧ CallsOnly u t
          ∧ t.dls = s.dls ∧ t.cl = s.cl ∧ t.bd = s.bd ∧ t.bli = s.bli
          ∧ t.fc.flags = s.fc.flags ||| flag .a ||| flag .b
          ∧ ∀ i : Fin 32, i.val ≠ 11 → t.img.locals.at i = s.img.locals.at i)
      ∧ (s.estop.seen = true → s.estop.level = false → a = true →
        ∃ t : State, exec (.estopAccepted a) s = .next t.settled
          ∧ t.estop = u.estop ∧ t.pins = u.pins ∧ t.now = s.now ∧ t.groups = s.groups ∧ t.dcc = s.dcc
          ∧ t.held = s.held ∧ t.ts = s.ts ∧ t.settings = s.settings ∧ t.img.remotes = s.img.remotes
          ∧ ∀ ch,
            ((s.ramp ch).state = .disabled → t.ramp ch = s.ramp ch)
            ∧ ((s.ramp ch).state = .fault →
                t.ramp ch = s.ramp ch ∧ t.hasFlag (.ramp ch .estop))
            ∧ ((s.ramp ch).state ≠ .disabled → (s.ramp ch).state ≠ .fault →
                t.hasFlag (.ramp ch .estop) ∧ t.img.locals.at ch.stateEntry = 10
                  ∧ t.ramp ch = { s.ramp ch with
                      state := .halted, dir := .none, pendingStart := .none, vCmd := 0
                      integrator := 0, buffered := .off, active := .off, pinOut := false
                      pinIn := false, pinTimer := none, warnTimer := none, warned := false
                      deadTimer := none
                      motionTime := if (s.ramp ch).state = .starting then 0 else (s.ramp ch).motionTime
                      overspeed := (t.ramp ch).overspeed
                      overload := (t.ramp ch).overload }))

/-! ### Ramp channels: measurement and drive -/

/-- An accepted change of one encoder level is a counted edge with the count and direction of the table; of
both, an illegal transition: FAULT with cause ENCODER, or in FAULT the flag, and the reference lost; on a
DISABLED channel nothing (R102, R107, R108). That each newly accepted level is shown at its own pin, and what
a DISABLED channel does: log 25. -/
def Obligations.EncoderEdges : Prop :=
  ∀ (s : State) (ch : Channel) (a b : Bool), Settled s →
    let r := s.ramp ch
    let before := (r.encA.level, r.encB.level)
    let pins := s.pins.channels.get ch
    let u := s.setChannelPins ch { pins with
      encA := if r.encA.level = a then pins.encA else a, encB := if r.encB.level = b then pins.encB else b }
    let taken : Bool → EncFilter := fun level => { level := level, run := 0, reached := false }
    let r' : Ramp := { r with encA := if r.encA.level = a then r.encA else taken a
                              encB := if r.encB.level = b then r.encB else taken b }
    let out := exec (.encoderTransition ch a b) s
    let forward : Prop := (before, (a, b)) ∈ ([((false, false), (true, false)),
      ((true, false), (true, true)), ((true, true), (false, true)), ((false, true), (false, false))] :
        List ((Bool × Bool) × (Bool × Bool)))
    let back : Prop := ((a, b), before) ∈ ([((false, false), (true, false)),
      ((true, false), (true, true)), ((true, true), (false, true)), ((false, true), (false, false))] :
        List ((Bool × Bool) × (Bool × Bool)))
    (r.state = .disabled → out = .next s)
      ∧ (r.state ≠ .disabled →
        (forward → out = .next (u.setRamp ch (r'.countEdge .lower s.now s.capture)))
        ∧ (back → out = .next (u.setRamp ch (r'.countEdge .raise s.now s.capture)))
        ∧ (-8388608 < r.x → r.x < 8388607 → (r'.countEdge .lower s.now s.capture).x = r.x + 1
            ∧ (r'.countEdge .raise s.now s.capture).x = r.x - 1)
        ∧ (r'.countEdge .lower s.now s.capture).lastDir = .lower
        ∧ (r'.countEdge .raise s.now s.capture).lastDir = .raise
        ∧ (before = (a, b) → out = .next u)
        ∧ (r.encA.level ≠ a → r.encB.level ≠ b →
          ∃ t : State, out = .next t.settled ∧ RampOnly ch u t ∧ (t.ramp ch).referenced = false
            ∧ (t.ramp ch).encA.level = a ∧ (t.ramp ch).encB.level = b ∧ (t.ramp ch).x = r.x
            ∧ (t.ramp ch).lastCapture = r.lastCapture ∧ (t.ramp ch).interval = r.interval
            ∧ (t.ramp ch).state = .fault ∧ t.hasFlag (.ramp ch .encoder)
            ∧ (t.ramp ch).cause = (if r.state = .fault then r.cause else .encoder)))

/-- A counted edge: X by one, saturating; the interval from the last capture when the last edge is recent and in
the same direction, else 65,535. The speed estimate: 16 times a count difference of 4 or more, else from
the interval of a recent edge, else 0. The profile: V_target by state, and V_cmd moved toward it by at most
A, A_stop in HALTING. The drive of a motion state: the error, the integrator within I_lim, the demand with
each term truncated toward zero, the offset away from zero, and the magnitude within D_max on the output of
the state's direction σ, which in HALTING is the sign taken at its entry; off in every other state (R109, R110,
R112 to R119). An edge at the very end of the recent time still finds it recent: log 34. In JOG the drive reads
V_cmd and V_target for σ after their step of the same period end: log 58. -/
def Obligations.ControlLaw : Prop :=
  (∀ (r : Ramp) (d : Dir) (now : Nat) (cap : BitVec 20), d ≠ .none →
      let t := r.countEdge d now cap
      (-8388608 ≤ r.x → r.x ≤ 8388607 →
          t.x = (if d = .lower then (if r.x = 8388607 then r.x else r.x + 1)
            else (if r.x = -8388608 then r.x else r.x - 1)))
        ∧ t.lastDir = d ∧ t.lastCapture = cap ∧ t.recent = some (now + 250 * Config.msec)
        ∧ (∀ due, r.recent = some due → now ≤ due → r.lastDir = d →
            t.interval = max 1 (min 65535 (cap - r.lastCapture).toNat))
        ∧ ((r.recent = none ∨ (∃ due, r.recent = some due ∧ due < now) ∨ r.lastDir ≠ d) →
            t.interval = 65535)
        ∧ { t with x := r.x, interval := r.interval, lastDir := r.lastDir, lastCapture := r.lastCapture
                   recent := r.recent } = r)
  ∧ (∀ (r : Ramp) (now : Nat),
      r.delta = (if r.x - r.xPrev < -2047 then -2047 else if 2047 < r.x - r.xPrev then 2047
        else r.x - r.xPrev)
        ∧ (4 ≤ r.delta.natAbs → r.estimate now = 16 * r.delta)
        ∧ (r.delta.natAbs ≤ 3 → ∀ due, r.recent = some due → now ≤ due →
            r.estimate now = (match r.lastDir with
              | .lower => ((min 63 (160000 / r.interval) : Nat) : Int)
              | .raise => -((min 63 (160000 / r.interval) : Nat) : Int)
              | .none => 0))
        ∧ (r.delta.natAbs ≤ 3 → (r.recent = none ∨ ∃ due, r.recent = some due ∧ due < now) →
            r.estimate now = 0))
  ∧ (∀ r : Ramp,
      let p := r.params
      let t := r.profile
      let lim : Int → Int := fun target =>
        (min p.vMax (p.vCreep + (target - r.x).natAbs * p.gSlow / 64) : Nat)
      let step := if r.state = .halting then p.accelStop else p.accel
      { t with vTarget := r.vTarget, vCmd := r.vCmd } = r
        ∧ (r.state = .lowering → t.vTarget = lim p.deployPos)
        ∧ (r.state = .raising → t.vTarget = -(lim p.stowPos))
        ∧ (r.state = .landing → t.vTarget = p.vCreep) ∧ (r.state = .stowing → t.vTarget = -(p.vCreep : Int))
        ∧ (r.state ∉ [.lowering, .raising, .landing, .stowing, .jog] → t.vTarget = 0)
        ∧ (r.state = .jog → r.referenced = false → t.vTarget = r.dir.sign * (min r.jogSpeed p.vCreep : Nat))
        ∧ (r.state = .jog → r.referenced = true →
            let v : Int := r.dir.sign * (min r.jogSpeed p.vMax : Nat)
            t.vTarget = if 0 < v ∧ (p.deployPos : Int) + p.wOver ≤ r.x
                ∨ v < 0 ∧ r.x ≤ (p.stowPos : Int) - p.wUnder then 0 else v)
        ∧ ((t.vTarget - r.vCmd).natAbs ≤ step → t.vCmd = t.vTarget)
        ∧ (step < (t.vTarget - r.vCmd).natAbs →
            t.vCmd = if r.vCmd < t.vTarget then r.vCmd + step else r.vCmd - step))
  ∧ (∀ r : Ramp,
      let p := r.params
      let t := r.drive
      let sign : Int → Int := fun v => if 0 < v then 1 else if v < 0 then -1 else 0
      let jogSign : Int := if r.vCmd ≠ 0 then sign r.vCmd else if r.vTarget ≠ 0 then sign r.vTarget
        else match r.dir with | .lower => 1 | .raise => -1 | .none => 0
      let sigma : Int := match r.state with
        | .lowering | .landing => 1 | .raising | .stowing => -1
        | .halting => r.haltSign | .jog => jogSign
        | .disabled | .stowedLocked | .starting | .landed | .locking | .halted | .fault => 0
      let e : Int := max (-32767) (min 32767 (r.vCmd - r.s))
      let i : Int := max (-(p.iLim : Int)) (min p.iLim (r.integrator + Int.tdiv (e * p.ki) 256))
      let demand : Int := Int.tdiv (r.vCmd * p.kff) 256 + Int.tdiv (e * p.kp) 256 + i
      let offset : Int := if 0 < demand then demand + p.f0 else if demand < 0 then demand - p.f0 else 0
      r.sigma = sigma
        ∧ (r.enter .halting).haltSign = (match r.state with
          | .lowering | .landing => 1 | .raising | .stowing => -1 | .jog => jogSign
          | .disabled | .stowedLocked | .starting | .landed | .locking | .halting | .halted | .fault =>
            r.haltSign)
        ∧ (r.state.isMotion = false → t = { r with buffered := .off })
        ∧ (r.state.isMotion = true →
          { t with buffered := r.buffered, integrator := r.integrator } = r
          ∧ t.integrator = i
          ∧ t.buffered.mag ≤ p.dMax
          ∧ (sigma = 1 → t.buffered
              = { mag := if 0 < offset then min offset.natAbs p.dMax else 0, out := .lower })
          ∧ (sigma = -1 → t.buffered
              = { mag := if offset < 0 then min offset.natAbs p.dMax else 0, out := .raise })))

/-- PERIOD_END: the land level is published and the next period begins; a DISABLED channel does no more; any
other forms S and closes with X_prev at X, its drive off outside the motion states and within D_max in
them (R93, R112, R119). Under a LAND_INPUT test the inverse of the level is written at the first two period ends
and the level at the third, which ends the test with PASS (R193). The clock moves to the period's end: log 2. The
order of the stages and of the steps: the estimate, the land level, the reference test, the monitors up to the
first that trips, the position transition, the permit when no transition was made (log 14), the lift monitor,
the profile, the drive; a trip leaves out the transition, the permit and the lift monitor (R93, R101). -/
def Obligations.PeriodEnds : Prop :=
  (∀ (s : State) (ch : Channel), s.node ≠ 63 → (∀ p, s.fc.test = some p → p.id ≠ .landInput ch) →
    let r := s.ramp ch
    let n := max s.now r.periodAt
    ∃ t : State, exec (.periodEnd ch) s = .next t.settled
      ∧ ((∀ p, s.fc.test = some p → p.id ≠ .overspeed ch) →
          RampOnly ch (({ s with now := n } : State).published ch.landEntry (bit r.land.level)) t)
      ∧ (t.ramp ch).periodAt = r.periodAt + 10 * Config.msec ∧ (t.ramp ch).params = r.params
      ∧ t.img.locals.at ch.landEntry = (if r.land.level then 1 else 0)
      ∧ (r.state = .disabled → t.ramp ch = { r with periodAt := r.periodAt + 10 * Config.msec }
          ∧ t.fc = s.fc ∧ t.bli = s.bli ∧ t.dls = s.dls ∧ t.cl = s.cl ∧ t.bd = s.bd)
      ∧ (r.state ≠ .disabled → (t.ramp ch).s = r.estimate n ∧ (t.ramp ch).xPrev = (t.ramp ch).x
          ∧ ((t.ramp ch).state.isMotion = false → (t.ramp ch).buffered = .off)
          ∧ ((t.ramp ch).state.isMotion = true → (t.ramp ch).buffered.mag ≤ r.params.dMax)))
  ∧ (∀ (s : State) (ch : Channel) (p : ProofTest), s.node ≠ 63 → s.fc.test = some p → p.id = .landInput ch →
    (s.ramp ch).state = .stowedLocked →
    let r := s.ramp ch
    let n := max s.now r.periodAt
    let written := if p.steps < 2 then !r.land.level else r.land.level
    (r.estimate n).natAbs ≤ r.params.vMax + r.params.vMargin →
    r.motionTime ≤ r.params.tMotion * 1000 →
    ∃ t : State, exec (.periodEnd ch) s = .next t.settled ∧ t.now = n
      ∧ t.img.locals.at ch.landEntry = (if written then 1 else 0)
      ∧ (t.ramp ch).state = .stowedLocked ∧ (t.ramp ch).land = r.land
      ∧ (p.steps < 2 → t.fc = { s.fc with test := some { p with steps := p.steps + 1 } })
      ∧ (2 ≤ p.steps → t.fc.test = none ∧ t.fc.last = some (.landInput ch, .pass)
          ∧ (HasRoom s → t.tells (s.noticeFrame 30 16 [p.id.code, p.arg]))))
  ∧ (∀ (s : State) (ch : Channel), s.node ≠ 63 → (s.ramp ch).state ≠ .disabled →
    let r := s.ramp ch
    let n := max s.now r.periodAt
    let estimated := ({ s with now := n } : State).setRamp ch { r with
      periodAt := r.periodAt + 10 * Config.msec, s := r.estimate n }
    let written := estimated.writeLand ch
    let referenced := written.setRamp ch (written.ramp ch).referenceTest
    let judged := referenced.monitors ch
    let moved := judged.1.positionStep ch
    let passed := if judged.2 then judged.1
      else (if moved.2 then moved.1 else moved.1.permitStep ch).liftStep ch
    let profiled := passed.profileStage ch
    let driven := profiled.setRamp ch (profiled.ramp ch).drive
    exec (.periodEnd ch) s = .next (State.settled
      (driven.setRamp ch { driven.ramp ch with xPrev := (driven.ramp ch).x })))
  ∧ (∀ (s : State) (ch : Channel),
    let speed := s.overspeedMonitor ch
    let stall := speed.1.stallMonitor ch
    let skips : Prop := (s.ramp ch).state = .disabled ∨ (s.ramp ch).state = .fault
    (skips → s.monitors ch = (s, false))
      ∧ (¬ skips → s.monitors ch
          = if speed.2 then speed else if stall.2 then stall else stall.1.motionMonitor ch))

/-- The position transitions made at a period end; and the period-end monitors, each run alone: OVERSPEED trips
at a count of 3, STALL at N_stall, and MOTION_TIMEOUT beyond T_motion; a trip is a FAULT with its cause, and
otherwise only the count changes (R94, R101, R103). Under an OVERSPEED test the monitor reads a speed beyond its
limit, and a trip ends the test with PASS and the count at 0; three period ends without one end it with FAIL
(R191, R192). That MOTION_TIMEOUT is tested in every state that counts or has counted: log 27. The reference test
(R97). The permit: asked in five states, false it halts the channel with PERMIT_LOST (R95). The lift monitor
(R101; of a count that an N_lift lowered by a swap has passed: log 41). The end of HALTING in HALTED, and of a
pending start in STARTING (R86, R96), the beacons' patterns formed at either entry: log 55. -/
def Obligations.PeriodEndChecks : Prop :=
  (∀ (s : State) (ch : Channel),
      let r := s.ramp ch
      let p := r.params
      let t := (s.positionStep ch).1.ramp ch
      let made := (s.positionStep ch).2
      let n : Bool → Nat := fun level => if level = true ∧ r.s.natAbs ≤ p.vStill then r.settle + 1 else 0
      (r.state = .lowering →
          (made = true ↔ (p.deployPos : Int) - r.x ≤ p.wLand)
            ∧ (made = true → t.state = .landing ∧ t.settle = 0))
        ∧ (r.state = .raising →
          (made = true ↔ r.x - (p.stowPos : Int) ≤ p.wStow)
            ∧ (made = true → t.state = .stowing ∧ t.settle = 0))
        ∧ (r.state = .landing →
          ((p.deployPos : Int) + p.wOver < r.x → made = true ∧ t.state = .fault ∧ t.cause = .overtravel)
          ∧ (r.x ≤ (p.deployPos : Int) + p.wOver →
              (p.nSettle ≤ n r.land.level → made = true ∧ t.state = .landed ∧ t.lift = 0)
              ∧ (n r.land.level < p.nSettle → made = false ∧ t = { r with settle := n r.land.level })))
        ∧ (r.state = .stowing →
          (r.x < (p.stowPos : Int) - p.wUnder → made = true ∧ t.state = .fault ∧ t.cause = .overtravel)
          ∧ ((p.stowPos : Int) - p.wUnder ≤ r.x →
              (p.nSettle ≤ n r.stow.level → made = true ∧ t.x = p.stowPos
                ∧ t.state = (if r.pinsIn.level then .stowedLocked else .locking))
              ∧ (n r.stow.level < p.nSettle → made = false ∧ t = { r with settle := n r.stow.level })))
        ∧ (r.state ∉ [.lowering, .landing, .raising, .stowing] → s.positionStep ch = (s, false)))
  ∧ (∀ (s : State) (ch : Channel),
      let r := s.ramp ch
      let p := r.params
      let fast := if p.vMax + p.vMargin < r.s.natAbs then r.overspeed + 1 else 0
      let stall := if r.state ∈ [.lowering, .landing, .raising, .stowing, .jog] ∧ p.vCreep ≤ r.vCmd.natAbs
        ∧ r.s = 0 then r.stall + 1 else 0
      let time := if r.state ∈ [.lowering, .landing, .raising, .stowing, .halting] then r.motionTime + 10
        else r.motionTime
      let trips : State × Bool → Cause → Flag → Prop := fun o c f =>
        o.2 = true ∧ (o.1.ramp ch).state = .fault ∧ (o.1.ramp ch).cause = c ∧ o.1.hasFlag f
          ∧ RampOnly ch s o.1
      ((∀ x, s.fc.test = some x → x.id ≠ .overspeed ch) →
          (3 ≤ fast → trips (s.overspeedMonitor ch) .overspeed (.ramp ch .overspeed))
          ∧ (fast < 3 → s.overspeedMonitor ch = (s.setRamp ch { r with overspeed := fast }, false)))
        ∧ (∀ x, s.fc.test = some x → x.id = .overspeed ch →
          let u := s.setRamp ch { r with overspeed := r.overspeed + 1 }
          let ended : TestResult → State := fun result => State.notice
            { s.setRamp ch { r with overspeed := 0 } with
              fc := { s.fc with test := none, last := some (.overspeed ch, result) } }
            30 result.code [x.id.code, x.arg]
          (3 ≤ r.overspeed + 1 → s.overspeedMonitor ch = (ended .pass, false))
          ∧ (r.overspeed + 1 < 3 → 3 ≤ x.steps + 1 → s.overspeedMonitor ch = (ended .fail, false))
          ∧ (r.overspeed + 1 < 3 → x.steps + 1 < 3 → s.overspeedMonitor ch
              = ({ u with fc := { s.fc with test := some { x with steps := x.steps + 1 } } }, false)))
        ∧ (r.state ∈ [.lowering, .landing, .raising, .stowing, .jog] → p.nStall ≤ stall →
            trips (s.stallMonitor ch) .stall (.ramp ch .stall))
        ∧ ((r.state ∉ [.lowering, .landing, .raising, .stowing, .jog] ∨ stall < p.nStall) →
            s.stallMonitor ch = (s.setRamp ch { r with stall := stall }, false))
        ∧ (p.tMotion * 1000 < time → trips (s.motionMonitor ch) .motionTimeout (.ramp ch .motionTimeout))
        ∧ (time ≤ p.tMotion * 1000 →
            s.motionMonitor ch = (s.setRamp ch { r with motionTime := time }, false)))
  ∧ (∀ r : Ramp, r.referenceTest = if r.referenced = false ∧ r.stow.level = true
        ∧ r.state ∈ [.stowedLocked, .landed, .halted, .fault, .stowing]
      then { r with referenced := true, x := r.params.stowPos } else r)
  ∧ (∀ (s : State) (ch : Channel),
      let r := s.ramp ch
      let asks : Byte → Prop := fun c =>
        r.state ∈ [.lowering, .landing] ∧ c = r.params.lowerPermit
          ∨ r.state ∈ [.raising, .stowing] ∧ c = r.params.raisePermit
          ∨ r.state = .jog ∧ c = (if r.dir = .raise then r.params.raisePermit else r.params.lowerPermit)
      let t := s.permitStep ch
      ((∀ c, ¬ asks c) → t = s)
        ∧ ∀ c, asks c →
          (s.condition c = true → t = s)
          ∧ (s.condition c = false → t = (s.enterRamp ch .halting).raiseFlag (.ramp ch .permitLost)
            ∧ RampOnly ch s t ∧ (t.ramp ch).state = .halting ∧ t.hasFlag (.ramp ch .permitLost)
            ∧ t.img.locals.at ch.stateEntry = 9 ∧ (t.ramp ch).dir = r.dir
            ∧ (t.ramp ch).haltSign = (if r.state ∈ [.lowering, .landing] then 1
                else if r.state ∈ [.raising, .stowing] then -1 else r.jogSign)
            ∧ (t.ramp ch).vCmd = r.vCmd ∧ (t.ramp ch).x = r.x ∧ (t.ramp ch).deadTimer = none))
  ∧ (∀ (s : State) (ch : Channel),
      let r := s.ramp ch
      let up := s.setRamp ch { r with lift := r.lift + 1 }
      (r.state ≠ .landed → s.liftStep ch = s)
        ∧ (r.state = .landed → r.land.level = true → s.liftStep ch = s.setRamp ch { r with lift := 0 })
        ∧ (r.state = .landed → r.land.level = false →
          (r.lift + 1 < r.params.nLift → s.liftStep ch = up)
          ∧ (r.lift + 1 = r.params.nLift → s.liftStep ch = up.raiseFlag (.ramp ch .lifted))
          ∧ (r.params.nLift ≤ r.lift → s.liftStep ch = s)))
  ∧ (∀ (s : State) (ch : Channel),
      let v := s.setRamp ch (s.ramp ch).profile
      let r := v.ramp ch
      let t := s.profileStage ch
      let still : Prop := r.state = .halting ∧ r.vCmd = 0
      (¬ still → t = v)
        ∧ (still → RampOnly ch v t ∧ (t.ramp ch).vCmd = 0 ∧ (t.ramp ch).integrator = 0
          ∧ (t.ramp ch).buffered = .off ∧ (t.ramp ch).active = .off ∧ (t.ramp ch).pendingStart = .none
          ∧ (r.pendingStart = .none → t = v.enterRamp ch .halted ∧ (t.ramp ch).state = .halted
            ∧ (t.ramp ch).dir = .none ∧ t.cl.calls.at ch.callEntry = none
            ∧ t.img.locals.at ch.stateEntry = 10)
          ∧ ∀ d, d ≠ .none → r.pendingStart = d → t = (v.enterRamp ch .halted).startRamp ch d
            ∧ (t.ramp ch).state = .starting ∧ (t.ramp ch).dir = d
            ∧ (t.ramp ch).pinOut = !r.pinsOut.level ∧ t.img.locals.at ch.stateEntry = 2
            ∧ ∃ c, t.cl.calls.at ch.callEntry = some c ∧ c.origin = .ramp ch))

/-- RECENT_TIMER_EXPIRY, PWM_PERIOD_START and PWM_CENTRE: the last edge is no longer recent, the buffered compare
becomes active, a conversion of 6 µs begins; nothing else changes. PRESSURE_CONVERSION_DONE: the sample is
kept; it counts when it exceeds P_max and clears the count otherwise, and the N_over-th enters FAULT with
cause OVERLOAD; in FAULT the count stays 0 (R102, R110, R120, R121, R123). Under an OVERLOAD test the monitor
reads 4,095, the sample kept is the converted one, and a trip ends the test with PASS, N_over + 1 samples
without one with FAIL, the count at 0 (R191, R192). That the clock moves to the event: log 2; that the pin shows
the sample: log 25. -/
def Obligations.DriveTimes : Prop :=
  (∀ (s : State) (ch : Channel), Settled s →
      let r := s.ramp ch
      (∀ due, r.recent = some due →
          exec (.recentTimerExpiry ch) s = .next
            (({ s with now := max s.now due } : State).setRamp ch { r with recent := none }))
        ∧ ∀ z, r.pwmZero = some z →
          exec (.pwmPeriodStart ch) s = .next
            (({ s with now := max s.now (z + 2 * r.params.pwmN) } : State).setRamp ch { r with
              pwmZero := some (z + 2 * r.params.pwmN), pwmCentred := false, active := r.buffered })
          ∧ (r.pwmCentred = false →
            let n := max s.now (z + r.params.pwmN)
            exec (.pwmCentre ch) s = .next (({ s with now := n } : State).setRamp ch { r with
              pwmCentred := true, conversion := some (n + 6 * Config.usec) })))
  ∧ (∀ (s : State) (ch : Channel) (x : BitVec 12) (due : Nat), Settled s →
      (s.ramp ch).conversion = some due → (∀ p, s.fc.test = some p → p.id ≠ .overload ch) →
      let r := s.ramp ch
      let u := (s.setChannelPins ch { s.pins.channels.get ch with pressure := x }).reach due
      let count := if r.params.pMax < x.toNat then r.overload + 1 else 0
      let out := exec (.pressureConversionDone ch x) s
      ((r.state = .disabled ∨ r.state = .fault) →
          out = .next (u.setRamp ch { r with conversion := none, lastSample := x, overload := 0 }))
        ∧ (r.state ≠ .disabled → r.state ≠ .fault → (count < r.params.nOver ∨ count = 0) →
          out = .next (u.setRamp ch { r with conversion := none, lastSample := x, overload := count }))
        ∧ (r.state ≠ .disabled → r.state ≠ .fault → r.params.nOver ≤ count → 0 < count →
          ∃ t : State, out = .next t.settled ∧ RampOnly ch u t ∧ (t.ramp ch).state = .fault
            ∧ (t.ramp ch).cause = .overload ∧ (t.ramp ch).lastSample = x ∧ (t.ramp ch).overload = 0
            ∧ t.hasFlag (.ramp ch .overload)))
  ∧ (∀ (s : State) (ch : Channel) (x : BitVec 12) (due : Nat) (p : ProofTest), s.node ≠ 63 →
      (s.ramp ch).conversion = some due → s.fc.test = some p → p.id = .overload ch →
      (s.ramp ch).state ≠ .disabled → (s.ramp ch).state ≠ .fault →
      let r := s.ramp ch
      let u := (s.setChannelPins ch { s.pins.channels.get ch with pressure := x }).reach due
      let count := if r.params.pMax < 4095 then r.overload + 1 else 0
      let kept : Nat → State := fun n =>
        u.setRamp ch { r with conversion := none, lastSample := x, overload := n }
      let ended : TestResult → State := fun result => State.notice { kept 0 with
        fc := { s.fc with test := none, last := some (.overload ch, result) } }
        30 result.code [p.id.code, p.arg]
      let becomes : State → Prop := fun t => exec (.pressureConversionDone ch x) s = .next t.settled
      (r.params.nOver ≤ count → 0 < count → becomes (ended .pass))
        ∧ ((count < r.params.nOver ∨ count = 0) → r.params.nOver + 1 ≤ p.steps + 1 → becomes (ended .fail))
        ∧ ((count < r.params.nOver ∨ count = 0) → p.steps + 1 < r.params.nOver + 1 →
          becomes { kept count with fc := { s.fc with test := some { p with steps := p.steps + 1 } } }))

/-- At any time at most one valve output of a channel is on, and one only in a motion state; a pin drive is
on out of the frame only in STARTING and into it only in LOCKING (R80, R120, R121). When an output is on: the valve
output that the active compare names, for the first M and the last M ticks of each period of 2N; the pin drives
as the record holds them; DL_DIR at transmit while SENDING, and both transmitters idle high when nothing is sent
(log 22); a beacon in a lit step for the first n of the 31 parts of each cycle of 500 µs (cycles counted from the
step's start: log 23); ALARM_N while the alarm state is active or the start-up held (R6, R8, R11, R80, R90, R92,
R120, R164, R189). -/
def Obligations.OutputsOnlyInMotion : Prop :=
  (∀ (s : State) (ch : Channel), RampsOk s →
    ¬ (s.valve ch .lower = true ∧ s.valve ch .raise = true)
      ∧ (∀ d, s.valve ch d = true → (s.ramp ch).state.isMotion = true)
      ∧ (s.pinDriveOut ch = true → (s.ramp ch).state = .starting)
      ∧ (s.pinDriveIn ch = true → (s.ramp ch).state = .locking))
  ∧ (∀ (s : State) (ch : Channel) (d : Dir), d ≠ .none →
    let r := s.ramp ch
    (r.pwmZero = none → s.valve ch d = false)
      ∧ (∀ z, r.pwmZero = some z → (s.valve ch d = true ↔ r.active.out = d ∧ 0 < r.active.mag
          ∧ (s.now - z < r.active.mag ∨ 2 * r.params.pwmN - r.active.mag ≤ s.now - z)))
      ∧ s.pinDriveOut ch = r.pinOut ∧ s.pinDriveIn ch = r.pinIn)
  ∧ (∀ s : State,
    (s.dlDir = true ↔ ∃ f stop, s.dls.line = .sending f stop)
      ∧ (s.dlDir = false → s.dlTx = true) ∧ (s.bli.tx = none → s.blTx = true)
      ∧ (∀ f stop, s.dls.line = .sending f stop → s.dlTx = lineLevel f stop s.now)
      ∧ (∀ x, s.bli.tx = some x → s.blTx = lineLevel x.frame x.lastStop s.now)
      ∧ (s.alarmActive = true ↔ s.node = 63 ∨ s.fc.alarm = true))
  ∧ (∀ (f : Frame) (stop now : Nat) (k : Nat) (b : Byte) (j : Nat), f.bytes[k]? = some b → j < 11 →
    let start := stop - (7 + f.payload.length) * (22 * Config.usec)
    (now < start ∨ start + (7 + f.payload.length) * (22 * Config.usec) ≤ now →
        lineLevel f stop now = true)
      ∧ (start + (11 * k + j) * 8 ≤ now → now < start + (11 * k + j + 1) * 8 → lineLevel f stop now
          = if j = 0 then false else if j ≤ 8 then b.getLsbD (j - 1)
            else if j = 9 then evenParity b else true))
  ∧ (∀ (s : State) (b : Fin 8),
    let x := s.bd.shown.at b
    (x.timer = none → s.beaconOn b = false)
      ∧ ∀ due, x.timer = some due →
        let start := due - (s.bd.pattern x.pattern).length * (50 * Config.msec)
        (s.beaconOn b = true ↔ (s.now - start) % 2000 * 31 < x.level * 2000)
          ∧ (x.level = 31 → s.beaconOn b = true) ∧ (x.level = 0 → s.beaconOn b = false))

/-! ### Door groups -/

/-- CLOSE: refused to an undefined group; a normal close is DONE when closed or closing, refused on CORRUPT or
on its permit, else ACCEPTED with the group in WARNING, its steps begun anew and its call placed; an
emergency close sets the mark and warns or closes without a permit (R132, R133, R135). One advance of the
issues when OPENING is ended: log 20; the step places outside the door list begun anew with the others, their
issues advanced too: log 50; an emergency close in WARNING: log 31. -/
def Obligations.CloseJudged : Prop :=
  ∀ (s : State) (g : Fin 4) (n : NodeNo), Settled s → HasRoom s →
    let q : Request := { source := n, payload := [] }
    let o := groupObject g
    let r := s.group g
    let out := exec (.close g q) s
    let emergency : Prop := r.defn.fire = true ∧ s.dcc.deck = .emergency
    let u := s.replied q o .accepted
    let taken : State → Prop := fun t => out = .next t.settled ∧ GroupOnly g u t ∧ t.now = s.now
      ∧ t.img.locals.at (groupEntry g) = (t.group g).state.code
      ∧ (t.group g).defn = r.defn ∧ (s.bli.queue.length ≤ 24 → t.tells (s.replyFrame n o .accepted []))
    (r.defn.doors = [] → out = .next (s.refusedWith q o .state))
      ∧ (r.defn.doors ≠ [] → ¬ emergency →
        (r.state ∈ [.closed, .warning, .waitPermit, .closing] → out = .next (s.replied q o .done))
        ∧ (r.state ∈ [.idle, .stopped, .incomplete, .opening] →
          ((s.sec 4).status = .corrupt → out = .next (s.refusedWith q o .corrupt))
          ∧ ((s.sec 4).status ≠ .corrupt → s.condition r.defn.closePermit = false →
              out = .next (s.refusedWith q o (.conditionFalse r.defn.closePermit)))
          ∧ ((s.sec 4).status ≠ .corrupt → s.condition r.defn.closePermit = true →
              ∃ t, taken t ∧ (t.group g).state = .warning ∧ (t.group g).mark = r.mark
                ∧ (t.group g).ready = false ∧ (t.group g).warnTimer = none
                ∧ (t.group g).spacing = none
                ∧ (∀ k, (t.group g).steps.at k = { r.steps.at k with
                    state := .waiting, cause := .none, attempts := 0, travel := none, retry := none
                    pendingCmd := none, issue := (r.steps.at k).issue + 1 })
                ∧ ∃ x, t.cl.calls.at (groupCallEntry g) = some x ∧ x.origin = .group g
                  ∧ x.zones = r.defn.zones ∧ x.message = r.defn.message ∧ x.priority = .safety
                  ∧ x.reps = 0 ∧ x.pattern = r.defn.pattern)))
      ∧ (r.defn.doors ≠ [] → emergency →
        (r.state = .closed → out = .next (s.replied q o .done))
        ∧ (r.state = .closing →
            let v := s.replied q o (if r.mark then .done else .accepted)
            out = .next (v.setGroup g { r with mark := true }))
        ∧ (r.state = .waitPermit → ∃ t, taken t ∧ (t.group g).state = .closing ∧ (t.group g).mark = true)
        ∧ (r.state = .warning →
            let v := s.replied q o (if r.mark then .done else .accepted)
            ∃ t : State, out = .next t.settled ∧ GroupOnly g v t ∧ t.now = s.now
              ∧ ((t.group g).state = .warning ∨ (t.group g).state = .closing) ∧ (t.group g).mark = true)
        ∧ (r.state ∈ [.idle, .stopped, .incomplete, .opening] →
            ∃ t, taken t ∧ ((t.group g).state = .warning ∨ (t.group g).state = .closing)
              ∧ (t.group g).mark = true))

/-- OPEN: refused to an undefined group, DONE while opening, refused on the deck condition of its attributes,
on CORRUPT or on its permit, else ACCEPTED with the group in OPENING and its first step commanded. STOP:
DONE, and a group in a sequence is STOPPED with nothing in travel (R132, R140, R141, R142). The steps begun
anew before the notice: log 20; the step places outside the door list with them: log 50. -/
def Obligations.OpenAndStopJudged : Prop :=
  ∀ (s : State) (g : Fin 4) (n : NodeNo), Settled s → HasRoom s →
    let q : Request := { source := n, payload := [] }
    let o := groupObject g
    let r := s.group g
    let kept : Prop := r.defn.sea = true ∧ s.dcc.deck = .sea ∨ r.defn.fire = true ∧ s.dcc.deck = .emergency
    let judged : Prop := r.defn.doors ≠ [] ∧ r.state ≠ .opening
    let out := exec (.openDoors g q) s
    (r.defn.doors = [] → out = .next (s.refusedWith q o .state))
      ∧ (r.defn.doors ≠ [] → r.state = .opening → out = .next (s.replied q o .done))
      ∧ (judged → kept → out = .next (s.refusedWith q o .deckCondition))
      ∧ (judged → ¬ kept → (s.sec 4).status = .corrupt → out = .next (s.refusedWith q o .corrupt))
      ∧ (judged → ¬ kept → (s.sec 4).status ≠ .corrupt → s.condition r.defn.openPermit = false →
          out = .next (s.refusedWith q o (.conditionFalse r.defn.openPermit)))
      ∧ (judged → ¬ kept → (s.sec 4).status ≠ .corrupt → s.condition r.defn.openPermit = true →
        ∃ t : State, out = .next t.settled ∧ GroupOnly g (s.replied q o .accepted) t ∧ t.now = s.now
          ∧ (t.group g).state = .opening ∧ (t.group g).mark = false
          ∧ t.img.locals.at (groupEntry g) = 6
          ∧ (r.state = .warning → t.cl.calls.at (groupCallEntry g) = none)
          ∧ ((t.group g).steps.at 0).state = .commanded
          ∧ (∀ k, k ≠ 0 → ((t.group g).steps.at k).state = .waiting)
          ∧ (∀ k, ((t.group g).steps.at k).attempts = 0 ∧ ((t.group g).steps.at k).travel = none)
          ∧ (s.bli.queue.length ≤ 24 → t.tells (s.replyFrame n o .accepted []))
          ∧ (r.state ≠ .warning → s.dls.hasPlace false = true → ∀ d, r.defn.doors.head? = some d →
              ∃ x ∈ t.dls.normal, x.urgent = false ∧ x.frame.dest = (s.img.defs.at d).node
                ∧ x.frame.object = (s.img.defs.at d).object ∧ x.frame.cls = .command
                ∧ x.frame.verb = 2 ∧ x.frame.payload = []))
      ∧ let stop := exec (.groupStop g q) s
        let u := s.replied q o .done
        (r.state ∈ [.idle, .closed, .incomplete, .stopped] → stop = .next u)
        ∧ (r.state ∈ [.warning, .waitPermit, .closing, .opening] →
          ∃ t : State, stop = .next t.settled ∧ GroupOnly g u t ∧ t.now = s.now
            ∧ (t.group g).state = .stopped ∧ (t.group g).mark = false
            ∧ (t.group g).warnTimer = none ∧ (t.group g).spacing = none
            ∧ t.img.locals.at (groupEntry g) = 7
            ∧ (r.state = .warning → t.cl.calls.at (groupCallEntry g) = none)
            ∧ ((r.state = .closing ∨ r.state = .opening) → ∀ k, (r.steps.at k).state = .commanded →
                ((t.group g).steps.at k).travel = none ∧ ((t.group g).steps.at k).retry = none
                  ∧ ((t.group g).steps.at k).issue = (r.steps.at k).issue + 1))

/-- The group timers: the warning ends in CLOSING under the mark, else by the close permit in CLOSING or
WAIT_PERMIT; spacing commands the first WAITING step; travel fails a COMMANDED step with DOOR_FAILED, and
the last decided step ends the sequence; a retry builds a new CLOSE (R133, R135, R136, R137, R138). The clock
moves to the timer's end: log 2. An image-change event: WAIT_PERMIT asks its permit, CLOSING and OPENING decide
the step by the value, CLOSED takes a value other than 3 and 255 as a breach (R134, R137, R139, R141). A step
decided, the end of the sequence, and the entry to a state (R128, R129, R138, R141). A frame's start: a current
one counts the attempt and starts travel, and the first attempt the spacing; a stale CLOSE in IDLE or STOPPED is
followed by a STOP to the same door; its outcome: only a current one decides (R130, R131, R136, R137, R141; of an
image entry that is no door any more the STOP goes to the CLOSE's own node and object: log 19). When a warning
time begins to count: at the report that the group's own call is ready, or, under the mark, that entry 6 is ready
or removed, once, or at the start of a warning under the mark with entry 6 ready; a time of 0 ends the warning at
once (R133, R135; entry 6 is told to the groups in the order 0 to 3, and a report that no longer holds when it is
handled counts for nothing: log 7). -/
def Obligations.GroupTimersExpire : Prop :=
  (∀ (s : State) (g : Fin 4) (k : Fin 8) (due : Nat), s.node ≠ 63 →
    let r := s.group g
    let u : State := { s with now := max s.now due }
    let x := r.steps.at k
    let own : State → Instr → Prop := fun t c => exec c s = .next t.settled ∧ GroupOnly g u t
      ∧ (t.group g).defn = r.defn
    (r.warnTimer = some due → r.state = .warning →
      ∃ t, own t (.groupWarningExpiry g) ∧ (t.group g).warnTimer = none
        ∧ (r.mark = true → (t.group g).state = .closing ∧ (t.group g).mark = true)
        ∧ (r.mark = false →
          let v := (u.setGroup g { r with warnTimer := none }).removeEntry (groupCallEntry g)
          (t.group g).state = if v.condition r.defn.closePermit then .closing else .waitPermit))
      ∧ (r.spacing = some due → (r.state = .closing ∨ r.state = .opening) →
        ∃ t, own t (.spacingExpiry g) ∧ (t.group g).spacing = none ∧ (t.group g).state = r.state
          ∧ (k.val < r.defn.doors.length → x.state = .waiting →
              (∀ j, j < k → (r.steps.at j).state ≠ .waiting) →
              ((t.group g).steps.at k).state = .commanded
                ∧ ((t.group g).steps.at k).issue = x.issue + 1
                ∧ ∀ j, j ≠ k → (t.group g).steps.at j = r.steps.at j))
      ∧ (x.travel = some due → x.state = .commanded → (r.state = .closing ∨ r.state = .opening) →
        k.val < r.defn.doors.length →
        ∃ t, own t (.travelExpiry g k) ∧ t.hasFlag .doorFailed
          ∧ ((t.group g).steps.at k) = { x with state := .failed, cause := .timeout, travel := none
                                                retry := none, pendingCmd := none, issue := x.issue + 1 }
          ∧ ((∀ j : Fin 8, j.val < r.defn.doors.length → j ≠ k →
                (r.steps.at j).state = .confirmed ∨ (r.steps.at j).state = .failed) →
              (r.state = .closing → (t.group g).state = .incomplete ∧ t.hasFlag .groupIncomplete)
              ∧ (r.state = .opening → (t.group g).state = .idle))
          ∧ ((∃ j : Fin 8, j.val < r.defn.doors.length ∧ j ≠ k
                ∧ ((r.steps.at j).state = .waiting ∨ (r.steps.at j).state = .commanded)) →
              (t.group g).state = r.state))
      ∧ (x.retry = some due → x.state = .commanded → r.state = .closing →
        k.val < r.defn.doors.length →
        ∃ t, own t (.retryExpiry g k) ∧ (t.group g).state = .closing
          ∧ ((t.group g).steps.at k).retry = none ∧ ((t.group g).steps.at k).issue = x.issue + 1
          ∧ ((t.group g).steps.at k).state = .commanded ∧ ((t.group g).steps.at k).attempts = x.attempts))
  ∧ (∀ (s : State) (g : Fin 4) (i : Nat) (v : Byte),
    let r := s.group g
    let t := s.groupImageChange g i v
    let door : Fin 8 → Prop := fun k => ∃ d, r.defn.doors[k.val]? = some d ∧ 32 + d.val = i
    let found : Fin 8 → Prop := fun k => door k ∧ ∀ j, j < k → ¬ door j
    (r.state = .waitPermit → t = if s.condition r.defn.closePermit then s.enterClosing g else s)
      ∧ (r.state ∈ [.idle, .warning, .incomplete, .stopped] → t = s)
      ∧ (r.state ≠ .waitPermit → (∀ k, ¬ door k) → t = s)
      ∧ ∀ k, found k →
        let x := r.steps.at k
        let commanded := x.state = .commanded
        ((r.state = .closing ∨ r.state = .opening) → ¬ commanded → t = s)
        ∧ (r.state = .opening → commanded → t = if v = 1 then s.confirmStep g k else s)
        ∧ (r.state = .closed → t = if v = 3 ∨ v = 255 then s
            else (s.raiseFlag .doorBreach).enterGroup g .incomplete (BitVec.ofNat 8 k.val))
        ∧ (r.state = .closing → commanded →
          (v = 3 → t = s.confirmStep g k) ∧ (v = 8 → t = s.failStep g k .localControl)
          ∧ (v = 7 → t = s.failStep g k .fault)
          ∧ ((v = 5 ∨ v = 6) →
            (x.travel = none → t = s)
            ∧ (x.travel ≠ none → x.attempts < 3 → t = s.setStep g k { x with
                travel := none, retry := some (s.now + r.defn.tRetry * Config.second) })
            ∧ (x.travel ≠ none → 3 ≤ x.attempts → t = s.failStep g k .obstructed))
          ∧ (v ∉ [3, 5, 6, 7, 8] → t = s)))
  ∧ (∀ (s : State) (g : Fin 4) (k : Fin 8) (c : StepCause) (st : GroupState) (breach : Byte),
    let r := s.group g
    let x := r.steps.at k
    let done : StepState → StepCause → Step := fun st c =>
      { x with state := st, cause := c, issue := x.issue + 1, pendingCmd := none, travel := none, retry := none }
    let within : Fin 8 → Prop := fun j => j.val < r.defn.doors.length
    let decided : Prop := ∀ j, within j →
      (r.steps.at j).state = .confirmed ∨ (r.steps.at j).state = .failed
    let failed : Prop := ∃ j, within j ∧ (r.steps.at j).state = .failed
    let count : StepState → Byte := fun a => BitVec.ofNat 8 ((List.finRange 8).filter fun j =>
      decide (j.val < r.defn.doors.length ∧ ((r.enter st).steps.at j).state = a)).length
    s.confirmStep g k = (s.setStep g k (done .confirmed .none)).endSequence g
      ∧ s.failStep g k c = ((s.setStep g k (done .failed c)).raiseFlag .doorFailed).endSequence g
      ∧ (decided → r.state = .closing →
        (¬ failed → s.endSequence g = s.enterGroup g .closed 255)
        ∧ (failed → s.endSequence g = (s.enterGroup g .incomplete 255).raiseFlag .groupIncomplete))
      ∧ (decided → r.state = .opening → s.endSequence g = s.enterGroup g .idle 255)
      ∧ ((¬ decided ∨ r.state ≠ .closing ∧ r.state ≠ .opening) → s.endSequence g = s)
      ∧ s.enterGroup g st breach = State.notice
        (State.writeLocal (s.setGroup g (r.enter st)) (groupEntry g) st.code) (groupObject g) st.code
        [r.state.code, count .confirmed, count .failed, breach]
      ∧ r.enter st = { r with
          state := st
          mark := r.mark && (st == .warning || st == .waitPermit || st == .closing)
          ready := false, warnTimer := none, spacing := none, steps := (r.enter st).steps }
      ∧ (r.enter st).steps.at k = (if (r.state = .closing ∨ r.state = .opening) ∧ x.state = .commanded
          then { x with issue := x.issue + 1, pendingCmd := none, travel := none, retry := none } else x))
  ∧ (∀ (s : State) (g : Fin 4) (k : Fin 8) (d : Fin 96), (s.group g).defn.doors[k.val]? = some d →
    let r := s.group g
    let o := s.img.defs.at d
    let frame : DoorCmd → Byte → Bool → DeckRec := fun cmd issue urgent =>
      { frame := { dest := o.node, urgent := false, src := s.node, cls := .command, object := o.object
                   verb := (match cmd with | .close => 1 | .openDoor => 2 | .stop => 3), payload := [] }
        urgent := urgent, cond := none, origin := .door g k issue cmd d }
    (∀ cmd, r.state = .closing ∧ cmd = .close ∨ r.state = .opening ∧ cmd = .openDoor →
        (r.steps.at k).state = .waiting → (∀ j, j < k → (r.steps.at j).state ≠ .waiting) →
        s.commandNext g
          = (s.setStep g k { r.steps.at k with state := .commanded }).buildDoor g k cmd)
      ∧ (∀ cmd,
        let x := r.steps.at k
        let q := frame cmd (x.issue + 1) r.mark
        s.buildDoor g k cmd = if s.dls.hasPlace r.mark
          then { s.setStep g k { x with issue := x.issue + 1 } with dls := s.dls.accept q }
          else s.setStep g k { x with issue := x.issue + 1, pendingCmd := some q })
      ∧ (let x := r.steps.at k
         let q := frame .stop x.issue true
         s.buildStop g k = if s.dls.hasPlace true then { s with dls := s.dls.accept q }
          else if x.pendingStop = none then s.setStep g k { x with pendingStop := some q } else s))
  ∧ (∀ (s : State) (g : Fin 4) (k : Fin 8) (d : Fin 96) (node : NodeNo) (object : Byte),
    let x := (s.group g).steps.at k
    let q : DeckRec := {
      frame := { dest := node, urgent := false, src := s.node, cls := .command, object := object, verb := 3
                 payload := [] }
      urgent := true, cond := none, origin := .door g k x.issue .stop d }
    s.buildStopTo g k d (node, object) = if s.dls.hasPlace true then { s with dls := s.dls.accept q }
      else if x.pendingStop = none then s.setStep g k { x with pendingStop := some q } else s)
  ∧ (∀ (s : State) (g : Fin 4) (k : Fin 8) (issue : Byte) (cmd : DoorCmd) (d : Fin 96) (f : Frame)
      (o : Outcome),
    let r := s.group g
    let x := r.steps.at k
    let started := s.doorFrameStarted g k issue cmd d f
    let told := s.doorOutcome g k issue cmd o
    let gone := s.setStep g k { x with
      attempts := x.attempts + 1, travel := some (s.now + r.defn.tTravel * Config.second) }
    let first : Prop := x.attempts = 0 ∧ (r.state = .closing ∨ r.state = .opening)
    let entry : Option Byte := (r.defn.doors[k.val]?).map fun d => (s.img.remotes.at d).value
    let again : StepCause → State := fun c =>
      if x.travel = none then s
      else if x.attempts < 3 then s.setStep g k { x with
        travel := none, retry := some (s.now + r.defn.tRetry * Config.second) }
      else s.failStep g k c
    let judged : Prop := cmd ≠ .stop ∧ issue = x.issue ∧ x.state = .commanded
    (cmd = .stop → started = s)
      ∧ (cmd ≠ .stop → issue = x.issue →
        (¬ first → started = gone)
        ∧ (first → r.defn.tSpace = 0 → started = gone.commandNext g)
        ∧ (first → r.defn.tSpace ≠ 0 → started = gone.setGroup g { gone.group g with
            spacing := some (s.now + r.defn.tSpace * Config.second) }))
      ∧ (cmd ≠ .stop → issue ≠ x.issue →
        ((cmd = .close ∧ (r.state = .idle ∨ r.state = .stopped)) → started = s.buildStopTo g k d
          (if (s.img.defs.at d).kind = .door then ((s.img.defs.at d).node, (s.img.defs.at d).object)
            else (f.dest, f.object)))
        ∧ (¬ (cmd = .close ∧ (r.state = .idle ∨ r.state = .stopped)) → started = s))
      ∧ ((¬ judged ∨ r.state ≠ .closing ∧ r.state ≠ .opening) → told = s)
      ∧ (judged → r.state = .closing →
        (o = .accepted → told = if entry = some 3 then s.confirmStep g k else s)
        ∧ (o = .rejected → told = again .rejected) ∧ (o = .noAnswer → told = again .noAnswer))
      ∧ (judged → r.state = .opening →
        (o = .accepted → told = if entry = some 1 then s.confirmStep g k else s)
        ∧ (o = .rejected → told = s.failStep g k .rejected)
        ∧ (o = .noAnswer → told = s.failStep g k .noAnswer)))
  ∧ (∀ (s : State) (g : Fin 4),
    let r := s.group g
    let readyAt : Fin 16 → Prop := fun e => ∃ c, s.cl.calls.at e = some c ∧ c.ready ≠ none
    let waits : Bool → Prop := fun mark => r.state = .warning ∧ r.mark = mark ∧ r.ready = false
    let time := if r.mark then r.defn.tEwarn else r.defn.tWarn
    let all : State := ([0, 1, 2, 3] : List (Fin 4)).foldl State.emergencyCallMoved s
    let own := s.removeEntry (groupCallEntry g)
    let cleared := own.setGroup g { own.group g with ready := false, warnTimer := none }
    let told := s.handle (.callReady (groupCallEntry g))
    (readyAt (groupCallEntry g) → waits false → told = s.beginCount g)
      ∧ (¬ readyAt (groupCallEntry g) ∨ ¬ waits false → told = s)
      ∧ (readyAt 6 → s.handle (.callReady 6) = all) ∧ (¬ readyAt 6 → s.handle (.callReady 6) = s)
      ∧ (s.cl.calls.at 6 = none → s.handle .emergencyCallRemoved = all)
      ∧ (s.cl.calls.at 6 ≠ none → s.handle .emergencyCallRemoved = s)
      ∧ (waits true → s.emergencyCallMoved g = s.beginCount g)
      ∧ (¬ waits true → s.emergencyCallMoved g = s)
      ∧ (time ≠ 0 → s.beginCount g = s.setGroup g { r with
          ready := true, warnTimer := some (s.now + time * Config.second) })
      ∧ (time = 0 → s.beginCount g = (s.setGroup g { r with ready := true, warnTimer := none }).endWarning g)
      ∧ (r.mark = true → s.endWarning g = s.enterClosing g)
      ∧ (r.mark = false → s.endWarning g
          = if own.condition r.defn.closePermit then own.enterClosing g else own.enterGroup g .waitPermit)
      ∧ s.enterClosing g = (s.enterGroup g .closing).commandNext g
      ∧ s.warnUnderMark g = (if cleared.emergencyReady then cleared.beginCount g else cleared)
      ∧ (cleared.emergencyReady = true ↔ ∃ c, cleared.cl.calls.at 6 = some c ∧ c.ready ≠ none))

/-! ### Calls and beacons -/

/-- PLACE of good form refreshes the same call with DONE, or takes the lowest free general entry with
ACCEPTED, or evicts the general call of lowest priority, or is answered FULL; CANCEL removes the source's
calls of a message (R149, R150, R151). A refresh: priority, repetitions and pattern replaced, ready time
and marks begun again, the wait timer started anew, the order kept, a PLAY for each zone owned before and
after (R149); placing and removing (R147, R150, R152). Every other entry keeps what it was placed with,
whatever the recomputes do with the marks, and only a finite call is removed by them (R152, R157). A zone's
owner and the evicted entry (R150, R152); a zone at a recompute, its CUT and its PLAY (R152, R153, R154);
entries 12 to 23, readiness, and the DONE marks that follow (R152, R156, R157). The model's choices: the order of
the zones, log 43; one forming of the patterns, after the last recompute, log 44; the reply ACCEPTED before
CALL_EVICTED is raised, log 10; the entries told ready in the order 0 to 15, log 51. -/
def Obligations.PlaceAndCancelJudged : Prop :=
  (∀ (s : State) (n : NodeNo) (z1 z0 msg pri reps pat : Byte), Settled s → HasRoom s →
    let q : Request := { source := n, payload := [z1, z0, msg, pri, reps, pat] }
    let out := exec (.place q) s
    let good : Prop := 1 ≤ word16 z1 z0 ∧ word16 z1 z0 ≤ 4095 ∧ msg.toNat ≤ 63 ∧ pri.toNat ≤ 3
      ∧ reps.toNat ≤ 15 ∧ pat.toNat ≤ 8
    let set := zoneSetOf (word16 z1 z0)
    let same : Fin 16 → Prop := fun e => 7 ≤ e.val ∧ ∃ c, s.cl.calls.at e = some c
      ∧ c.origin = .bridge n ∧ c.zones = set ∧ c.message = msg
    let free : Fin 16 → Prop := fun e => 7 ≤ e.val ∧ s.cl.calls.at e = none
    let u : Result → State := fun c => s.replied q 16 c
    let becomes : State → Prop := fun t => out = .next t.settled
    (¬ good → out = .next (u .badRequest))
      ∧ (good → ∀ p : Priority, p.code = pri.toNat →
        let wait := (if s.settings.tWarnwait = 0 then 5 else s.settings.tWarnwait) * Config.second
        let call : Call := {
          origin := .bridge n, zones := set, message := msg, priority := p, reps := reps.toNat
          pattern := pat.toNat, ready := none, wait := some (s.now + wait)
          marks := Tab.make fun z => if set.getLsbD z.val then .pending false else .none }
        (∀ e, same e → (∀ k, k < e → ¬ same k) →
          becomes ((u .done).refreshCall e ⟨set, msg, p, reps.toNat, pat.toNat⟩))
        ∧ ((∀ k, ¬ same k) → ∀ e, free e → (∀ k, k < e → ¬ free k) →
          becomes ((u .accepted).placeEntry e call))
        ∧ ((∀ k, ¬ same k) → (∀ k, ¬ free k) → s.victim = none → out = .next (u .full))
        ∧ ((∀ k, ¬ same k) → (∀ k, ¬ free k) → ∀ e v, s.victim = some (e, v) →
          (v.code ≤ p.code → out = .next (u .full))
          ∧ (p.code < v.code → becomes (((u .accepted).raiseFlag .callEvicted).placeEntry e call))))
      ∧ (msg.toNat ≤ 63 →
        let cq : Request := { source := n, payload := [msg] }
        let mine : Fin 16 → Bool := fun e => decide (7 ≤ e.val) && ((s.cl.calls.at e).map fun c =>
          c.origin == .bridge n && c.message == msg).getD false
        let t := (s.replied cq 16 .done).removeEntries ((List.finRange 16).filter mine)
        exec (.cancel cq) s = .next t.settled ∧ t.fc = s.fc ∧ ∀ e, mine e = true → t.cl.calls.at e = none))
  ∧ (∀ (s : State) (e : Fin 16) (p : PlaceReq) (c : Call), s.cl.calls.at e = some c →
    let wait := (if s.settings.tWarnwait = 0 then 5 else s.settings.tWarnwait) * Config.second
    let fresh : Call := { c with
      priority := p.priority, reps := p.reps, pattern := p.pattern, ready := none
      wait := some (s.now + wait)
      marks := Tab.make fun z => if c.zones.getLsbD z.val then .pending false else .none }
    let u := s.setCall e (some fresh)
    let kept := (List.finRange 12).filter fun z =>
      decide ((s.cl.zones.at z).owner = some e ∧ u.cl.choose z = some e)
    let t := s.refreshCall e p
    t = (kept.foldl State.playOwner u).reallocate s.cl []
      ∧ CallsOnly s t ∧ t.fc = s.fc ∧ t.bli = s.bli
      ∧ (∀ x, t.cl.calls.at e = some x → x = { fresh with marks := x.marks, ready := x.ready, wait := x.wait })
      ∧ (p.reps = 0 → t.cl.calls.at e ≠ none))
  ∧ (∀ (s : State) (e : Fin 16) (c : Call) (es : List (Fin 16)),
    let there := es.filter fun k => (s.cl.calls.at k).isSome
    let drop : List (Fin 16) → CallList := fun l => { s.cl with
      calls := Tab.make fun k => if k ∈ l then none else s.cl.calls.at k
      order := s.cl.order.filter fun k => !l.contains k }
    let old : List (Fin 16) := if (s.cl.calls.at e).isSome then [e] else []
    let placed : CallList := { drop old with
      calls := (drop old).calls.put e (some c), order := (drop old).order ++ [e] }
    s.placeEntry e c = State.reallocate { s with cl := placed } s.cl old
      ∧ s.removeEntries es
        = (let t := State.reallocate { s with cl := drop there } s.cl there
           if 6 ∈ there then { t with agenda := t.agenda ++ [.emergencyCallRemoved] } else t)
      ∧ (∀ x, (s.placeEntry e c).cl.calls.at e = some x →
          x = { c with marks := x.marks, ready := x.ready, wait := x.wait })
      ∧ (c.reps = 0 → (s.placeEntry e c).cl.calls.at e ≠ none))
  ∧ (∀ (s : State) (before : CallList) (gone : List (Fin 16)),
    let t := s.reallocate before gone
    let zones : List (Fin 12) := [0, 1, 2, 3, 4, 5, 6, 7, 8, 9, 10, 11]
    let finished : List (Fin 16) := (List.finRange 16).filter fun e =>
      ((s.cl.calls.at e).map fun c => c.reps != 0 && (List.finRange 12).all fun z =>
        c.marks.at z == .none || c.marks.at z == .done).getD false
    let follow : Prop := finished ≠ [] ∨ ∃ z e c, s.ownerCall z = some (e, c) ∧ c.marks.at z = .done
    CallsOnly s t ∧ t.fc = s.fc ∧ t.bli = s.bli
      ∧ (∀ k x, t.cl.calls.at k = some x → ∃ c, s.cl.calls.at k = some c
          ∧ x = { c with marks := x.marks, ready := x.ready, wait := x.wait })
      ∧ (∀ k c, s.cl.calls.at k = some c → c.reps = 0 → t.cl.calls.at k ≠ none)
      ∧ t = (State.handleDone 193 (s.recompute before gone)).formBeacons
      ∧ s.recompute before gone
        = ((zones.foldl (State.recomputeZone before gone) s).writeOwners).testReady
      ∧ (∀ n, (¬ follow → State.handleDone (n + 1) s = s)
          ∧ (follow → State.handleDone (n + 1) s = State.handleDone n
            (State.recompute { s with cl := s.cl.remove finished } s.cl finished))))
  ∧ (∀ (s : State) (z : Fin 12) (e : Fin 16),
    let wants : Fin 16 → Priority → Prop := fun k p => ∃ c, s.cl.calls.at k = some c ∧ c.priority = p
      ∧ ((∃ w, c.marks.at z = .pending w) ∨ ∃ w, c.marks.at z = .playing w)
    let general : Fin 16 → Priority → Prop := fun k p => 7 ≤ k.val
      ∧ ∃ c, s.cl.calls.at k = some c ∧ c.priority = p
    (s.cl.choose z = none ↔ ∀ k ∈ s.cl.order, ∀ p, ¬ wants k p)
      ∧ (s.cl.choose z = some e ↔ ∃ a b p, s.cl.order = a ++ e :: b ∧ wants e p
          ∧ (∀ k ∈ a, ∀ x, wants k x → p.code < x.code) ∧ ∀ k ∈ b, ∀ x, wants k x → p.code ≤ x.code)
      ∧ (s.victim = none ↔ ∀ k ∈ s.cl.order, ∀ p, ¬ general k p)
      ∧ ∀ p, s.victim = some (e, p) ↔ ∃ a b, s.cl.order = a ++ e :: b ∧ general e p
          ∧ (∀ k ∈ a, ∀ x, general k x → x.code ≤ p.code) ∧ ∀ k ∈ b, ∀ x, general k x → x.code < p.code)
  ∧ (∀ (s : State) (before : CallList) (gone : List (Fin 16)) (z : Fin 12),
    let old := (before.zones.at z).owner
    let new := s.cl.choose z
    let removed : Prop := ∃ e, old = some e ∧ e ∈ gone
    let loser : Option Call := match old with
      | some e => if e ∈ gone then before.calls.at e else s.cl.calls.at e
      | none => none
    let t := s.recomputeZone before gone z
    let own : State → State := fun a => a.setZone z { a.cl.zones.at z with owner := new }
    (old = new → ¬ removed → t = s)
      ∧ ((old ≠ new ∨ removed) →
        ((∀ c, loser = some c → c.isPlaying z = false) → t = (own s).playOwner z)
        ∧ ∀ e c, old = some e → loser = some c → c.isPlaying z = true →
          let a := own (if e ∈ gone then s else s.setMark e z (.pending false))
          let cause := ((a.ownerCall z).map Prod.snd).getD c
          (a.zoneTarget z = none → t = a.playOwner z)
          ∧ ∀ node object, a.zoneTarget z = some (node, object) →
            t = (a.cutTo z node object (decide (cause.priority = .emergency))).playOwner z))
  ∧ (∀ (s : State) (z : Fin 12),
    let zn := s.cl.zones.at z
    let a := s.setZone z { zn with issue := zn.issue + 1 }
    (s.ownerCall z = none → s.playOwner z = a)
      ∧ (∀ e c, s.ownerCall z = some (e, c) →
        (s.zoneTarget z = none →
          s.playOwner z = a.setMark e z (if c.reps ≠ 0 then .done else .playing .accepted))
        ∧ ∀ node object, s.zoneTarget z = some (node, object) →
          let b := if c.marks.at z = .pending true then a.setMark e z (.pending false) else a
          let r : DeckRec := {
            frame := { dest := node, urgent := false, src := s.node, cls := .call, object := object, verb := 1
                       payload := [c.message, BitVec.ofNat 8 c.reps] }
            urgent := decide (c.priority = .emergency), cond := none, origin := .zone z (zn.issue + 1) true }
          let kept : Option DeckRec → State := fun p =>
            b.setZone z { zn with issue := zn.issue + 1, pendingPlay := p }
          s.playOwner z = if s.dls.hasPlace r.urgent then { kept none with dls := s.dls.accept r }
            else kept (some r))
      ∧ (∀ node object urgent,
        let r : DeckRec := {
          frame := { dest := node, urgent := false, src := s.node, cls := .call, object := object, verb := 2
                     payload := [] }
          urgent := urgent, cond := none, origin := .zone z zn.issue false }
        s.cutTo z node object urgent = if s.dls.hasPlace urgent then { s with dls := s.dls.accept r }
          else if zn.pendingCut = none then s.setZone z { zn with pendingCut := some r } else s)
      ∧ (∀ d : Fin 96, zn.index = 32 + d.val →
          s.zoneTarget z = some ((s.img.defs.at d).node, (s.img.defs.at d).object))
      ∧ ((zn.index < 32 ∨ 127 < zn.index) → s.zoneTarget z = none))
  ∧ (∀ s : State,
    let w := s.writeOwners
    let t := s.testReady
    let ready : Fin 16 → Call → Prop := fun e c => c.ready = none ∧ ∀ z : Fin 12,
      c.zones.getLsbD z.val = true → (s.cl.zones.at z).owner = some e ∨ c.marks.at z = .done
    (∀ z : Fin 12, w.img.locals.at ⟨12 + z.val, by omega⟩
        = ((s.ownerCall z).map fun x => BitVec.ofNat 8 x.2.priority.code).getD 255)
      ∧ (∀ i : Fin 32, i.val < 12 ∨ 23 < i.val → w.img.locals.at i = s.img.locals.at i)
      ∧ w = { s with img := { s.img with locals := w.img.locals }
                     agenda := s.agenda ++ ((List.finRange 12).filter fun z => decide
                        (w.img.locals.at ⟨12 + z.val, by omega⟩ ≠ s.img.locals.at ⟨12 + z.val, by omega⟩)).map
                        fun z => .imageChange ⟨12 + z.val, by omega⟩
                          (s.img.locals.at ⟨12 + z.val, by omega⟩) (w.img.locals.at ⟨12 + z.val, by omega⟩) }
      ∧ (∀ e, s.cl.calls.at e = none → t.cl.calls.at e = none)
      ∧ (∀ e c, s.cl.calls.at e = some c →
          (ready e c → t.cl.calls.at e = some { c with ready := some s.now, wait := none })
          ∧ (¬ ready e c → t.cl.calls.at e = some c))
      ∧ t = { s with cl := { s.cl with calls := t.cl.calls }
                     agenda := s.agenda ++ ((List.finRange 16).filter fun e => decide
                        (e.val ≤ 6 ∧ t.cl.calls.at e ≠ s.cl.calls.at e)).map .callReady })

/-- WAIT_TIMER_EXPIRY forces the ready time and raises WARN_DEGRADED, and tells a reserved origin;
BEACON_STEP_EXPIRY shows the next step, 15 going back to 0, lit at the beacon's intensity or at 31 in EMERGENCY;
nothing else changes (R156, R163, R164); the clock moves to the timer's end: log 2. The shown pattern of a
source, and its restart when it changes (R162). A zone frame's start: a current PLAY is PLAYING, a stale frame
puts the zone back to its owner's call, and a CUT follows a stale PLAY without an owner, or one to another node
to the stale frame's own destination, built before the owner's issue advances (R154, R155; that CUT's object and
urgency: log 21). Its outcome and the reports of the zone's entry, for a finite and a continuous call (R157,
R158), the zones of one entry in the order 0 to 11: log 7. One forming of the patterns after the last recompute:
log 44; the step position 0 of a beacon whose pattern becomes none: log 54. -/
def Obligations.WaitAndBeaconTimers : Prop :=
  (∀ (s : State) (e : Fin 16) (c : Call) (due : Nat), s.node ≠ 63 → s.cl.calls.at e = some c →
      c.wait = some due →
      let n := max s.now due
      let u : State := { s with
        now := n
        cl := { s.cl with calls := s.cl.calls.put e (some { c with ready := some n, wait := none }) }
        agenda := if e.val ≤ 6 then s.agenda ++ [.callReady e] else s.agenda }
      let t := u.raiseFlag .warnDegraded
      exec (.waitTimerExpiry e) s = .next t.settled ∧ CallsOnly { s with now := n } t
        ∧ t.hasFlag .warnDegraded ∧ t.dls = s.dls ∧ t.bd = s.bd ∧ t.cl = u.cl)
  ∧ (∀ (s : State) (b : Fin 8) (due : Nat), Settled s → (s.bd.shown.at b).timer = some due →
      let x := s.bd.shown.at b
      let n := max s.now due
      let next : Fin 16 := if x.step.val = 15 then 0 else x.step + 1
      let lit := x.pattern ≠ 0
        ∧ ((s.bd.pattern x.pattern).steps.getLsbD next.val != (s.bd.recs.at b).opposite) = true
      exec (.beaconStepExpiry b) s = .next (({ s with now := n } : State).setShown b
        { pattern := x.pattern, step := next
          timer := if x.pattern = 0 then none
            else some (n + (s.bd.pattern x.pattern).length * (50 * Config.msec))
          level := if lit then (if s.dcc.deck = .emergency then 31 else (s.bd.recs.at b).intensity) else 0 }))
  ∧ (∀ (s : State) (b : Fin 8),
      let p := s.sourcePattern (s.bd.recs.at b).source
      let pat := s.bd.pattern p
      let t := s.formBeacons
      t = { s with bd := { s.bd with shown := t.bd.shown } }
        ∧ t.bd.shown.at b = (if p = (s.bd.shown.at b).pattern then s.bd.shown.at b
          else { pattern := p, step := 0
                 timer := if p = 0 then none else some (s.now + pat.length * (50 * Config.msec))
                 level := if p ≠ 0 ∧ (pat.steps.getLsbD 0 != (s.bd.recs.at b).opposite) = true then
                    (if s.dcc.deck = .emergency then 31 else (s.bd.recs.at b).intensity) else 0 })
        ∧ s.sourcePattern .none = 0
        ∧ (∀ z, s.sourcePattern (.zone z) = ((s.ownerCall z).map fun x => x.2.pattern).getD 0)
        ∧ ∀ ch, s.sourcePattern (.ramp ch) = (match (s.ramp ch).state with
          | .starting | .locking | .lowering | .landing | .raising | .stowing | .halting | .jog =>
            (s.ramp ch).params.pattern
          | .fault => s.settings.faultPattern
          | .disabled | .stowedLocked | .landed | .halted => 0))
  ∧ (∀ (s : State) (z : Fin 12) (issue : Byte) (play urgent : Bool) (f : Frame),
      let t := s.zoneFrameStarted z issue play urgent f
      let current := issue = (s.cl.zones.at z).issue
      let stray : State → State := fun a =>
        if play = true ∧ (s.zoneTarget z).map Prod.fst ≠ some f.dest then a.cutTo z f.dest f.object urgent
        else a
      (current → (play = false ∨ s.ownerCall z = none) → t = s)
        ∧ (current → play = true → ∀ e c, s.ownerCall z = some (e, c) → t = s.setMark e z (.playing .sent))
        ∧ (¬ current → s.ownerCall z = none →
          (play = false → t = s)
          ∧ (play = true → s.zoneTarget z = none → t = s.cutTo z f.dest f.object urgent)
          ∧ (play = true → ∀ node object, s.zoneTarget z = some (node, object) →
              t = stray (s.cutTo z node object urgent)))
        ∧ (¬ current → ∀ e c, s.ownerCall z = some (e, c) →
          (c.isPlaying z = false → t = stray s)
          ∧ (c.isPlaying z = true →
              t = (((stray s).setMark e z (.pending false)).playOwner z).settleDone)))
  ∧ (∀ (s : State) (z : Fin 12) (e : Fin 16) (c : Call) (d : Fin 96) (issue v : Byte) (play ok : Bool),
      s.ownerCall z = some (e, c) → (s.cl.zones.at z).index = 32 + d.val →
      let told := s.zoneOutcome z issue play ok
      let seen := s.zoneReport z v
      let x := s.img.remotes.at d
      let shows : Prop := x.value = 1 ∧ x.detail.head? = some c.message
      let lost := ((s.setMark e z (if c.reps ≠ 0 then .done else .pending true)).raiseFlag
        .zoneLost).settleDone
      let judged : Prop := play = true ∧ issue = (s.cl.zones.at z).issue ∧ c.isPlaying z = true
      (¬ judged → told = s)
        ∧ (judged → ok = false → told = lost)
        ∧ (judged → ok = true → c.reps ≠ 0 → shows → told = s.setMark e z (.playing .heard))
        ∧ (judged → ok = true → (c.reps = 0 ∨ ¬ shows) → told = s.setMark e z (.playing .accepted))
        ∧ (c.marks.at z = .pending true →
          seen = if v = 255 then s else (s.setMark e z (.pending false)).playOwner z)
        ∧ (c.marks.at z ∈ [.none, .pending false, .done] → seen = s)
        ∧ (∀ p, c.marks.at z = .playing p →
          (v = 2 → seen = lost)
          ∧ (v ≠ 2 → c.reps = 0 → seen = s)
          ∧ (v = 1 → c.reps ≠ 0 → p = .accepted → shows → seen = s.setMark e z (.playing .heard))
          ∧ (v = 0 → c.reps ≠ 0 → p = .heard → seen = (s.setMark e z .done).settleDone)
          ∧ (v ≠ 2 → ¬ (v = 1 ∧ p = .accepted ∧ shows) → ¬ (v = 0 ∧ p = .heard) → seen = s)))
  ∧ (∀ (s : State) (z : Fin 12) (issue v : Byte) (play ok : Bool), s.ownerCall z = none →
      s.zoneOutcome z issue play ok = s ∧ s.zoneReport z v = s)
  ∧ (∀ s : State, s.settleDone = (State.handleDone 193 s).formBeacons)
  ∧ (∀ (s : State) (i : Nat) (v : Byte),
      let zones : List (Fin 12) := [0, 1, 2, 3, 4, 5, 6, 7, 8, 9, 10, 11]
      (i < 32 → s.callsImageChange i v = s)
        ∧ (32 ≤ i → s.callsImageChange i v
          = zones.foldl (fun t z => if (t.cl.zones.at z).index = i then t.zoneReport z v else t) s))

/-! ### What every step keeps -/

/-- Every copy of every section keeps its canonical form, whatever the command (R166). -/
def Obligations.TablesStayCanonical : Prop :=
  ∀ s t : State, step s = .next t → TablesOk s → TablesOk t

/-- The bridge transmit queue never holds more than 32 frames, nor two STATUS frames for the same node and
object; the deck transmit queue never more than 24 frames, nor 16 non-urgent ones; the held list never
more than 8 (R64, R69, R76). -/
def Obligations.QueuesStayBounded : Prop :=
  ∀ s t : State, step s = .next t →
    (BridgeQueueOk s → BridgeQueueOk t) ∧ (DeckQueueOk s → DeckQueueOk t) ∧ (HeldListOk s → HeldListOk t)

/-- Outside the motion states a channel's compares and integrator stay off, and its pins are driven out only
in STARTING and in only in LOCKING; entries 0, 1, 2 and 5 to 8 always show the deck condition and the
states; the summaries, the alarm state and entry 11 always follow the flags (R43, R80, R119, R129, R188,
R189). -/
def Obligations.OutputsAndEntriesStayTrue : Prop :=
  ∀ s t : State, step s = .next t →
    (RampsOk s → RampsOk t) ∧ (PublishedOk s → PublishedOk t) ∧ (SummaryOk s → SummaryOk t)

/-- All these invariants hold right after full reset, whatever the straps (R11, R18, R21, R37, R56, R68, R78, R106,
R125, R145, R161, R165, R183, R196). -/
def Obligations.InvariantsHoldAtReset : Prop :=
  ∀ (s t : State) (straps : BitVec 6), (t = State.reset ∨ exec (.fullReset straps) s = .next t) →
    TablesOk t ∧ BridgeQueueOk t ∧ DeckQueueOk t ∧ HeldListOk t ∧ RampsOk t ∧ PublishedOk t ∧ SummaryOk t
end

