-- ==== Sys2Proof/Laws/State.lean ====
section
/-! SUPPORT. Field lemmas of the record updates of Machine/Ops.lean: what each update leaves unchanged, and
what it reads back. -/

namespace Sys2Proof.Machine

open Sys2Proof

/-! ### Channels -/

@[simp] theorem Pair.get_put_self {α : Type} (p : Pair α) (ch : Channel) (x : α) :
    (p.put ch x).get ch = x := by cases ch <;> rfl

theorem Pair.get_put_ne {α : Type} (p : Pair α) {ch ch' : Channel} (x : α) (h : ch ≠ ch') :
    (p.put ch x).get ch' = p.get ch' := by
  cases ch <;> cases ch' <;> first | rfl | exact absurd rfl h

@[simp] theorem Pair.get_mk_a {α : Type} (x y : α) : (Pair.mk x y).get .a = x := rfl

@[simp] theorem Pair.get_mk_b {α : Type} (x y : α) : (Pair.mk x y).get .b = y := rfl

/-! ### setRamp -/

@[simp] theorem State.setRamp_pending (s : State) (ch : Channel) (r : Ramp) :
    (s.setRamp ch r).pending = s.pending := rfl

@[simp] theorem State.setRamp_now (s : State) (ch : Channel) (r : Ramp) :
    (s.setRamp ch r).now = s.now := rfl

@[simp] theorem State.setRamp_agenda (s : State) (ch : Channel) (r : Ramp) :
    (s.setRamp ch r).agenda = s.agenda := rfl

@[simp] theorem State.setRamp_straps (s : State) (ch : Channel) (r : Ramp) :
    (s.setRamp ch r).straps = s.straps := rfl

@[simp] theorem State.setRamp_node (s : State) (ch : Channel) (r : Ramp) :
    (s.setRamp ch r).node = s.node := rfl

@[simp] theorem State.setRamp_pins (s : State) (ch : Channel) (r : Ramp) :
    (s.setRamp ch r).pins = s.pins := rfl

@[simp] theorem State.setRamp_bli (s : State) (ch : Channel) (r : Ramp) :
    (s.setRamp ch r).bli = s.bli := rfl

@[simp] theorem State.setRamp_dls (s : State) (ch : Channel) (r : Ramp) :
    (s.setRamp ch r).dls = s.dls := rfl

@[simp] theorem State.setRamp_img (s : State) (ch : Channel) (r : Ramp) :
    (s.setRamp ch r).img = s.img := rfl

@[simp] theorem State.setRamp_dcc (s : State) (ch : Channel) (r : Ramp) :
    (s.setRamp ch r).dcc = s.dcc := rfl

@[simp] theorem State.setRamp_held (s : State) (ch : Channel) (r : Ramp) :
    (s.setRamp ch r).held = s.held := rfl

@[simp] theorem State.setRamp_estop (s : State) (ch : Channel) (r : Ramp) :
    (s.setRamp ch r).estop = s.estop := rfl

@[simp] theorem State.setRamp_groups (s : State) (ch : Channel) (r : Ramp) :
    (s.setRamp ch r).groups = s.groups := rfl

@[simp] theorem State.setRamp_cl (s : State) (ch : Channel) (r : Ramp) :
    (s.setRamp ch r).cl = s.cl := rfl

@[simp] theorem State.setRamp_bd (s : State) (ch : Channel) (r : Ramp) :
    (s.setRamp ch r).bd = s.bd := rfl

@[simp] theorem State.setRamp_ts (s : State) (ch : Channel) (r : Ramp) :
    (s.setRamp ch r).ts = s.ts := rfl

@[simp] theorem State.setRamp_fc (s : State) (ch : Channel) (r : Ramp) :
    (s.setRamp ch r).fc = s.fc := rfl

@[simp] theorem State.setRamp_settings (s : State) (ch : Channel) (r : Ramp) :
    (s.setRamp ch r).settings = s.settings := rfl

/-! ### setGroup -/

@[simp] theorem State.setGroup_pending (s : State) (g : Fin 4) (r : Group) :
    (s.setGroup g r).pending = s.pending := rfl

@[simp] theorem State.setGroup_now (s : State) (g : Fin 4) (r : Group) :
    (s.setGroup g r).now = s.now := rfl

@[simp] theorem State.setGroup_agenda (s : State) (g : Fin 4) (r : Group) :
    (s.setGroup g r).agenda = s.agenda := rfl

@[simp] theorem State.setGroup_straps (s : State) (g : Fin 4) (r : Group) :
    (s.setGroup g r).straps = s.straps := rfl

@[simp] theorem State.setGroup_node (s : State) (g : Fin 4) (r : Group) :
    (s.setGroup g r).node = s.node := rfl

@[simp] theorem State.setGroup_pins (s : State) (g : Fin 4) (r : Group) :
    (s.setGroup g r).pins = s.pins := rfl

@[simp] theorem State.setGroup_bli (s : State) (g : Fin 4) (r : Group) :
    (s.setGroup g r).bli = s.bli := rfl

@[simp] theorem State.setGroup_dls (s : State) (g : Fin 4) (r : Group) :
    (s.setGroup g r).dls = s.dls := rfl

@[simp] theorem State.setGroup_img (s : State) (g : Fin 4) (r : Group) :
    (s.setGroup g r).img = s.img := rfl

@[simp] theorem State.setGroup_dcc (s : State) (g : Fin 4) (r : Group) :
    (s.setGroup g r).dcc = s.dcc := rfl

@[simp] theorem State.setGroup_held (s : State) (g : Fin 4) (r : Group) :
    (s.setGroup g r).held = s.held := rfl

@[simp] theorem State.setGroup_ramps (s : State) (g : Fin 4) (r : Group) :
    (s.setGroup g r).ramps = s.ramps := rfl

@[simp] theorem State.setGroup_estop (s : State) (g : Fin 4) (r : Group) :
    (s.setGroup g r).estop = s.estop := rfl

@[simp] theorem State.setGroup_cl (s : State) (g : Fin 4) (r : Group) :
    (s.setGroup g r).cl = s.cl := rfl

@[simp] theorem State.setGroup_bd (s : State) (g : Fin 4) (r : Group) :
    (s.setGroup g r).bd = s.bd := rfl

@[simp] theorem State.setGroup_ts (s : State) (g : Fin 4) (r : Group) :
    (s.setGroup g r).ts = s.ts := rfl

@[simp] theorem State.setGroup_fc (s : State) (g : Fin 4) (r : Group) :
    (s.setGroup g r).fc = s.fc := rfl

@[simp] theorem State.setGroup_settings (s : State) (g : Fin 4) (r : Group) :
    (s.setGroup g r).settings = s.settings := rfl

/-! ### setStep -/

@[simp] theorem State.setStep_pending (s : State) (g : Fin 4) (k : Fin 8) (t : Step) :
    (s.setStep g k t).pending = s.pending := rfl

@[simp] theorem State.setStep_now (s : State) (g : Fin 4) (k : Fin 8) (t : Step) :
    (s.setStep g k t).now = s.now := rfl

@[simp] theorem State.setStep_agenda (s : State) (g : Fin 4) (k : Fin 8) (t : Step) :
    (s.setStep g k t).agenda = s.agenda := rfl

@[simp] theorem State.setStep_straps (s : State) (g : Fin 4) (k : Fin 8) (t : Step) :
    (s.setStep g k t).straps = s.straps := rfl

@[simp] theorem State.setStep_node (s : State) (g : Fin 4) (k : Fin 8) (t : Step) :
    (s.setStep g k t).node = s.node := rfl

@[simp] theorem State.setStep_pins (s : State) (g : Fin 4) (k : Fin 8) (t : Step) :
    (s.setStep g k t).pins = s.pins := rfl

@[simp] theorem State.setStep_bli (s : State) (g : Fin 4) (k : Fin 8) (t : Step) :
    (s.setStep g k t).bli = s.bli := rfl

@[simp] theorem State.setStep_dls (s : State) (g : Fin 4) (k : Fin 8) (t : Step) :
    (s.setStep g k t).dls = s.dls := rfl

@[simp] theorem State.setStep_img (s : State) (g : Fin 4) (k : Fin 8) (t : Step) :
    (s.setStep g k t).img = s.img := rfl

@[simp] theorem State.setStep_dcc (s : State) (g : Fin 4) (k : Fin 8) (t : Step) :
    (s.setStep g k t).dcc = s.dcc := rfl

@[simp] theorem State.setStep_held (s : State) (g : Fin 4) (k : Fin 8) (t : Step) :
    (s.setStep g k t).held = s.held := rfl

@[simp] theorem State.setStep_ramps (s : State) (g : Fin 4) (k : Fin 8) (t : Step) :
    (s.setStep g k t).ramps = s.ramps := rfl

@[simp] theorem State.setStep_estop (s : State) (g : Fin 4) (k : Fin 8) (t : Step) :
    (s.setStep g k t).estop = s.estop := rfl

@[simp] theorem State.setStep_cl (s : State) (g : Fin 4) (k : Fin 8) (t : Step) :
    (s.setStep g k t).cl = s.cl := rfl

@[simp] theorem State.setStep_bd (s : State) (g : Fin 4) (k : Fin 8) (t : Step) :
    (s.setStep g k t).bd = s.bd := rfl

@[simp] theorem State.setStep_ts (s : State) (g : Fin 4) (k : Fin 8) (t : Step) :
    (s.setStep g k t).ts = s.ts := rfl

@[simp] theorem State.setStep_fc (s : State) (g : Fin 4) (k : Fin 8) (t : Step) :
    (s.setStep g k t).fc = s.fc := rfl

@[simp] theorem State.setStep_settings (s : State) (g : Fin 4) (k : Fin 8) (t : Step) :
    (s.setStep g k t).settings = s.settings := rfl

/-! ### setZone -/

@[simp] theorem State.setZone_pending (s : State) (z : Fin 12) (r : Zone) :
    (s.setZone z r).pending = s.pending := rfl

@[simp] theorem State.setZone_now (s : State) (z : Fin 12) (r : Zone) :
    (s.setZone z r).now = s.now := rfl

@[simp] theorem State.setZone_agenda (s : State) (z : Fin 12) (r : Zone) :
    (s.setZone z r).agenda = s.agenda := rfl

@[simp] theorem State.setZone_straps (s : State) (z : Fin 12) (r : Zone) :
    (s.setZone z r).straps = s.straps := rfl

@[simp] theorem State.setZone_node (s : State) (z : Fin 12) (r : Zone) :
    (s.setZone z r).node = s.node := rfl

@[simp] theorem State.setZone_pins (s : State) (z : Fin 12) (r : Zone) :
    (s.setZone z r).pins = s.pins := rfl

@[simp] theorem State.setZone_bli (s : State) (z : Fin 12) (r : Zone) :
    (s.setZone z r).bli = s.bli := rfl

@[simp] theorem State.setZone_dls (s : State) (z : Fin 12) (r : Zone) :
    (s.setZone z r).dls = s.dls := rfl

@[simp] theorem State.setZone_img (s : State) (z : Fin 12) (r : Zone) :
    (s.setZone z r).img = s.img := rfl

@[simp] theorem State.setZone_dcc (s : State) (z : Fin 12) (r : Zone) :
    (s.setZone z r).dcc = s.dcc := rfl

@[simp] theorem State.setZone_held (s : State) (z : Fin 12) (r : Zone) :
    (s.setZone z r).held = s.held := rfl

@[simp] theorem State.setZone_ramps (s : State) (z : Fin 12) (r : Zone) :
    (s.setZone z r).ramps = s.ramps := rfl

@[simp] theorem State.setZone_estop (s : State) (z : Fin 12) (r : Zone) :
    (s.setZone z r).estop = s.estop := rfl

@[simp] theorem State.setZone_groups (s : State) (z : Fin 12) (r : Zone) :
    (s.setZone z r).groups = s.groups := rfl

@[simp] theorem State.setZone_bd (s : State) (z : Fin 12) (r : Zone) :
    (s.setZone z r).bd = s.bd := rfl

@[simp] theorem State.setZone_ts (s : State) (z : Fin 12) (r : Zone) :
    (s.setZone z r).ts = s.ts := rfl

@[simp] theorem State.setZone_fc (s : State) (z : Fin 12) (r : Zone) :
    (s.setZone z r).fc = s.fc := rfl

@[simp] theorem State.setZone_settings (s : State) (z : Fin 12) (r : Zone) :
    (s.setZone z r).settings = s.settings := rfl

/-! ### setCall -/

@[simp] theorem State.setCall_pending (s : State) (e : Fin 16) (c : Option Call) :
    (s.setCall e c).pending = s.pending := rfl

@[simp] theorem State.setCall_now (s : State) (e : Fin 16) (c : Option Call) :
    (s.setCall e c).now = s.now := rfl

@[simp] theorem State.setCall_agenda (s : State) (e : Fin 16) (c : Option Call) :
    (s.setCall e c).agenda = s.agenda := rfl

@[simp] theorem State.setCall_straps (s : State) (e : Fin 16) (c : Option Call) :
    (s.setCall e c).straps = s.straps := rfl

@[simp] theorem State.setCall_node (s : State) (e : Fin 16) (c : Option Call) :
    (s.setCall e c).node = s.node := rfl

@[simp] theorem State.setCall_pins (s : State) (e : Fin 16) (c : Option Call) :
    (s.setCall e c).pins = s.pins := rfl

@[simp] theorem State.setCall_bli (s : State) (e : Fin 16) (c : Option Call) :
    (s.setCall e c).bli = s.bli := rfl

@[simp] theorem State.setCall_dls (s : State) (e : Fin 16) (c : Option Call) :
    (s.setCall e c).dls = s.dls := rfl

@[simp] theorem State.setCall_img (s : State) (e : Fin 16) (c : Option Call) :
    (s.setCall e c).img = s.img := rfl

@[simp] theorem State.setCall_dcc (s : State) (e : Fin 16) (c : Option Call) :
    (s.setCall e c).dcc = s.dcc := rfl

@[simp] theorem State.setCall_held (s : State) (e : Fin 16) (c : Option Call) :
    (s.setCall e c).held = s.held := rfl

@[simp] theorem State.setCall_ramps (s : State) (e : Fin 16) (c : Option Call) :
    (s.setCall e c).ramps = s.ramps := rfl

@[simp] theorem State.setCall_estop (s : State) (e : Fin 16) (c : Option Call) :
    (s.setCall e c).estop = s.estop := rfl

@[simp] theorem State.setCall_groups (s : State) (e : Fin 16) (c : Option Call) :
    (s.setCall e c).groups = s.groups := rfl

@[simp] theorem State.setCall_bd (s : State) (e : Fin 16) (c : Option Call) :
    (s.setCall e c).bd = s.bd := rfl

@[simp] theorem State.setCall_ts (s : State) (e : Fin 16) (c : Option Call) :
    (s.setCall e c).ts = s.ts := rfl

@[simp] theorem State.setCall_fc (s : State) (e : Fin 16) (c : Option Call) :
    (s.setCall e c).fc = s.fc := rfl

@[simp] theorem State.setCall_settings (s : State) (e : Fin 16) (c : Option Call) :
    (s.setCall e c).settings = s.settings := rfl

/-! ### setShown -/

@[simp] theorem State.setShown_pending (s : State) (b : Fin 8) (x : Shown) :
    (s.setShown b x).pending = s.pending := rfl

@[simp] theorem State.setShown_now (s : State) (b : Fin 8) (x : Shown) :
    (s.setShown b x).now = s.now := rfl

@[simp] theorem State.setShown_agenda (s : State) (b : Fin 8) (x : Shown) :
    (s.setShown b x).agenda = s.agenda := rfl

@[simp] theorem State.setShown_straps (s : State) (b : Fin 8) (x : Shown) :
    (s.setShown b x).straps = s.straps := rfl

@[simp] theorem State.setShown_node (s : State) (b : Fin 8) (x : Shown) :
    (s.setShown b x).node = s.node := rfl

@[simp] theorem State.setShown_pins (s : State) (b : Fin 8) (x : Shown) :
    (s.setShown b x).pins = s.pins := rfl

@[simp] theorem State.setShown_bli (s : State) (b : Fin 8) (x : Shown) :
    (s.setShown b x).bli = s.bli := rfl

@[simp] theorem State.setShown_dls (s : State) (b : Fin 8) (x : Shown) :
    (s.setShown b x).dls = s.dls := rfl

@[simp] theorem State.setShown_img (s : State) (b : Fin 8) (x : Shown) :
    (s.setShown b x).img = s.img := rfl

@[simp] theorem State.setShown_dcc (s : State) (b : Fin 8) (x : Shown) :
    (s.setShown b x).dcc = s.dcc := rfl

@[simp] theorem State.setShown_held (s : State) (b : Fin 8) (x : Shown) :
    (s.setShown b x).held = s.held := rfl

@[simp] theorem State.setShown_ramps (s : State) (b : Fin 8) (x : Shown) :
    (s.setShown b x).ramps = s.ramps := rfl

@[simp] theorem State.setShown_estop (s : State) (b : Fin 8) (x : Shown) :
    (s.setShown b x).estop = s.estop := rfl

@[simp] theorem State.setShown_groups (s : State) (b : Fin 8) (x : Shown) :
    (s.setShown b x).groups = s.groups := rfl

@[simp] theorem State.setShown_cl (s : State) (b : Fin 8) (x : Shown) :
    (s.setShown b x).cl = s.cl := rfl

@[simp] theorem State.setShown_ts (s : State) (b : Fin 8) (x : Shown) :
    (s.setShown b x).ts = s.ts := rfl

@[simp] theorem State.setShown_fc (s : State) (b : Fin 8) (x : Shown) :
    (s.setShown b x).fc = s.fc := rfl

@[simp] theorem State.setShown_settings (s : State) (b : Fin 8) (x : Shown) :
    (s.setShown b x).settings = s.settings := rfl

/-! ### setRemote -/

@[simp] theorem State.setRemote_pending (s : State) (d : Fin 96) (r : Remote) :
    (s.setRemote d r).pending = s.pending := rfl

@[simp] theorem State.setRemote_now (s : State) (d : Fin 96) (r : Remote) :
    (s.setRemote d r).now = s.now := rfl

@[simp] theorem State.setRemote_agenda (s : State) (d : Fin 96) (r : Remote) :
    (s.setRemote d r).agenda = s.agenda := rfl

@[simp] theorem State.setRemote_straps (s : State) (d : Fin 96) (r : Remote) :
    (s.setRemote d r).straps = s.straps := rfl

@[simp] theorem State.setRemote_node (s : State) (d : Fin 96) (r : Remote) :
    (s.setRemote d r).node = s.node := rfl

@[simp] theorem State.setRemote_pins (s : State) (d : Fin 96) (r : Remote) :
    (s.setRemote d r).pins = s.pins := rfl

@[simp] theorem State.setRemote_bli (s : State) (d : Fin 96) (r : Remote) :
    (s.setRemote d r).bli = s.bli := rfl

@[simp] theorem State.setRemote_dls (s : State) (d : Fin 96) (r : Remote) :
    (s.setRemote d r).dls = s.dls := rfl

@[simp] theorem State.setRemote_dcc (s : State) (d : Fin 96) (r : Remote) :
    (s.setRemote d r).dcc = s.dcc := rfl

@[simp] theorem State.setRemote_held (s : State) (d : Fin 96) (r : Remote) :
    (s.setRemote d r).held = s.held := rfl

@[simp] theorem State.setRemote_ramps (s : State) (d : Fin 96) (r : Remote) :
    (s.setRemote d r).ramps = s.ramps := rfl

@[simp] theorem State.setRemote_estop (s : State) (d : Fin 96) (r : Remote) :
    (s.setRemote d r).estop = s.estop := rfl

@[simp] theorem State.setRemote_groups (s : State) (d : Fin 96) (r : Remote) :
    (s.setRemote d r).groups = s.groups := rfl

@[simp] theorem State.setRemote_cl (s : State) (d : Fin 96) (r : Remote) :
    (s.setRemote d r).cl = s.cl := rfl

@[simp] theorem State.setRemote_bd (s : State) (d : Fin 96) (r : Remote) :
    (s.setRemote d r).bd = s.bd := rfl

@[simp] theorem State.setRemote_ts (s : State) (d : Fin 96) (r : Remote) :
    (s.setRemote d r).ts = s.ts := rfl

@[simp] theorem State.setRemote_fc (s : State) (d : Fin 96) (r : Remote) :
    (s.setRemote d r).fc = s.fc := rfl

@[simp] theorem State.setRemote_settings (s : State) (d : Fin 96) (r : Remote) :
    (s.setRemote d r).settings = s.settings := rfl

/-! ### setSec -/

@[simp] theorem State.setSec_pending (s : State) (i : Fin 8) (x : Sec) :
    (s.setSec i x).pending = s.pending := rfl

@[simp] theorem State.setSec_now (s : State) (i : Fin 8) (x : Sec) :
    (s.setSec i x).now = s.now := rfl

@[simp] theorem State.setSec_agenda (s : State) (i : Fin 8) (x : Sec) :
    (s.setSec i x).agenda = s.agenda := rfl

@[simp] theorem State.setSec_straps (s : State) (i : Fin 8) (x : Sec) :
    (s.setSec i x).straps = s.straps := rfl

@[simp] theorem State.setSec_node (s : State) (i : Fin 8) (x : Sec) :
    (s.setSec i x).node = s.node := rfl

@[simp] theorem State.setSec_pins (s : State) (i : Fin 8) (x : Sec) :
    (s.setSec i x).pins = s.pins := rfl

@[simp] theorem State.setSec_bli (s : State) (i : Fin 8) (x : Sec) :
    (s.setSec i x).bli = s.bli := rfl

@[simp] theorem State.setSec_dls (s : State) (i : Fin 8) (x : Sec) :
    (s.setSec i x).dls = s.dls := rfl

@[simp] theorem State.setSec_img (s : State) (i : Fin 8) (x : Sec) :
    (s.setSec i x).img = s.img := rfl

@[simp] theorem State.setSec_dcc (s : State) (i : Fin 8) (x : Sec) :
    (s.setSec i x).dcc = s.dcc := rfl

@[simp] theorem State.setSec_held (s : State) (i : Fin 8) (x : Sec) :
    (s.setSec i x).held = s.held := rfl

@[simp] theorem State.setSec_ramps (s : State) (i : Fin 8) (x : Sec) :
    (s.setSec i x).ramps = s.ramps := rfl

@[simp] theorem State.setSec_estop (s : State) (i : Fin 8) (x : Sec) :
    (s.setSec i x).estop = s.estop := rfl

@[simp] theorem State.setSec_groups (s : State) (i : Fin 8) (x : Sec) :
    (s.setSec i x).groups = s.groups := rfl

@[simp] theorem State.setSec_cl (s : State) (i : Fin 8) (x : Sec) :
    (s.setSec i x).cl = s.cl := rfl

@[simp] theorem State.setSec_bd (s : State) (i : Fin 8) (x : Sec) :
    (s.setSec i x).bd = s.bd := rfl

@[simp] theorem State.setSec_fc (s : State) (i : Fin 8) (x : Sec) :
    (s.setSec i x).fc = s.fc := rfl

@[simp] theorem State.setSec_settings (s : State) (i : Fin 8) (x : Sec) :
    (s.setSec i x).settings = s.settings := rfl

/-! ### push -/

@[simp] theorem State.push_pending (s : State) (t : Task) :
    (s.push t).pending = s.pending := rfl

@[simp] theorem State.push_now (s : State) (t : Task) :
    (s.push t).now = s.now := rfl

@[simp] theorem State.push_straps (s : State) (t : Task) :
    (s.push t).straps = s.straps := rfl

@[simp] theorem State.push_node (s : State) (t : Task) :
    (s.push t).node = s.node := rfl

@[simp] theorem State.push_pins (s : State) (t : Task) :
    (s.push t).pins = s.pins := rfl

@[simp] theorem State.push_bli (s : State) (t : Task) :
    (s.push t).bli = s.bli := rfl

@[simp] theorem State.push_dls (s : State) (t : Task) :
    (s.push t).dls = s.dls := rfl

@[simp] theorem State.push_img (s : State) (t : Task) :
    (s.push t).img = s.img := rfl

@[simp] theorem State.push_dcc (s : State) (t : Task) :
    (s.push t).dcc = s.dcc := rfl

@[simp] theorem State.push_held (s : State) (t : Task) :
    (s.push t).held = s.held := rfl

@[simp] theorem State.push_ramps (s : State) (t : Task) :
    (s.push t).ramps = s.ramps := rfl

@[simp] theorem State.push_estop (s : State) (t : Task) :
    (s.push t).estop = s.estop := rfl

@[simp] theorem State.push_groups (s : State) (t : Task) :
    (s.push t).groups = s.groups := rfl

@[simp] theorem State.push_cl (s : State) (t : Task) :
    (s.push t).cl = s.cl := rfl

@[simp] theorem State.push_bd (s : State) (t : Task) :
    (s.push t).bd = s.bd := rfl

@[simp] theorem State.push_ts (s : State) (t : Task) :
    (s.push t).ts = s.ts := rfl

@[simp] theorem State.push_fc (s : State) (t : Task) :
    (s.push t).fc = s.fc := rfl

@[simp] theorem State.push_settings (s : State) (t : Task) :
    (s.push t).settings = s.settings := rfl

/-! ### reach -/

@[simp] theorem State.reach_pending (s : State) (d : Nat) :
    (s.reach d).pending = s.pending := rfl

@[simp] theorem State.reach_agenda (s : State) (d : Nat) :
    (s.reach d).agenda = s.agenda := rfl

@[simp] theorem State.reach_straps (s : State) (d : Nat) :
    (s.reach d).straps = s.straps := rfl

@[simp] theorem State.reach_node (s : State) (d : Nat) :
    (s.reach d).node = s.node := rfl

@[simp] theorem State.reach_pins (s : State) (d : Nat) :
    (s.reach d).pins = s.pins := rfl

@[simp] theorem State.reach_bli (s : State) (d : Nat) :
    (s.reach d).bli = s.bli := rfl

@[simp] theorem State.reach_dls (s : State) (d : Nat) :
    (s.reach d).dls = s.dls := rfl

@[simp] theorem State.reach_img (s : State) (d : Nat) :
    (s.reach d).img = s.img := rfl

@[simp] theorem State.reach_dcc (s : State) (d : Nat) :
    (s.reach d).dcc = s.dcc := rfl

@[simp] theorem State.reach_held (s : State) (d : Nat) :
    (s.reach d).held = s.held := rfl

@[simp] theorem State.reach_ramps (s : State) (d : Nat) :
    (s.reach d).ramps = s.ramps := rfl

@[simp] theorem State.reach_estop (s : State) (d : Nat) :
    (s.reach d).estop = s.estop := rfl

@[simp] theorem State.reach_groups (s : State) (d : Nat) :
    (s.reach d).groups = s.groups := rfl

@[simp] theorem State.reach_cl (s : State) (d : Nat) :
    (s.reach d).cl = s.cl := rfl

@[simp] theorem State.reach_bd (s : State) (d : Nat) :
    (s.reach d).bd = s.bd := rfl

@[simp] theorem State.reach_ts (s : State) (d : Nat) :
    (s.reach d).ts = s.ts := rfl

@[simp] theorem State.reach_fc (s : State) (d : Nat) :
    (s.reach d).fc = s.fc := rfl

@[simp] theorem State.reach_settings (s : State) (d : Nat) :
    (s.reach d).settings = s.settings := rfl

/-! ### setFlag -/

@[simp] theorem State.setFlag_pending (s : State) (f : Flag) :
    (s.setFlag f).pending = s.pending := rfl

@[simp] theorem State.setFlag_now (s : State) (f : Flag) :
    (s.setFlag f).now = s.now := rfl

@[simp] theorem State.setFlag_agenda (s : State) (f : Flag) :
    (s.setFlag f).agenda = s.agenda := rfl

@[simp] theorem State.setFlag_straps (s : State) (f : Flag) :
    (s.setFlag f).straps = s.straps := rfl

@[simp] theorem State.setFlag_node (s : State) (f : Flag) :
    (s.setFlag f).node = s.node := rfl

@[simp] theorem State.setFlag_pins (s : State) (f : Flag) :
    (s.setFlag f).pins = s.pins := rfl

@[simp] theorem State.setFlag_bli (s : State) (f : Flag) :
    (s.setFlag f).bli = s.bli := rfl

@[simp] theorem State.setFlag_dls (s : State) (f : Flag) :
    (s.setFlag f).dls = s.dls := rfl

@[simp] theorem State.setFlag_img (s : State) (f : Flag) :
    (s.setFlag f).img = s.img := rfl

@[simp] theorem State.setFlag_dcc (s : State) (f : Flag) :
    (s.setFlag f).dcc = s.dcc := rfl

@[simp] theorem State.setFlag_held (s : State) (f : Flag) :
    (s.setFlag f).held = s.held := rfl

@[simp] theorem State.setFlag_ramps (s : State) (f : Flag) :
    (s.setFlag f).ramps = s.ramps := rfl

@[simp] theorem State.setFlag_estop (s : State) (f : Flag) :
    (s.setFlag f).estop = s.estop := rfl

@[simp] theorem State.setFlag_groups (s : State) (f : Flag) :
    (s.setFlag f).groups = s.groups := rfl

@[simp] theorem State.setFlag_cl (s : State) (f : Flag) :
    (s.setFlag f).cl = s.cl := rfl

@[simp] theorem State.setFlag_bd (s : State) (f : Flag) :
    (s.setFlag f).bd = s.bd := rfl

@[simp] theorem State.setFlag_ts (s : State) (f : Flag) :
    (s.setFlag f).ts = s.ts := rfl

@[simp] theorem State.setFlag_settings (s : State) (f : Flag) :
    (s.setFlag f).settings = s.settings := rfl

/-! ### setChannelPins -/

@[simp] theorem State.setChannelPins_pending (s : State) (ch : Channel) (p : ChannelPins) :
    (s.setChannelPins ch p).pending = s.pending := rfl

@[simp] theorem State.setChannelPins_now (s : State) (ch : Channel) (p : ChannelPins) :
    (s.setChannelPins ch p).now = s.now := rfl

@[simp] theorem State.setChannelPins_agenda (s : State) (ch : Channel) (p : ChannelPins) :
    (s.setChannelPins ch p).agenda = s.agenda := rfl

@[simp] theorem State.setChannelPins_straps (s : State) (ch : Channel) (p : ChannelPins) :
    (s.setChannelPins ch p).straps = s.straps := rfl

@[simp] theorem State.setChannelPins_node (s : State) (ch : Channel) (p : ChannelPins) :
    (s.setChannelPins ch p).node = s.node := rfl

@[simp] theorem State.setChannelPins_bli (s : State) (ch : Channel) (p : ChannelPins) :
    (s.setChannelPins ch p).bli = s.bli := rfl

@[simp] theorem State.setChannelPins_dls (s : State) (ch : Channel) (p : ChannelPins) :
    (s.setChannelPins ch p).dls = s.dls := rfl

@[simp] theorem State.setChannelPins_img (s : State) (ch : Channel) (p : ChannelPins) :
    (s.setChannelPins ch p).img = s.img := rfl

@[simp] theorem State.setChannelPins_dcc (s : State) (ch : Channel) (p : ChannelPins) :
    (s.setChannelPins ch p).dcc = s.dcc := rfl

@[simp] theorem State.setChannelPins_held (s : State) (ch : Channel) (p : ChannelPins) :
    (s.setChannelPins ch p).held = s.held := rfl

@[simp] theorem State.setChannelPins_ramps (s : State) (ch : Channel) (p : ChannelPins) :
    (s.setChannelPins ch p).ramps = s.ramps := rfl

@[simp] theorem State.setChannelPins_estop (s : State) (ch : Channel) (p : ChannelPins) :
    (s.setChannelPins ch p).estop = s.estop := rfl

@[simp] theorem State.setChannelPins_groups (s : State) (ch : Channel) (p : ChannelPins) :
    (s.setChannelPins ch p).groups = s.groups := rfl

@[simp] theorem State.setChannelPins_cl (s : State) (ch : Channel) (p : ChannelPins) :
    (s.setChannelPins ch p).cl = s.cl := rfl

@[simp] theorem State.setChannelPins_bd (s : State) (ch : Channel) (p : ChannelPins) :
    (s.setChannelPins ch p).bd = s.bd := rfl

@[simp] theorem State.setChannelPins_ts (s : State) (ch : Channel) (p : ChannelPins) :
    (s.setChannelPins ch p).ts = s.ts := rfl

@[simp] theorem State.setChannelPins_fc (s : State) (ch : Channel) (p : ChannelPins) :
    (s.setChannelPins ch p).fc = s.fc := rfl

@[simp] theorem State.setChannelPins_settings (s : State) (ch : Channel) (p : ChannelPins) :
    (s.setChannelPins ch p).settings = s.settings := rfl

/-! ### What an update reads back -/

@[simp] theorem State.ramp_setRamp_self (s : State) (ch : Channel) (r : Ramp) :
    (s.setRamp ch r).ramp ch = r := by simp [State.ramp, State.setRamp]

theorem State.ramp_setRamp_ne (s : State) {ch ch' : Channel} (r : Ramp) (h : ch ≠ ch') :
    (s.setRamp ch r).ramp ch' = s.ramp ch' := by
  simp [State.ramp, State.setRamp, Pair.get_put_ne _ _ h]

@[simp] theorem State.group_setGroup_self (s : State) (g : Fin 4) (r : Group) :
    (s.setGroup g r).group g = r := by simp [State.group, State.setGroup]

theorem State.group_setGroup_ne (s : State) {g g' : Fin 4} (r : Group) (h : g ≠ g') :
    (s.setGroup g r).group g' = s.group g' := by
  simp [State.group, State.setGroup, Tab.at_put_ne _ _ h]

@[simp] theorem State.sec_setSec_self (s : State) (i : Fin 8) (x : Sec) :
    (s.setSec i x).sec i = x := by simp [State.sec, State.setSec]

theorem State.sec_setSec_ne (s : State) {i j : Fin 8} (x : Sec) (h : i ≠ j) :
    (s.setSec i x).sec j = s.sec j := by
  simp [State.sec, State.setSec, Tab.at_put_ne _ _ h]

@[simp] theorem State.reach_now (s : State) (d : Nat) : (s.reach d).now = max s.now d := rfl

@[simp] theorem State.push_agenda (s : State) (t : Task) : (s.push t).agenda = s.agenda ++ [t] := rfl

end Sys2Proof.Machine
end

