-- ==== Sys2Proof/Laws/Settle.lean ====
section
/-! SUPPORT. A settled state stays as it is, and what a command's meaning is in terms of its own effect. -/

namespace Sys2Proof.Machine

open Sys2Proof

theorem State.settle_quiet (n : Nat) (s : State) (ha : s.agenda = []) (ho : s.fc.owed = false)
    (hc : s.dls.choose = false) : s.settle n = s := by
  cases n with
  | zero => rfl
  | succ n => simp [State.settle, ha, ho, hc]

theorem State.settled_quiet (s : State) (ha : s.agenda = []) (ho : s.fc.owed = false)
    (hc : s.dls.choose = false) : s.settled = s := s.settle_quiet _ ha ho hc

/-- A summary notice that is owed is placed first (R189). -/
theorem State.settle_owed (n : Nat) (s : State) (ho : s.fc.owed = true) :
    s.settle (n + 1) = s.announce.settle n := by
  rw [State.settle, if_pos ho]

/-- Then the first event of the agenda is handled (log 7). -/
theorem State.settle_task (n : Nat) (s : State) (t : Task) (rest : List Task) (ho : s.fc.owed = false)
    (ha : s.agenda = t :: rest) : s.settle (n + 1) = (({ s with agenda := rest }).handle t).settle n := by
  rw [State.settle, ho, ha]
  rfl

/-- And at last the arbiter chooses (R73). -/
theorem State.settle_choose (n : Nat) (s : State) (ho : s.fc.owed = false) (ha : s.agenda = [])
    (hc : s.dls.choose = true) : s.settle (n + 1) = s.chooseNext.settle n := by
  rw [State.settle, ho, ha, hc]
  rfl

theorem State.act_next (s : State) (f : State → State) (h : s.node ≠ 63) :
    s.act f = .next (f s).settled := by
  unfold State.act
  rw [if_neg h]
  rfl

theorem State.act_held (s : State) (f : State → State) (h : s.node = 63) : s.act f = .next s := by
  unfold State.act
  rw [if_pos h]

theorem State.act_quiet (s : State) (f : State → State) (h : s.node ≠ 63) (ha : (f s).agenda = [])
    (ho : (f s).fc.owed = false) (hc : (f s).dls.choose = false) : s.act f = .next (f s) := by
  rw [s.act_next f h, (f s).settled_quiet ha ho hc]

theorem State.actRequest_next (s : State) (f : State → State) (h : s.node ≠ 63)
    (hr : s.bli.restarting = false) : s.actRequest f = .next (f s).settled := by
  unfold State.actRequest
  rw [s.act_next _ h, hr]
  rfl

theorem State.actRequest_quiet (s : State) (f : State → State) (h : s.node ≠ 63)
    (hr : s.bli.restarting = false) (ha : (f s).agenda = []) (ho : (f s).fc.owed = false)
    (hc : (f s).dls.choose = false) : s.actRequest f = .next (f s) := by
  rw [s.actRequest_next f h hr, (f s).settled_quiet ha ho hc]

/-- A command whose own effect is known. -/
theorem State.act_own (s t : State) (f : State → State) (h : s.node ≠ 63) (hf : f s = t) :
    s.act f = .next t.settled := by
  rw [s.act_next f h, hf]

/-- A request whose own effect is known. -/
theorem State.actRequest_own (s t : State) (f : State → State) (h : s.node ≠ 63)
    (hr : s.bli.restarting = false) (hf : f s = t) : s.actRequest f = .next t.settled := by
  rw [s.actRequest_next f h hr, hf]

end Sys2Proof.Machine
end

