-- ==== Sys2Proof/Laws/Bridge.lean ====
section
/-! SUPPORT. What a valid frame of the bridge does before it acts, the steps of a door group in order, and what a
step on an empty queue does. -/

namespace Sys2Proof.Machine

open Sys2Proof

/-! ### The silence timer -/

theorem State.heardBridge_eq (s : State) : s.heardBridge = s.timerRestarted := by
  unfold State.heardBridge State.timerRestarted Settings.bridgeTime State.endSilence
  cases s.bli.silence <;> rfl

/-- What the restart of the silence timer leaves alone. -/
theorem State.timerRestarted_calm (s : State) :
    s.timerRestarted.dls = s.dls ∧ s.timerRestarted.node = s.node ∧ s.timerRestarted.ts = s.ts
      ∧ s.timerRestarted.held = s.held ∧ s.timerRestarted.now = s.now
      ∧ s.timerRestarted.bli.restarting = s.bli.restarting ∧ s.timerRestarted.bli.queue = s.bli.queue := by
  unfold State.timerRestarted State.writeLocal
  cases s.bli.silence
  · simp
  · simp
  · simp only []
    split <;> simp

theorem State.timerRestarted_sec (s : State) (i : Fin 8) : s.timerRestarted.sec i = s.sec i := by
  simp only [State.sec, s.timerRestarted_calm.2.2.1]

theorem State.timerRestarted_firstMatch (s : State) (toDeck : Bool) (f : Frame) :
    s.timerRestarted.firstMatch toDeck f = s.firstMatch toDeck f := by
  unfold State.firstMatch
  simp only [State.sec, s.timerRestarted_calm.2.2.1]

theorem State.timerRestarted_room (s : State) (h : HasRoom s) : HasRoom s.timerRestarted := by
  unfold HasRoom
  rw [s.timerRestarted_calm.2.2.2.2.2.2]
  exact h

/-- A valid frame acts on the state whose silence timer it has restarted. -/
theorem State.bridgeFrameEnd_valid (s : State) (chars : List RxChar) (f : Frame) (h : Settled s)
    (hr : receive chars = some f) :
    exec (.bridgeFrameEnd chars) s = .next (State.settled (s.timerRestarted.route f)) := by
  have e : exec (.bridgeFrameEnd chars) s = s.act fun s => s.bridgeFrameEnd chars := rfl
  rw [e, State.act_next _ _ h.1]
  simp [State.bridgeFrameEnd, hr, h.2.2.2.2, State.heardBridge_eq]

/-- A request made to that state is its own effect. -/
theorem State.timerRestarted_request (s : State) (h : Settled s) (f : State → State) :
    s.timerRestarted.actRequest f = .next (State.settled (f s.timerRestarted)) := by
  have c := s.timerRestarted_calm
  apply State.actRequest_next
  · rw [c.2.1]; exact h.1
  · rw [c.2.2.2.2.2.1]; exact h.2.2.2.2

theorem State.timerRestarted_route (s : State) (f : Frame) (h : f.src ≠ s.node)
    (hc : f.cls = .command ∨ f.cls = .call) : s.timerRestarted.route f = s.timerRestarted.offerBridge f := by
  unfold State.route
  rw [s.timerRestarted_calm.2.1, if_neg h]
  rcases hc with hc | hc <;> simp [hc]

/-! ### The steps of a group -/

theorem Group.mem_active (r : Group) (k : Fin 8) : k ∈ r.active ↔ k.val < r.defn.doors.length := by
  unfold Group.active
  simp only [List.mem_filter, decide_eq_true_eq]
  constructor
  · exact fun h => h.2
  · have all : ∀ j : Fin 8, j ∈ allSteps := by decide
    exact fun h => ⟨all k, h⟩

theorem Group.active_sorted (r : Group) : r.active.Pairwise (· < ·) := by
  unfold Group.active
  exact List.Pairwise.filter _ (by decide)

/-- The first of a rising list that has a property. -/
theorem find?_first {l : List (Fin 8)} (h : l.Pairwise (· < ·)) (p : Fin 8 → Bool) (k : Fin 8) (hk : k ∈ l)
    (hp : p k = true) (hj : ∀ j, j ∈ l → j < k → p j = false) : l.find? p = some k := by
  induction l with
  | nil => simp at hk
  | cons a l ih =>
    rw [List.pairwise_cons] at h
    simp only [List.find?_cons]
    rcases List.mem_cons.1 hk with rfl | hk
    · rw [hp]
    · rw [hj a (by simp) (h.1 k hk)]
      exact ih h.2 hk fun j hm hl => hj j (by simp [hm]) hl

/-! ### The empty queue -/

theorem step_idle (s : State) (hp : s.pending = []) (hd : s.dueCommands = []) : step s = .next s.tick := by
  unfold step
  rw [hp, hd]

theorem step_due (s : State) (c : Instr) (rest : List Instr) (hp : s.pending = [])
    (hd : s.dueCommands = c :: rest) : step s = exec c s := by
  unfold step
  rw [hp, hd]

end Sys2Proof.Machine
end

