-- ==== Sys2Proof/Laws/Queue.lean ====
section
/-! SUPPORT. The bridge transmit queue: what placing a frame does, and that the queue keeps its capacity
and its keys apart. -/

namespace Sys2Proof.Machine

open Sys2Proof

theorem sameKey_comm (f g : Frame) : sameKey f g = sameKey g f := by
  simp only [sameKey]
  rw [Bool.and_comm (f.cls == .status), Bool.beq_comm (a := f.src), Bool.beq_comm (a := f.object)]

theorem sameKey_reply (f g : Frame) (h : g.cls = .reply) : sameKey f g = false := by
  simp [sameKey, h]

theorem sameKey_trans {f g h : Frame} (h1 : sameKey f g = true) : sameKey f h = sameKey g h := by
  simp [sameKey] at h1 ⊢
  obtain ⟨⟨⟨a, b⟩, c⟩, d⟩ := h1
  simp [a, b, c, d]

/-- Frames that are kept in a bridge transmit queue at most 32 long with its keys apart. -/
def QueueOk (q : List BridgeRec) : Prop :=
  q.length ≤ 32 ∧ q.Pairwise fun x y => sameKey x.frame y.frame = false

theorem replaceKey_length (r : BridgeRec) (q : List BridgeRec) : (replaceKey r q).length = q.length := by
  induction q with
  | nil => rfl
  | cons x xs ih => simp only [replaceKey]; split <;> simp [ih]

theorem replaceKey_mem (r : BridgeRec) (q : List BridgeRec) (y : BridgeRec)
    (h : y ∈ replaceKey r q) : y = r ∨ y ∈ q := by
  induction q with
  | nil => simp [replaceKey] at h
  | cons x xs ih =>
    simp only [replaceKey] at h
    split at h
    · simp at h; rcases h with h | h
      · exact .inl h
      · exact .inr (by simp [h])
    · simp at h; rcases h with h | h
      · exact .inr (by simp [h])
      · rcases ih h with h | h
        · exact .inl h
        · exact .inr (by simp [h])

theorem replaceKey_pairwise (r : BridgeRec) (q : List BridgeRec)
    (h : q.Pairwise fun x y => sameKey x.frame y.frame = false) :
    (replaceKey r q).Pairwise fun x y => sameKey x.frame y.frame = false := by
  induction q with
  | nil => simp [replaceKey]
  | cons x xs ih =>
    rw [List.pairwise_cons] at h
    simp only [replaceKey]
    split
    · rename_i hk
      rw [List.pairwise_cons]
      refine ⟨fun y hy => ?_, h.2⟩
      rw [← sameKey_trans hk]; exact h.1 y hy
    · rename_i hk
      rw [List.pairwise_cons]
      refine ⟨fun y hy => ?_, ih h.2⟩
      rcases replaceKey_mem r xs y hy with e | e
      · subst e; simpa using hk
      · exact h.1 y e

theorem dropOldestStatus_sublist (q : List BridgeRec) : (dropOldestStatus q).Sublist q := by
  induction q with
  | nil => exact .slnil
  | cons x xs ih => simp only [dropOldestStatus]; split
                    · exact List.sublist_cons_self x xs
                    · exact ih.cons_cons x

theorem dropOldestStatus_length (q : List BridgeRec) (h : q.any (fun x => x.frame.cls == .status) = true) :
    (dropOldestStatus q).length + 1 = q.length := by
  induction q with
  | nil => simp at h
  | cons x xs ih =>
    simp only [dropOldestStatus]
    split
    · simp
    · rename_i hx
      simp [hx] at h
      simp [ih (by simpa using h)]

theorem pairwise_append_one (q : List BridgeRec) (r : BridgeRec)
    (h : q.Pairwise fun x y => sameKey x.frame y.frame = false)
    (hr : ∀ x ∈ q, sameKey x.frame r.frame = false) :
    (q ++ [r]).Pairwise fun x y => sameKey x.frame y.frame = false := by
  rw [List.pairwise_append]
  exact ⟨h, List.pairwise_singleton _ _, fun x hx y hy => by simp at hy; subst hy; exact hr x hx⟩

/-- Placing a frame keeps the queue's capacity and keys (R76, R77). -/
theorem enqueue_ok (q : List BridgeRec) (r : BridgeRec) (h : QueueOk q) : QueueOk (enqueue q r).1 := by
  obtain ⟨hl, hp⟩ := h
  unfold enqueue
  split
  · exact ⟨by rw [replaceKey_length]; exact hl, replaceKey_pairwise r q hp⟩
  · rename_i hk
    have hr : ∀ x ∈ q, sameKey x.frame r.frame = false := by simpa using hk
    split
    · rename_i hlt
      exact ⟨by simp [Config.bridgeQueueSize] at hlt ⊢; omega, pairwise_append_one q r hp hr⟩
    · split
      · rename_i hs
        have hd := dropOldestStatus_length q hs
        have hsub := dropOldestStatus_sublist q
        exact ⟨by simp; omega,
          pairwise_append_one _ r (hp.sublist hsub) fun x hx => hr x (hsub.subset hx)⟩
      · exact ⟨hl, hp⟩

theorem queueOk_tail (x : BridgeRec) (q : List BridgeRec) (h : QueueOk (x :: q)) : QueueOk q :=
  ⟨by have := h.1; simp at this; omega, (List.pairwise_cons.mp h.2).2⟩

theorem State.kickBridge_ok (s : State) (h : QueueOk s.bli.queue) : QueueOk s.kickBridge.bli.queue := by
  unfold State.kickBridge
  split
  · rename_i r rest _ hq
    rw [hq] at h
    exact queueOk_tail r rest h
  · exact h

theorem State.placeRaw_ok (s : State) (r : BridgeRec) (h : QueueOk s.bli.queue) :
    QueueOk (s.placeRaw r).1.bli.queue :=
  State.kickBridge_ok _ (enqueue_ok _ _ h)

/-- A frame with no same-key partner, placed while there is room, joins the end (R76). -/
theorem enqueue_joins (q : List BridgeRec) (r : BridgeRec)
    (hk : q.any (fun x => sameKey x.frame r.frame) = false) (hl : q.length < 32) :
    enqueue q r = (q ++ [r], .joined) := by
  simp [enqueue, hk, hl, Config.bridgeQueueSize]

/-- A REPLY placed while there is room joins the end of the queue (R76). -/
theorem State.place_reply (s : State) (f : Frame) (hf : f.cls = .reply) (h : HasRoom s) :
    s.place { frame := f, restartReply := false } = s.queued f := by
  have hk : s.bli.queue.any
      (fun x => sameKey x.frame (BridgeRec.mk f false).frame) = false := by
    simp [sameKey_reply _ f hf]
  have he := enqueue_joins _ _ hk h
  simp only [State.place, State.placeRaw, he, State.queued]

theorem State.reply_queued (s : State) (dest : NodeNo) (object : Byte) (code : Result)
    (payload : List Byte) (h : HasRoom s) :
    s.reply dest object code payload = s.queued (s.replyFrame dest object code payload) :=
  s.place_reply _ rfl h

end Sys2Proof.Machine
end

