-- ==== Sys2Proof/Laws/Keeps.lean ====
section
/-! SUPPORT. What every operation keeps: the facts of Safety.lean as a relation between a state and a later
one, closed under the operations; first the base operations on records, entries, queues and flags. -/

namespace Sys2Proof.Machine

open Sys2Proof

/-- Entry 11 holds the summary value. -/
def Told (s : State) : Prop := s.img.locals.at 11 = s.fc.summary.zeroExtend 8

/-- Each fact that holds of the first state holds of the second. -/
structure Keeps (s t : State) : Prop where
  tables : TablesOk s → TablesOk t
  bridge : BridgeQueueOk s → BridgeQueueOk t
  deck : DeckQueueOk s → DeckQueueOk t
  held : HeldListOk s → HeldListOk t
  ramps : RampsOk s → RampsOk t
  published : PublishedOk s → PublishedOk t
  summary : SummaryOk s → SummaryOk t
  told : Told s → Told t

theorem Keeps.refl (s : State) : Keeps s s := ⟨id, id, id, id, id, id, id, id⟩

theorem Keeps.trans {s t u : State} (h : Keeps s t) (k : Keeps t u) : Keeps s u :=
  ⟨k.tables ∘ h.tables, k.bridge ∘ h.bridge, k.deck ∘ h.deck, k.held ∘ h.held, k.ramps ∘ h.ramps,
    k.published ∘ h.published, k.summary ∘ h.summary, k.told ∘ h.told⟩

/-- A change of nothing that the facts speak of. -/
theorem Keeps.same {s t u : State} (h : Keeps s t) (h1 : u.ts.secs = t.ts.secs)
    (h2 : u.bli.queue = t.bli.queue) (h3 : u.dls.urgent = t.dls.urgent)
    (h4 : u.dls.normal = t.dls.normal) (h5 : u.held = t.held) (h6 : u.ramps = t.ramps)
    (h7 : u.dcc.deck = t.dcc.deck) (h8 : u.groups = t.groups) (h9 : u.img.locals = t.img.locals)
    (h10 : u.fc.flags = t.fc.flags) (h11 : u.fc.masks = t.fc.masks)
    (h12 : u.fc.summaryMasks = t.fc.summaryMasks) (h13 : u.fc.summary = t.fc.summary)
    (h14 : u.fc.alarm = t.fc.alarm) : Keeps s u := by
  refine h.trans ⟨?_, ?_, ?_, ?_, ?_, ?_, ?_, ?_⟩
  · intro k i; simpa [State.sec, h1] using k i
  · intro k; simpa [BridgeQueueOk, h2] using k
  · intro k; simpa [DeckQueueOk, h3, h4] using k
  · intro k; simpa [HeldListOk, h5] using k
  · intro k; simpa [RampsOk, h6] using k
  · intro k; simpa [PublishedOk, h7, h8, h9, h6, State.ramp, State.group] using k
  · intro k; simpa [SummaryOk, h9, h10, h11, h12, h13, h14] using k
  · intro k; simpa [Told, h9, h13] using k

/-- A fold of kept steps is kept. -/
theorem Keeps.foldl {α : Type} {s : State} (f : State → α → State)
    (hf : ∀ t x, Keeps s t → Keeps s (f t x)) (l : List α) {t : State} (h : Keeps s t) :
    Keeps s (l.foldl f t) := by
  induction l generalizing t with
  | nil => exact h
  | cons x xs ih => exact ih (hf t x h)

/-! ### Records -/

theorem Keeps.setRamp {s t : State} (h : Keeps s t) (ch : Channel) (r : Ramp)
    (hq : RampQuiet (t.ramp ch) → RampQuiet r) (hs : r.state = (t.ramp ch).state) :
    Keeps s (t.setRamp ch r) := by
  refine h.trans ⟨id, id, id, id, ?_, ?_, id, id⟩
  · intro k
    cases ch with
    | a => exact ⟨hq k.1, k.2⟩
    | b => exact ⟨k.1, hq k.2⟩
  · rintro ⟨k0, k1, k2⟩
    refine ⟨k0, fun c => ?_, k2⟩
    have := k1 c
    cases ch <;> cases c <;> first | exact this | (rw [show (t.setRamp _ r).ramp _ = r from rfl, hs]; exact this)

theorem Keeps.setGroup {s t : State} (h : Keeps s t) (g : Fin 4) (r : Group)
    (hs : r.state = (t.group g).state) : Keeps s (t.setGroup g r) := by
  refine h.trans ⟨id, id, id, id, id, ?_, id, id⟩
  rintro ⟨k0, k1, k2⟩
  refine ⟨k0, k1, fun g' => ?_⟩
  by_cases hg : g = g'
  · subst hg; rw [State.group_setGroup_self, hs]; exact k2 g
  · rw [State.group_setGroup_ne _ _ hg]; exact k2 g'

theorem Keeps.setStep {s t : State} (h : Keeps s t) (g : Fin 4) (k : Fin 8) (x : Step) :
    Keeps s (t.setStep g k x) := h.setGroup g _ rfl

theorem Keeps.setZone {s t : State} (h : Keeps s t) (z : Fin 12) (x : Zone) : Keeps s (t.setZone z x) :=
  h.same rfl rfl rfl rfl rfl rfl rfl rfl rfl rfl rfl rfl rfl rfl

theorem Keeps.setCall {s t : State} (h : Keeps s t) (e : Fin 16) (x : Option Call) :
    Keeps s (t.setCall e x) :=
  h.same rfl rfl rfl rfl rfl rfl rfl rfl rfl rfl rfl rfl rfl rfl

theorem Keeps.setShown {s t : State} (h : Keeps s t) (b : Fin 8) (x : Shown) :
    Keeps s (t.setShown b x) :=
  h.same rfl rfl rfl rfl rfl rfl rfl rfl rfl rfl rfl rfl rfl rfl

theorem Keeps.setRemote {s t : State} (h : Keeps s t) (d : Fin 96) (x : Remote) :
    Keeps s (t.setRemote d x) :=
  h.same rfl rfl rfl rfl rfl rfl rfl rfl rfl rfl rfl rfl rfl rfl

theorem Keeps.setChannelPins {s t : State} (h : Keeps s t) (ch : Channel) (x : ChannelPins) :
    Keeps s (t.setChannelPins ch x) :=
  h.same rfl rfl rfl rfl rfl rfl rfl rfl rfl rfl rfl rfl rfl rfl

theorem Keeps.push {s t : State} (h : Keeps s t) (x : Task) : Keeps s (t.push x) :=
  h.same rfl rfl rfl rfl rfl rfl rfl rfl rfl rfl rfl rfl rfl rfl

theorem Keeps.reach {s t : State} (h : Keeps s t) (d : Nat) : Keeps s (t.reach d) :=
  h.same rfl rfl rfl rfl rfl rfl rfl rfl rfl rfl rfl rfl rfl rfl

theorem Keeps.setSec {s t : State} (h : Keeps s t) (i : Fin 8) (x : Sec)
    (hx : TablesOk t → x.active.wf = true ∧ x.standby.wf = true) : Keeps s (t.setSec i x) := by
  refine h.trans ⟨?_, id, id, id, id, id, id, id⟩
  intro k j
  by_cases hij : i = j
  · subst hij; rw [State.sec_setSec_self]; exact hx k
  · rw [State.sec_setSec_ne _ _ hij]; exact k j

/-! ### Entries -/

/-- Whether a local entry is one of those the facts speak of. -/
def watchedEntry (i : Fin 32) : Bool := ([0, 1, 2, 5, 6, 7, 8, 11] : List (Fin 32)).contains i

theorem State.writeLocal_locals (s : State) (i : Fin 32) (v : Byte) :
    (s.writeLocal i v).img.locals = s.img.locals.put i v := by
  unfold State.writeLocal
  split
  · rename_i h
    subst h
    simp [Tab.put, Tab.at]
  · rfl

theorem Keeps.ofLocals {s t u : State} (h : Keeps s t) (i : Fin 32) (v : Byte)
    (hi : watchedEntry i = false) (hl : u.img.locals = t.img.locals.put i v)
    (h1 : u.ts.secs = t.ts.secs)
    (h2 : u.bli.queue = t.bli.queue) (h3 : u.dls.urgent = t.dls.urgent)
    (h4 : u.dls.normal = t.dls.normal) (h5 : u.held = t.held) (h6 : u.ramps = t.ramps)
    (h7 : u.dcc.deck = t.dcc.deck) (h8 : u.groups = t.groups)
    (h10 : u.fc = t.fc) : Keeps s u := by
  have hne : ∀ j, watchedEntry j = true → u.img.locals.at j = t.img.locals.at j := by
    intro j hj
    rw [hl, Tab.at_put_ne]
    intro e; subst e; rw [hi] at hj; exact absurd hj (by decide)
  refine h.trans ⟨?_, ?_, ?_, ?_, ?_, ?_, ?_, ?_⟩
  · intro k i; simpa [State.sec, h1] using k i
  · intro k; simpa [BridgeQueueOk, h2] using k
  · intro k; simpa [DeckQueueOk, h3, h4] using k
  · intro k; simpa [HeldListOk, h5] using k
  · intro k; simpa [RampsOk, h6] using k
  · rintro ⟨k0, k1, k2⟩
    refine ⟨?_, fun c => ?_, fun g => ?_⟩
    · rw [hne 0 rfl, h7]; exact k0
    · rw [hne _ (by cases c <;> rfl), State.ramp, h6]; exact k1 c
    · rw [hne _ (by revert g; decide), State.group, h8]; exact k2 g
  · intro k
    unfold SummaryOk at *
    rw [hne 11 rfl, h10]; exact k
  · intro k
    unfold Told at *
    rw [hne 11 rfl, h10]; exact k

theorem Keeps.writeLocal {s t : State} (h : Keeps s t) (i : Fin 32) (v : Byte)
    (hi : watchedEntry i = false) : Keeps s (t.writeLocal i v) := by
  refine h.ofLocals i v hi (t.writeLocal_locals i v) ?_ ?_ ?_ ?_ ?_ ?_ ?_ ?_ ?_ <;>
    (unfold State.writeLocal; split <;> rfl)

theorem Keeps.changeRemote {s t : State} (h : Keeps s t) (d : Fin 96) (r : Remote) :
    Keeps s (t.changeRemote d r) := by
  unfold State.changeRemote
  dsimp only
  split
  · exact h.setRemote d r
  · exact (h.setRemote d r).push _

/-! ### Frames to the bridge -/

/-- What placing a frame and raising a flag leave alone. -/
structure Calm (s t : State) : Prop where
  pending : t.pending = s.pending
  now : t.now = s.now
  straps : t.straps = s.straps
  node : t.node = s.node
  pins : t.pins = s.pins
  dls : t.dls = s.dls
  dcc : t.dcc = s.dcc
  held : t.held = s.held
  ramps : t.ramps = s.ramps
  estop : t.estop = s.estop
  groups : t.groups = s.groups
  cl : t.cl = s.cl
  bd : t.bd = s.bd
  ts : t.ts = s.ts
  settings : t.settings = s.settings
  remotes : t.img.remotes = s.img.remotes
  defs : t.img.defs = s.img.defs
  pointer : t.img.pointer = s.img.pointer
  pass : t.img.pass = s.img.pass
  silence : t.bli.silence = s.bli.silence
  restarting : t.bli.restarting = s.bli.restarting
  masks : t.fc.masks = s.fc.masks
  summaryMasks : t.fc.summaryMasks = s.fc.summaryMasks
  test : t.fc.test = s.fc.test
  last : t.fc.last = s.fc.last
  flags : t.fc.flags ||| s.fc.flags = t.fc.flags
  agenda : s.agenda <+: t.agenda

/-- What was set stays set when more is set over it. -/
theorem flags_trans {x y z : BitVec 35} (h : y ||| x = y) (k : z ||| y = z) : z ||| x = z := by
  rw [← k, BitVec.or_assoc, h]

theorem flags_or (x y : BitVec 35) : (x ||| y) ||| x = x ||| y := by
  rw [BitVec.or_comm x y, BitVec.or_assoc, BitVec.or_self]

/-- A change of nothing that calmness speaks of but a part of the bridge line or the local entries. -/
theorem Calm.ofBli (s : State) (x : Bli) (h1 : x.silence = s.bli.silence)
    (h2 : x.restarting = s.bli.restarting) : Calm s { s with bli := x } :=
  ⟨rfl, rfl, rfl, rfl, rfl, rfl, rfl, rfl, rfl, rfl, rfl, rfl, rfl, rfl, rfl, rfl, rfl, rfl, rfl, h1, h2, rfl,
    rfl, rfl, rfl, BitVec.or_self, List.prefix_rfl⟩

theorem Calm.refl (s : State) : Calm s s := Calm.ofBli s s.bli rfl rfl

theorem Calm.trans {s t u : State} (h : Calm s t) (k : Calm t u) : Calm s u := by
  refine ⟨?_, ?_, ?_, ?_, ?_, ?_, ?_, ?_, ?_, ?_, ?_, ?_, ?_, ?_, ?_, ?_, ?_, ?_, ?_, ?_, ?_, ?_, ?_, ?_, ?_,
    flags_trans h.flags k.flags, h.agenda.trans k.agenda⟩ <;> simp [h.pending, h.now, h.straps, h.node, h.pins, h.dls, h.dcc, h.held, h.ramps,
    h.estop, h.groups, h.cl, h.bd, h.ts, h.settings, h.remotes, h.defs, h.pointer, h.pass, h.silence,
    h.restarting, h.masks, h.summaryMasks, h.test, h.last, k.pending, k.now, k.straps, k.node, k.pins,
    k.dls, k.dcc, k.held, k.ramps, k.estop, k.groups, k.cl, k.bd, k.ts, k.settings, k.remotes, k.defs,
    k.pointer, k.pass, k.silence, k.restarting, k.masks, k.summaryMasks, k.test, k.last]

theorem State.kickBridge_calm (s : State) : Calm s s.kickBridge := by
  unfold State.kickBridge
  split
  · exact Calm.ofBli s _ rfl rfl
  · exact Calm.refl s

theorem State.placeRaw_calm (s : State) (r : BridgeRec) : Calm s (s.placeRaw r).1 := by
  have h : Calm s { s with bli := { s.bli with queue := (enqueue s.bli.queue r).1 } } :=
    Calm.ofBli s _ rfl rfl
  exact h.trans (State.kickBridge_calm _)

theorem State.writeLocal_calm (s : State) (i : Fin 32) (v : Byte) : Calm s (s.writeLocal i v) := by
  unfold State.writeLocal
  split
  · exact Calm.refl s
  · exact ⟨rfl, rfl, rfl, rfl, rfl, rfl, rfl, rfl, rfl, rfl, rfl, rfl, rfl, rfl, rfl, rfl, rfl, rfl, rfl, rfl,
      rfl, rfl, rfl, rfl, rfl, BitVec.or_self, List.prefix_append _ _⟩

theorem State.push_calm (s : State) (t : Task) : Calm s (s.push t) :=
  ⟨rfl, rfl, rfl, rfl, rfl, rfl, rfl, rfl, rfl, rfl, rfl, rfl, rfl, rfl, rfl, rfl, rfl, rfl, rfl, rfl,
    rfl, rfl, rfl, rfl, rfl, BitVec.or_self, List.prefix_append _ _⟩

theorem State.setFlag_calm (s : State) (f : Flag) : Calm s (s.setFlag f) :=
  ⟨rfl, rfl, rfl, rfl, rfl, rfl, rfl, rfl, rfl, rfl, rfl, rfl, rfl, rfl, rfl, rfl, rfl, rfl, rfl, rfl,
    rfl, rfl, rfl, rfl, rfl, flags_or _ _, List.prefix_rfl⟩

theorem State.takeSummary_calm (s : State) (sum : BitVec 7) (alarm : Bool) :
    Calm s (s.takeSummary sum alarm) := by
  have h : Calm s { s with fc := { s.fc with summary := sum, alarm := alarm, owed := true } } :=
    ⟨rfl, rfl, rfl, rfl, rfl, rfl, rfl, rfl, rfl, rfl, rfl, rfl, rfl, rfl, rfl, rfl, rfl, rfl, rfl, rfl,
      rfl, rfl, rfl, rfl, rfl, BitVec.or_self, List.prefix_rfl⟩
  exact h.trans (State.writeLocal_calm _ _ _)

theorem State.reform_calm (s : State) : Calm s s.reform := by
  unfold State.reform
  dsimp only
  split
  · exact Calm.refl s
  · exact State.takeSummary_calm _ _ _

theorem State.raiseFlag_calm (s : State) (f : Flag) : Calm s (s.raiseFlag f) :=
  (s.setFlag_calm f).trans (State.reform_calm _)

theorem State.place_calm (s : State) (r : BridgeRec) : Calm s (s.place r) := by
  have h := s.placeRaw_calm r
  unfold State.place
  split <;> rename_i t heq <;> rw [heq] at h
  · exact h
  · exact h.trans (State.raiseFlag_calm _ _)
  · dsimp only
    split
    · exact (h.trans (State.raiseFlag_calm _ _)).trans (State.push_calm _ _)
    · exact h.trans (State.raiseFlag_calm _ _)

theorem State.reply_calm (s : State) (n : NodeNo) (o : Byte) (c : Result) (p : List Byte) :
    Calm s (s.reply n o c p) := s.place_calm _

theorem State.refuse_calm (s : State) (n : NodeNo) (o : Byte) (r : Reason) (l : Bool) :
    Calm s (s.refuse n o r l) := s.place_calm _

theorem State.notice_calm (s : State) (o v : Byte) (p : List Byte) : Calm s (s.notice o v p) :=
  s.place_calm _

theorem State.owe_calm (s : State) (b : Bool) : Calm s { s with fc := { s.fc with owed := b } } :=
  ⟨rfl, rfl, rfl, rfl, rfl, rfl, rfl, rfl, rfl, rfl, rfl, rfl, rfl, rfl, rfl, rfl, rfl, rfl, rfl, rfl,
    rfl, rfl, rfl, rfl, rfl, BitVec.or_self, List.prefix_rfl⟩

theorem State.announce_calm (s : State) : Calm s s.announce :=
  (s.owe_calm false).trans (State.notice_calm _ _ _ _)

/-! ### The entries and the queue after flags and frames -/

theorem State.kickBridge_img (s : State) : s.kickBridge.img = s.img := by
  unfold State.kickBridge; split <;> rfl

theorem State.kickBridge_fc (s : State) : s.kickBridge.fc = s.fc := by
  unfold State.kickBridge; split <;> rfl

theorem State.placeRaw_img (s : State) (r : BridgeRec) : (s.placeRaw r).1.img = s.img :=
  State.kickBridge_img _

theorem State.placeRaw_fc (s : State) (r : BridgeRec) : (s.placeRaw r).1.fc = s.fc :=
  State.kickBridge_fc _

theorem State.takeSummary_fc (s : State) (sum : BitVec 7) (alarm : Bool) :
    (s.takeSummary sum alarm).fc = { s.fc with summary := sum, alarm := alarm, owed := true } := by
  unfold State.takeSummary State.writeLocal; split <;> rfl

theorem State.takeSummary_locals (s : State) (sum : BitVec 7) (alarm : Bool) :
    (s.takeSummary sum alarm).img.locals = s.img.locals.put 11 (sum.zeroExtend 8) :=
  State.writeLocal_locals _ _ _

theorem State.takeSummary_bli (s : State) (sum : BitVec 7) (alarm : Bool) :
    (s.takeSummary sum alarm).bli = s.bli := by
  unfold State.takeSummary State.writeLocal; split <;> rfl

/-- Of the local entries the summaries write entry 11 alone (R188). -/
theorem State.reform_locals (s : State) (i : Fin 32) (hi : 11 ≠ i) :
    s.reform.img.locals.at i = s.img.locals.at i := by
  unfold State.reform
  dsimp only
  split
  · rfl
  · rw [State.takeSummary_locals, Tab.at_put_ne _ _ hi]

theorem State.reform_bli (s : State) : s.reform.bli = s.bli := by
  unfold State.reform
  dsimp only
  split
  · rfl
  · exact State.takeSummary_bli _ _ _

theorem State.reform_flags (s : State) : s.reform.fc.flags = s.fc.flags := by
  unfold State.reform
  dsimp only
  split
  · rfl
  · rw [State.takeSummary_fc]

theorem Flag.bit_or (x : BitVec 35) (f : Flag) : (x ||| f.bit) ||| f.bit = x ||| f.bit := by
  rw [BitVec.or_assoc, BitVec.or_self]

theorem State.reform_still (s : State) (h : SummaryOk s) : s.reform = s := by
  unfold State.reform
  dsimp only
  rw [if_pos ⟨h.1.symm, by rw [h.2.1, h.1]⟩]

/-- The summaries formed: value, alarm state and entry 11 follow the flags and masks (R188, R189). -/
theorem State.reform_ok (s : State) (ht : Told s) : SummaryOk s.reform := by
  unfold State.reform
  dsimp only
  split
  · rename_i h
    exact ⟨h.1.symm, by rw [← h.1]; exact h.2.symm, ht⟩
  · refine ⟨?_, ?_, ?_⟩
    · rw [State.takeSummary_fc]
    · rw [State.takeSummary_fc]
    · rw [State.takeSummary_fc, State.takeSummary_locals, Tab.at_put_self]

/-! ### Flags and frames keep the facts -/

theorem Keeps.ofCalm {s t u : State} (h : Keeps s t) (c : Calm t u)
    (hq : QueueOk t.bli.queue → QueueOk u.bli.queue)
    (hl : ∀ i : Fin 32, 11 ≠ i → u.img.locals.at i = t.img.locals.at i)
    (hs : SummaryOk t → SummaryOk u) (ht : Told t → Told u) : Keeps s u := by
  refine h.trans ⟨?_, hq, ?_, ?_, ?_, ?_, hs, ht⟩
  · intro k i; simpa [State.sec, c.ts] using k i
  · intro k; simpa [DeckQueueOk, c.dls] using k
  · intro k; simpa [HeldListOk, c.held] using k
  · intro k; simpa [RampsOk, c.ramps] using k
  · rintro ⟨k0, k1, k2⟩
    refine ⟨?_, fun ch => ?_, fun g => ?_⟩
    · rw [hl 0 (by decide), c.dcc]; exact k0
    · rw [hl _ (by cases ch <;> decide), State.ramp, c.ramps]; exact k1 ch
    · rw [hl _ (by revert g; decide), State.group, c.groups]; exact k2 g

theorem State.raiseFlag_ok (s : State) (f : Flag) (h : Told s) : SummaryOk (s.raiseFlag f) := by
  rw [State.raiseFlag]
  exact State.reform_ok (s.setFlag f) h

theorem State.raiseFlag_locals (s : State) (f : Flag) (i : Fin 32) (hi : 11 ≠ i) :
    (s.raiseFlag f).img.locals.at i = s.img.locals.at i := by
  rw [State.raiseFlag, State.reform_locals _ i hi]
  rfl

theorem State.raiseFlag_bli (s : State) (f : Flag) : (s.raiseFlag f).bli = s.bli :=
  State.reform_bli (s.setFlag f)

theorem Keeps.raiseFlag {s t : State} (h : Keeps s t) (f : Flag) : Keeps s (t.raiseFlag f) :=
  h.ofCalm (t.raiseFlag_calm f) (fun k => by rw [t.raiseFlag_bli f]; exact k) (t.raiseFlag_locals f)
    (fun k => t.raiseFlag_ok f k.2.2) fun k => (t.raiseFlag_ok f k).2.2

theorem Keeps.reform {s t : State} (h : Keeps s t) : Keeps s t.reform :=
  h.ofCalm t.reform_calm (fun k => by rw [t.reform_bli]; exact k) t.reform_locals
    (fun k => t.reform_ok k.2.2) fun k => (t.reform_ok k).2.2

theorem Keeps.owe {s t : State} (h : Keeps s t) (b : Bool) :
    Keeps s { t with fc := { t.fc with owed := b } } :=
  h.same rfl rfl rfl rfl rfl rfl rfl rfl rfl rfl rfl rfl rfl rfl

theorem Keeps.placeRaw {s t : State} (h : Keeps s t) (r : BridgeRec) : Keeps s (t.placeRaw r).1 := by
  refine h.ofCalm (t.placeRaw_calm r) (t.placeRaw_ok r) (fun i _ => ?_) (fun k => ?_) fun k => ?_
  · rw [State.placeRaw_img]
  · unfold SummaryOk; rw [State.placeRaw_fc, State.placeRaw_img]; exact k
  · unfold Told; rw [State.placeRaw_fc, State.placeRaw_img]; exact k

theorem Keeps.place {s t : State} (h : Keeps s t) (r : BridgeRec) : Keeps s (t.place r) := by
  have k := h.placeRaw r
  unfold State.place
  split <;> rename_i u heq <;> rw [heq] at k
  · exact k
  · exact k.raiseFlag _
  · dsimp only
    split
    · exact (k.raiseFlag _).push _
    · exact k.raiseFlag _

theorem Keeps.reply {s t : State} (h : Keeps s t) (n : NodeNo) (o : Byte) (c : Result)
    (p : List Byte) : Keeps s (t.reply n o c p) := h.place _

theorem Keeps.refuse {s t : State} (h : Keeps s t) (n : NodeNo) (o : Byte) (r : Reason) (l : Bool) :
    Keeps s (t.refuse n o r l) := h.place _

theorem Keeps.notice {s t : State} (h : Keeps s t) (o v : Byte) (p : List Byte) :
    Keeps s (t.notice o v p) := h.place _

theorem Keeps.announce {s t : State} (h : Keeps s t) : Keeps s t.announce := (h.owe false).notice _ _ _

/-- Of the local entries a placed frame can change entry 11 alone, through a flag (R77, R188). -/
theorem State.place_locals (s : State) (r : BridgeRec) (i : Fin 32) (hi : 11 ≠ i) :
    (s.place r).img.locals.at i = s.img.locals.at i := by
  have h : (s.placeRaw r).1.img.locals.at i = s.img.locals.at i := by rw [State.placeRaw_img]
  unfold State.place
  split <;> rename_i t heq <;> rw [heq] at h
  · exact h
  · rw [State.raiseFlag_locals _ _ _ hi]; exact h
  · dsimp only
    split
    · rw [State.push_img, State.raiseFlag_locals _ _ _ hi]; exact h
    · rw [State.raiseFlag_locals _ _ _ hi]; exact h

/-! ### Updates of single fields -/

theorem Keeps.withCl {s t : State} (h : Keeps s t) (x : CallList) : Keeps s { t with cl := x } :=
  h.same rfl rfl rfl rfl rfl rfl rfl rfl rfl rfl rfl rfl rfl rfl

theorem Keeps.withBd {s t : State} (h : Keeps s t) (x : Bd) : Keeps s { t with bd := x } :=
  h.same rfl rfl rfl rfl rfl rfl rfl rfl rfl rfl rfl rfl rfl rfl

theorem Keeps.withPins {s t : State} (h : Keeps s t) (x : Pins) : Keeps s { t with pins := x } :=
  h.same rfl rfl rfl rfl rfl rfl rfl rfl rfl rfl rfl rfl rfl rfl

theorem Keeps.withEstop {s t : State} (h : Keeps s t) (x : InputFilter) :
    Keeps s { t with estop := x } :=
  h.same rfl rfl rfl rfl rfl rfl rfl rfl rfl rfl rfl rfl rfl rfl

theorem Keeps.withNow {s t : State} (h : Keeps s t) (x : Nat) : Keeps s { t with now := x } :=
  h.same rfl rfl rfl rfl rfl rfl rfl rfl rfl rfl rfl rfl rfl rfl

theorem Keeps.withAgenda {s t : State} (h : Keeps s t) (x : List Task) :
    Keeps s { t with agenda := x } :=
  h.same rfl rfl rfl rfl rfl rfl rfl rfl rfl rfl rfl rfl rfl rfl

theorem Keeps.withPending {s t : State} (h : Keeps s t) (x : List Instr) :
    Keeps s { t with pending := x } :=
  h.same rfl rfl rfl rfl rfl rfl rfl rfl rfl rfl rfl rfl rfl rfl

theorem Keeps.withTs {s t : State} (h : Keeps s t) (x : Ts) (hx : x.secs = t.ts.secs) :
    Keeps s { t with ts := x } :=
  h.same hx rfl rfl rfl rfl rfl rfl rfl rfl rfl rfl rfl rfl rfl

theorem Keeps.withBli {s t : State} (h : Keeps s t) (x : Bli) (hx : x.queue = t.bli.queue) :
    Keeps s { t with bli := x } :=
  h.same rfl hx rfl rfl rfl rfl rfl rfl rfl rfl rfl rfl rfl rfl

theorem Keeps.withImg {s t : State} (h : Keeps s t) (x : Image) (hx : x.locals = t.img.locals) :
    Keeps s { t with img := x } :=
  h.same rfl rfl rfl rfl rfl rfl rfl rfl hx rfl rfl rfl rfl rfl

theorem Keeps.withDcc {s t : State} (h : Keeps s t) (x : Dcc) (hx : x.deck = t.dcc.deck) :
    Keeps s { t with dcc := x } :=
  h.same rfl rfl rfl rfl rfl rfl hx rfl rfl rfl rfl rfl rfl rfl

theorem Keeps.withDls {s t : State} (h : Keeps s t) (x : Dls)
    (hx : DeckQueueOk t → x.urgent.length + x.normal.length ≤ 24 ∧ x.normal.length ≤ 16) :
    Keeps s { t with dls := x } :=
  h.trans ⟨id, id, hx, id, id, id, id, id⟩

theorem Keeps.withFc {s t : State} (h : Keeps s t) (x : Fc) (h1 : x.flags = t.fc.flags)
    (h2 : x.masks = t.fc.masks) (h3 : x.summaryMasks = t.fc.summaryMasks)
    (h4 : x.summary = t.fc.summary) (h5 : x.alarm = t.fc.alarm) : Keeps s { t with fc := x } :=
  h.same rfl rfl rfl rfl rfl rfl rfl rfl rfl h1 h2 h3 h4 h5

/-! ### The deck transmit queue, proof tests -/

/-- Admission keeps the capacities (R69). -/
theorem Keeps.offer {s t : State} (h : Keeps s t) (r : DeckRec) : Keeps s (t.offer r).1 := by
  unfold State.offer
  split
  · rename_i hp
    refine h.withDls _ fun k => ?_
    obtain ⟨k1, k2⟩ := k
    have hp1 : t.dls.urgent.length + t.dls.normal.length < 24 := by
      simp [Dls.hasPlace, Config.deckQueueSize] at hp; exact of_decide_eq_true hp.1
    have hp2 : r.urgent = true ∨ t.dls.normal.length < 16 := by
      simp [Dls.hasPlace, Config.deckNormalSize] at hp; exact hp.2.imp id of_decide_eq_true
    unfold Dls.accept
    cases hu : r.urgent <;> simp [hu] at hp2 ⊢ <;> omega
  · exact h

theorem Keeps.offer_eq {s t u : State} {r : DeckRec} {b : Bool} (h : Keeps s t)
    (e : t.offer r = (u, b)) : Keeps s u := by
  have := h.offer r
  rw [e] at this
  exact this

theorem Keeps.zeroTestCount {s t : State} (h : Keeps s t) (id : TestId) :
    Keeps s (t.zeroTestCount id) := by
  cases id with
  | overspeed ch => exact h.setRamp ch _ (fun k => k) rfl
  | overload ch => exact h.setRamp ch _ (fun k => k) rfl
  | landInput ch => exact h
  | scrub => exact h

theorem Keeps.endTest {s t : State} (h : Keeps s t) (r : TestResult) : Keeps s (t.endTest r) := by
  unfold State.endTest
  split
  · exact h
  · dsimp only
    refine Keeps.notice ?_ _ _ _
    apply Keeps.withFc (h.zeroTestCount _) <;> rfl

theorem Keeps.abortTestOn {s t : State} (h : Keeps s t) (ch : Channel) :
    Keeps s (t.abortTestOn ch) := by
  unfold State.abortTestOn
  split
  · exact h.endTest _
  · exact h

/-! ### What the call list and the two queues leave alone -/

theorem Grows.refl (s : State) : Grows s s :=
  ⟨rfl, rfl, rfl, List.prefix_rfl, List.prefix_rfl, rfl, rfl, BitVec.or_self, List.prefix_rfl⟩

theorem Grows.trans {s t u : State} (h : Grows s t) (k : Grows t u) : Grows s u :=
  ⟨k.line.trans h.line, k.tx.trans h.tx, k.alternation.trans h.alternation, h.urgent.trans k.urgent,
    h.normal.trans k.normal, k.recs.trans h.recs, k.patterns.trans h.patterns,
    flags_trans h.flags k.flags, h.agenda.trans k.agenda⟩

theorem Grows.ofCalm {s t : State} (k : Calm s t) : Grows s t :=
  ⟨by rw [k.dls], by rw [k.dls], by rw [k.dls], by rw [k.dls], by rw [k.dls], by rw [k.bd], by rw [k.bd],
    k.flags, k.agenda⟩

/-- A change of nothing that growth speaks of. -/
theorem Grows.same {s t : State} (h1 : t.dls = s.dls) (h2 : t.bd.recs = s.bd.recs)
    (h3 : t.bd.patterns = s.bd.patterns) (h4 : t.fc.flags = s.fc.flags) (h5 : t.agenda = s.agenda) :
    Grows s t :=
  ⟨by rw [h1], by rw [h1], by rw [h1], by rw [h1], by rw [h1], h2, h3, by rw [h4, BitVec.or_self],
    by rw [h5]⟩

theorem Grows.offer (s : State) (r : DeckRec) : Grows s (s.offer r).1 := by
  unfold State.offer
  split
  · refine ⟨?_, ?_, ?_, ?_, ?_, rfl, rfl, BitVec.or_self, List.prefix_rfl⟩ <;>
      (unfold Dls.accept; dsimp only; split <;>
        first | rfl | exact List.prefix_rfl | exact List.prefix_append _ _)
  · exact Grows.refl s

theorem CallsOnly.refl (s : State) : CallsOnly s s :=
  ⟨Grows.refl s, rfl, rfl, rfl, rfl, rfl, rfl, rfl, rfl, rfl, rfl, rfl, rfl, rfl, rfl, rfl, rfl, rfl, rfl,
    rfl, rfl, rfl, rfl, fun _ _ => rfl⟩

theorem CallsOnly.trans {s t u : State} (h : CallsOnly s t) (k : CallsOnly t u) : CallsOnly s u :=
  ⟨h.grow.trans k.grow,
    k.pending.trans h.pending,
    k.now.trans h.now,
    k.straps.trans h.straps,
    k.node.trans h.node,
    k.pins.trans h.pins,
    k.dcc.trans h.dcc,
    k.held.trans h.held,
    k.ramps.trans h.ramps,
    k.estop.trans h.estop,
    k.groups.trans h.groups,
    k.ts.trans h.ts,
    k.settings.trans h.settings,
    k.remotes.trans h.remotes,
    k.defs.trans h.defs,
    k.pointer.trans h.pointer,
    k.pass.trans h.pass,
    k.silence.trans h.silence,
    k.restarting.trans h.restarting,
    k.masks.trans h.masks,
    k.summaryMasks.trans h.summaryMasks,
    k.test.trans h.test,
    k.last.trans h.last,
    fun i hi => (k.locals i hi).trans (h.locals i hi)⟩

theorem CallsOnly.ofCalm {s t u : State} (h : CallsOnly s t) (k : Calm t u)
    (hl : ∀ i : Fin 32, 11 ≠ i → u.img.locals.at i = t.img.locals.at i) : CallsOnly s u :=
  h.trans ⟨Grows.ofCalm k, k.pending, k.now, k.straps, k.node, k.pins, k.dcc, k.held, k.ramps,
    k.estop, k.groups, k.ts, k.settings, k.remotes, k.defs, k.pointer,
    k.pass, k.silence, k.restarting, k.masks, k.summaryMasks, k.test, k.last, fun i hi => hl i (by rintro rfl; simp at hi)⟩

theorem CallsOnly.foldl {α : Type} {s : State} (f : State → α → State)
    (hf : ∀ t x, CallsOnly s t → CallsOnly s (f t x)) (l : List α) {t : State} (h : CallsOnly s t) :
    CallsOnly s (l.foldl f t) := by
  induction l generalizing t with
  | nil => exact h
  | cons x xs ih => exact ih (hf t x h)

/-- A change of the call list, of what the beacons show, and of nothing else. -/
theorem CallsOnly.withCl {s t : State} (h : CallsOnly s t) (x : CallList) : CallsOnly s { t with cl := x } :=
  h.trans ⟨Grows.same rfl rfl rfl rfl rfl, rfl, rfl, rfl, rfl, rfl, rfl, rfl, rfl, rfl, rfl, rfl, rfl, rfl,
    rfl, rfl, rfl, rfl, rfl, rfl, rfl, rfl, rfl, fun _ _ => rfl⟩

theorem CallsOnly.setZone {s t : State} (h : CallsOnly s t) (z : Fin 12) (x : Zone) :
    CallsOnly s (t.setZone z x) := h.withCl _

theorem CallsOnly.setCall {s t : State} (h : CallsOnly s t) (e : Fin 16) (x : Option Call) :
    CallsOnly s (t.setCall e x) := h.withCl _

theorem CallsOnly.setShown {s t : State} (h : CallsOnly s t) (b : Fin 8) (x : Shown) :
    CallsOnly s (t.setShown b x) :=
  h.trans ⟨Grows.same rfl rfl rfl rfl rfl, rfl, rfl, rfl, rfl, rfl, rfl, rfl, rfl, rfl, rfl, rfl, rfl, rfl,
    rfl, rfl, rfl, rfl, rfl, rfl, rfl, rfl, rfl, fun _ _ => rfl⟩

theorem CallsOnly.push {s t : State} (h : CallsOnly s t) (x : Task) : CallsOnly s (t.push x) :=
  h.ofCalm (t.push_calm x) fun _ _ => rfl

theorem CallsOnly.writeLocal {s t : State} (h : CallsOnly s t) (i : Fin 32) (v : Byte)
    (hi : 11 ≤ i.val ∧ i.val ≤ 23) : CallsOnly s (t.writeLocal i v) := by
  have k := t.writeLocal_calm i v
  refine h.trans ⟨Grows.ofCalm k, k.pending, k.now, k.straps, k.node, k.pins, k.dcc, k.held, k.ramps,
    k.estop, k.groups, k.ts, k.settings, k.remotes, k.defs, k.pointer, k.pass, k.silence, k.restarting,
    k.masks, k.summaryMasks, k.test, k.last, fun j hj => ?_⟩
  rw [State.writeLocal_locals, Tab.at_put_ne _ _ (by rintro rfl; omega)]

theorem CallsOnly.raiseFlag {s t : State} (h : CallsOnly s t) (f : Flag) : CallsOnly s (t.raiseFlag f) :=
  h.ofCalm (t.raiseFlag_calm f) (t.raiseFlag_locals f)

theorem CallsOnly.reply {s t : State} (h : CallsOnly s t) (n : NodeNo) (o : Byte) (c : Result)
    (p : List Byte) : CallsOnly s (t.reply n o c p) := h.ofCalm (t.reply_calm n o c p) (t.place_locals _)

theorem CallsOnly.refuse {s t : State} (h : CallsOnly s t) (n : NodeNo) (o : Byte) (r : Reason) (l : Bool) :
    CallsOnly s (t.refuse n o r l) := h.ofCalm (t.refuse_calm n o r l) (t.place_locals _)

theorem CallsOnly.notice {s t : State} (h : CallsOnly s t) (o v : Byte) (p : List Byte) :
    CallsOnly s (t.notice o v p) := h.ofCalm (t.notice_calm o v p) (t.place_locals _)

theorem CallsOnly.offer {s t : State} (h : CallsOnly s t) (r : DeckRec) : CallsOnly s (t.offer r).1 := by
  have k : ∀ u, Grows t u → (u = t ∨ ∃ x, u = { t with dls := x }) → CallsOnly t u := by
    rintro u hg (rfl | ⟨x, rfl⟩)
    · exact CallsOnly.refl _
    · exact ⟨hg, rfl, rfl, rfl, rfl, rfl, rfl, rfl, rfl, rfl, rfl, rfl, rfl, rfl, rfl, rfl, rfl, rfl, rfl,
        rfl, rfl, rfl, rfl, fun _ _ => rfl⟩
  refine h.trans (k _ (Grows.offer t r) ?_)
  unfold State.offer
  split
  · exact .inr ⟨_, rfl⟩
  · exact .inl rfl

theorem CallsOnly.offer_eq {s t u : State} {r : DeckRec} {b : Bool} (h : CallsOnly s t)
    (e : t.offer r = (u, b)) : CallsOnly s u := by
  have := h.offer r
  rw [e] at this
  exact this

theorem CallsOnly.ramp {s t : State} (h : CallsOnly s t) (ch : Channel) : t.ramp ch = s.ramp ch := by
  unfold State.ramp
  rw [h.ramps]

theorem CallsOnly.group {s t : State} (h : CallsOnly s t) (g : Fin 4) : t.group g = s.group g := by
  unfold State.group
  rw [h.groups]

end Sys2Proof.Machine
end

