-- ==== Sys2Proof/Laws/CallsOnly.lean ====
section
/-! SUPPORT. What the beacons and the call list leave alone. -/

set_option linter.unusedTactic false
set_option linter.unreachableTactic false

namespace Sys2Proof.Machine

open Sys2Proof

theorem CallsOnly.formBeacon {s₀ s : State} (h : CallsOnly s₀ s) (b : Fin 8) :
    CallsOnly s₀ (State.formBeacon s b) := by
  unfold State.formBeacon
  dsimp only
  repeat' first
    | with_reducible (first
      | exact h | assumption | apply CallsOnly.setShown)
    | split
    | exact rfl | exact id

theorem CallsOnly.formBeacons {s₀ s : State} (h : CallsOnly s₀ s) :
    CallsOnly s₀ (State.formBeacons s) := by
  unfold State.formBeacons
  repeat' first
    | with_reducible (first
      | exact h | assumption | apply CallsOnly.formBeacon
      | (refine CallsOnly.foldl _ (fun _ _ _ => ?_) _ ?_))
    | split
    | exact rfl | exact id

theorem CallsOnly.restartBeacons {s₀ s : State} (h : CallsOnly s₀ s) :
    CallsOnly s₀ (State.restartBeacons s) := by
  unfold State.restartBeacons
  repeat' first
    | with_reducible (first
      | exact h | assumption | apply CallsOnly.setShown
      | (refine CallsOnly.foldl _ (fun _ _ _ => ?_) _ ?_))
    | split
    | exact rfl | exact id

theorem CallsOnly.raiseBeacons {s₀ s : State} (h : CallsOnly s₀ s) :
    CallsOnly s₀ (State.raiseBeacons s) := by
  unfold State.raiseBeacons
  dsimp only
  repeat' first
    | with_reducible (first
      | exact h | assumption | apply CallsOnly.setShown
      | (refine CallsOnly.foldl _ (fun _ _ _ => ?_) _ ?_))
    | split
    | exact rfl | exact id

theorem CallsOnly.setMark {s₀ s : State} (h : CallsOnly s₀ s) (e : Fin 16) (z : Fin 12) (m : Mark) :
    CallsOnly s₀ (State.setMark s e z m) := by
  unfold State.setMark
  repeat' first
    | with_reducible (first
      | exact h | assumption | apply CallsOnly.setCall)
    | split
    | exact rfl | exact id

theorem CallsOnly.cutTo {s₀ s : State} (h : CallsOnly s₀ s) (z : Fin 12) (node : NodeNo) (object
    : Byte) (urgent : Bool) :
    CallsOnly s₀ (State.cutTo s z node object urgent) := by
  unfold State.cutTo
  dsimp only
  repeat' first
    | with_reducible (first
      | exact h | assumption | exact CallsOnly.offer_eq (by assumption) (by assumption)
      | apply CallsOnly.offer | apply CallsOnly.setZone
      | refine CallsOnly.offer_eq ?_ (by assumption))
    | split
    | exact rfl | exact id

theorem CallsOnly.buildCut {s₀ s : State} (h : CallsOnly s₀ s) (z : Fin 12) (urgent : Bool) :
    CallsOnly s₀ (State.buildCut s z urgent) := by
  unfold State.buildCut
  repeat' first
    | with_reducible (first
      | exact h | assumption | apply CallsOnly.cutTo)
    | split
    | exact rfl | exact id

theorem CallsOnly.buildPlay {s₀ s : State} (h : CallsOnly s₀ s) (z : Fin 12) (node : NodeNo)
    (object : Byte) (c : Call) :
    CallsOnly s₀ (State.buildPlay s z node object c) := by
  unfold State.buildPlay
  dsimp only
  repeat' first
    | with_reducible (first
      | exact h | assumption | exact CallsOnly.offer_eq (by assumption) (by assumption)
      | apply CallsOnly.offer | apply CallsOnly.setZone
      | refine CallsOnly.offer_eq ?_ (by assumption))
    | split
    | exact rfl | exact id

theorem CallsOnly.advanceIssue {s₀ s : State} (h : CallsOnly s₀ s) (z : Fin 12) :
    CallsOnly s₀ (State.advanceIssue s z) := by
  unfold State.advanceIssue
  dsimp only
  repeat' first
    | with_reducible (first
      | exact h | assumption | apply CallsOnly.setZone)
    | split
    | exact rfl | exact id

theorem CallsOnly.playOwner {s₀ s : State} (h : CallsOnly s₀ s) (z : Fin 12) :
    CallsOnly s₀ (State.playOwner s z) := by
  unfold State.playOwner
  dsimp only
  repeat' first
    | with_reducible (first
      | exact h | assumption | apply CallsOnly.advanceIssue | apply CallsOnly.setMark
      | apply CallsOnly.buildPlay)
    | split
    | exact rfl | exact id

theorem CallsOnly.recomputeZone {s₀ s : State} (h : CallsOnly s₀ s) (before : CallList) (gone :
    List (Fin 16)) (z : Fin 12) :
    CallsOnly s₀ (State.recomputeZone before gone s z) := by
  unfold State.recomputeZone
  dsimp only
  repeat' first
    | with_reducible (first
      | exact h | assumption | apply CallsOnly.setMark | apply CallsOnly.setZone
      | apply CallsOnly.buildCut | apply CallsOnly.playOwner)
    | split
    | exact rfl | exact id

theorem CallsOnly.writeOwners {s₀ s : State} (h : CallsOnly s₀ s) : CallsOnly s₀ (State.writeOwners s) := by
  unfold State.writeOwners
  refine CallsOnly.foldl _ (fun _ z k => ?_) _ h
  exact k.writeLocal _ _ (by revert z; decide)

theorem CallsOnly.makeReady {s₀ s : State} (h : CallsOnly s₀ s) (e : Fin 16) (c : Call) :
    CallsOnly s₀ (State.makeReady s e c) := by
  unfold State.makeReady
  dsimp only
  repeat' first
    | with_reducible (first
      | exact h | assumption | apply CallsOnly.setCall | apply CallsOnly.push)
    | split
    | exact rfl | exact id

theorem CallsOnly.testReady {s₀ s : State} (h : CallsOnly s₀ s) :
    CallsOnly s₀ (State.testReady s) := by
  unfold State.testReady
  repeat' first
    | with_reducible (first
      | exact h | assumption | apply CallsOnly.makeReady
      | (refine CallsOnly.foldl _ (fun _ _ _ => ?_) _ ?_))
    | split
    | exact rfl | exact id

theorem CallsOnly.recompute {s₀ s : State} (h : CallsOnly s₀ s) (before : CallList) (gone : List
    (Fin 16)) :
    CallsOnly s₀ (State.recompute s before gone) := by
  unfold State.recompute
  repeat' first
    | with_reducible (first
      | exact h | assumption | apply CallsOnly.recomputeZone | apply CallsOnly.writeOwners
      | apply CallsOnly.testReady | (refine CallsOnly.foldl _ (fun _ _ _ => ?_) _ ?_))
    | split
    | exact rfl | exact id

theorem CallsOnly.handleDone (n : Nat) {s₀ s : State} (h : CallsOnly s₀ s) :
    CallsOnly s₀ (State.handleDone n s) := by
  induction n generalizing s with
  | zero => exact h
  | succ n ih =>
    unfold State.handleDone
    split
    · exact ih ((h.withCl _).recompute _ _)
    · exact h

theorem CallsOnly.reallocate {s₀ s : State} (h : CallsOnly s₀ s) (before : CallList) (gone : List
    (Fin 16)) :
    CallsOnly s₀ (State.reallocate s before gone) := by
  unfold State.reallocate
  repeat' first
    | with_reducible (first
      | exact h | assumption | apply CallsOnly.handleDone | apply CallsOnly.recompute
      | apply CallsOnly.formBeacons)
    | split
    | exact rfl | exact id

theorem CallsOnly.settleDone {s₀ s : State} (h : CallsOnly s₀ s) :
    CallsOnly s₀ (State.settleDone s) := by
  unfold State.settleDone
  repeat' first
    | with_reducible (first
      | exact h | assumption | apply CallsOnly.handleDone | apply CallsOnly.formBeacons)
    | split
    | exact rfl | exact id

theorem CallsOnly.placeEntry {s₀ s : State} (h : CallsOnly s₀ s) (e : Fin 16) (c : Call) :
    CallsOnly s₀ (State.placeEntry s e c) := by
  unfold State.placeEntry
  dsimp only
  repeat' first
    | with_reducible (first
      | exact h | assumption | apply CallsOnly.reallocate)
    | split
    | with_reducible (first | apply CallsOnly.withCl)
    | exact rfl | exact id

theorem CallsOnly.removeEntries {s₀ s : State} (h : CallsOnly s₀ s) (es : List (Fin 16)) :
    CallsOnly s₀ (State.removeEntries s es) := by
  unfold State.removeEntries
  extract_lets gone before s'
  have k : CallsOnly s₀ s' := (h.withCl _).reallocate _ _
  clear_value s'
  split
  · exact k.push _
  · exact k

theorem CallsOnly.removeEntry {s₀ s : State} (h : CallsOnly s₀ s) (e : Fin 16) :
    CallsOnly s₀ (State.removeEntry s e) := by
  unfold State.removeEntry
  repeat' first
    | with_reducible (first
      | exact h | assumption | apply CallsOnly.removeEntries)
    | split
    | exact rfl | exact id

theorem CallsOnly.placeEmergency {s₀ s : State} (h : CallsOnly s₀ s) :
    CallsOnly s₀ (State.placeEmergency s) := by
  unfold State.placeEmergency
  repeat' first
    | with_reducible (first
      | exact h | assumption | apply CallsOnly.placeEntry)
    | split
    | exact rfl | exact id

theorem CallsOnly.refreshCall {s₀ s : State} (h : CallsOnly s₀ s) (e : Fin 16) (p : PlaceReq) :
    CallsOnly s₀ (State.refreshCall s e p) := by
  unfold State.refreshCall
  dsimp only
  repeat' first
    | with_reducible (first
      | exact h | assumption | apply CallsOnly.setCall | apply CallsOnly.playOwner
      | apply CallsOnly.reallocate | (refine CallsOnly.foldl _ (fun _ _ _ => ?_) _ ?_))
    | split
    | exact rfl | exact id

theorem CallsOnly.placeCall {s₀ s : State} (h : CallsOnly s₀ s) (src : NodeNo) (payload : List
    Byte) :
    CallsOnly s₀ (State.placeCall s src payload) := by
  unfold State.placeCall
  dsimp only
  repeat' first
    | with_reducible (first
      | exact h | assumption | apply CallsOnly.reply | apply CallsOnly.refreshCall
      | apply CallsOnly.placeEntry | apply CallsOnly.raiseFlag)
    | split
    | exact rfl | exact id

theorem CallsOnly.cancelCall {s₀ s : State} (h : CallsOnly s₀ s) (src : NodeNo) (payload : List
    Byte) :
    CallsOnly s₀ (State.cancelCall s src payload) := by
  unfold State.cancelCall
  dsimp only
  repeat' first
    | with_reducible (first
      | exact h | assumption | apply CallsOnly.reply | apply CallsOnly.removeEntries)
    | split
    | exact rfl | exact id

theorem CallsOnly.loseZone {s₀ s : State} (h : CallsOnly s₀ s) (z : Fin 12) (e : Fin 16) (c :
    Call) :
    CallsOnly s₀ (State.loseZone s z e c) := by
  unfold State.loseZone
  dsimp only
  repeat' first
    | with_reducible (first
      | exact h | assumption | apply CallsOnly.setMark | apply CallsOnly.raiseFlag
      | apply CallsOnly.settleDone)
    | split
    | exact rfl | exact id

theorem CallsOnly.zoneFrameStarted {s₀ s : State} (h : CallsOnly s₀ s) (z : Fin 12) (issue :
    Byte) (play urgent : Bool) (f : Frame) :
    CallsOnly s₀ (State.zoneFrameStarted s z issue play urgent f) := by
  unfold State.zoneFrameStarted
  dsimp only
  repeat' first
    | with_reducible (first
      | exact h | assumption | apply CallsOnly.setMark | apply CallsOnly.buildCut
      | apply CallsOnly.playOwner | apply CallsOnly.settleDone | apply CallsOnly.cutTo)
    | split
    | exact rfl | exact id

theorem CallsOnly.zoneOutcome {s₀ s : State} (h : CallsOnly s₀ s) (z : Fin 12) (issue : Byte)
    (play : Bool) (accepted : Bool) :
    CallsOnly s₀ (State.zoneOutcome s z issue play accepted) := by
  unfold State.zoneOutcome
  repeat' first
    | with_reducible (first
      | exact h | assumption | apply CallsOnly.setMark | apply CallsOnly.loseZone)
    | split
    | exact rfl | exact id

theorem CallsOnly.zoneReport {s₀ s : State} (h : CallsOnly s₀ s) (z : Fin 12) (value : Byte) :
    CallsOnly s₀ (State.zoneReport s z value) := by
  unfold State.zoneReport
  repeat' first
    | with_reducible (first
      | exact h | assumption | apply CallsOnly.setMark | apply CallsOnly.playOwner
      | apply CallsOnly.loseZone | apply CallsOnly.settleDone)
    | split
    | exact rfl | exact id

theorem CallsOnly.callsImageChange {s₀ s : State} (h : CallsOnly s₀ s) (index : Nat) (value :
    Byte) :
    CallsOnly s₀ (State.callsImageChange s index value) := by
  unfold State.callsImageChange
  repeat' first
    | with_reducible (first
      | exact h | assumption | apply CallsOnly.zoneReport
      | (refine CallsOnly.foldl _ (fun _ _ _ => ?_) _ ?_))
    | split
    | exact rfl | exact id

theorem CallsOnly.offerZonePending {s₀ s : State} (h : CallsOnly s₀ s) (z : Fin 12) :
    CallsOnly s₀ (State.offerZonePending s z) := by
  unfold State.offerZonePending
  dsimp only
  repeat' first
    | with_reducible (first
      | exact h | assumption | exact CallsOnly.offer_eq (by assumption) (by assumption)
      | apply CallsOnly.offer | apply CallsOnly.setZone
      | refine CallsOnly.offer_eq ?_ (by assumption))
    | split
    | exact rfl | exact id

theorem CallsOnly.moveZone {s₀ s : State} (h : CallsOnly s₀ s) (z : Fin 12) (oldTarget : Option
    (NodeNo × Byte)) :
    CallsOnly s₀ (State.moveZone s z oldTarget) := by
  unfold State.moveZone
  dsimp only
  repeat' first
    | with_reducible (first
      | exact h | assumption | apply CallsOnly.setZone | apply CallsOnly.cutTo
      | apply CallsOnly.setMark | apply CallsOnly.playOwner)
    | split
    | exact rfl | exact id

theorem CallsOnly.swapZones {s₀ s : State} (h : CallsOnly s₀ s) (oldDefs : Tab ObjDef 96)
    (newIndex : Fin 12 → Nat) :
    CallsOnly s₀ (State.swapZones s oldDefs newIndex) := by
  unfold State.swapZones
  dsimp only
  repeat' first
    | with_reducible (first
      | exact h | assumption | apply CallsOnly.setZone | apply CallsOnly.moveZone
      | apply CallsOnly.settleDone | (refine CallsOnly.foldl _ (fun _ _ _ => ?_) _ ?_))
    | split
    | exact rfl | exact id

theorem CallsOnly.restartCalls {s₀ s : State} (h : CallsOnly s₀ s) :
    CallsOnly s₀ (State.restartCalls s) := by
  unfold State.restartCalls
  extract_lets s1 src s2 s3
  have k1 : CallsOnly s₀ s1 := CallsOnly.foldl _ (fun t z k => by
    split
    · exact k
    · split
      · exact k.buildCut _ _
      · exact k) _ h
  have k2 : CallsOnly s₀ s2 := k1.withCl _
  have k3 : CallsOnly s₀ s3 := CallsOnly.foldl _ (fun t z k => k.setZone _ _) _ k2
  exact k3.writeOwners

end Sys2Proof.Machine
end

