-- ==== Sys2Proof/Laws/Due.lean ====
section
/-! SUPPORT. Which events are due: for each part of the list that a step looks through, exactly the commands it
holds and when. -/

namespace Sys2Proof.Machine

open Sys2Proof

/-- A command that is due under a condition. -/
theorem mem_dueWhen (b : Bool) (i c : Instr) : c ∈ dueWhen b i ↔ b = true ∧ c = i := by
  unfold dueWhen; split <;> simp_all

/-- A timer has fallen due. -/
theorem State.isDue_iff (s : State) (t : Timer) : s.isDue t = true ↔ ∃ d, t = some d ∧ d ≤ s.now := by
  unfold State.isDue; split <;> simp


/-- The shared inputs: E-STOP after 10 samples, the fire alarm after 20 (R52, R82). -/
theorem State.mem_dueInputs (s : State) (c : Instr) : c ∈ s.dueInputs ↔
   (s.estop.accepts 10 = true ∧ c = .estopAccepted s.estop.sampled)
      ∨ (s.dcc.fire.accepts 20 = true ∧ c = .fireAlarmAccepted s.dcc.fire.sampled) := by
  simp [State.dueInputs, mem_dueWhen, Config.estopSamples, Config.fireSamples]

/-- The bridge line: a restart, the end of a frame, the end of the silence time (R10, R18, R181). -/
theorem State.mem_dueBridge (s : State) (c : Instr) : c ∈ s.dueBridge ↔
   ((s.bli.restarting = true ∧ (∀ r ∈ s.bli.queue, r.restartReply = false)
          ∧ ∀ x, s.bli.tx = some x → x.restartReply = true → x.lastStop ≤ s.now) ∧ c = .restartTakesEffect)
   ∨ ((∃ x, s.bli.tx = some x ∧ x.idleAt ≤ s.now) ∧ c = .bridgeFrameSent)
   ∨ ((∃ d, s.bli.silence = .running d ∧ d ≤ s.now) ∧ c = .bridgeSilenceExpiry) := by
  unfold State.dueBridge
  simp only [List.mem_append, mem_dueWhen, or_assoc]
  have h1 : (s.bli.replyQueued = false) ↔ ∀ r ∈ s.bli.queue, r.restartReply = false := by
    simp [Bli.replyQueued]
  refine or_congr (and_congr_left fun _ => ?_) (or_congr (and_congr_left fun _ => ?_) (and_congr_left fun _ => ?_))
  · rw [← h1]
    rcases s.bli.tx with _ | x
    · cases s.bli.restarting <;> cases s.bli.replyQueued <;> simp
    · cases s.bli.restarting <;> cases s.bli.replyQueued <;> cases h : x.restartReply <;> simp [h]
  · rcases s.bli.tx <;> simp
  · rcases s.bli.silence <;> simp

/-- The deck line: the end of a frame, of a reply window, of the settling time (R11). -/
theorem State.mem_dueDeckLine (s : State) (c : Instr) : c ∈ s.dueDeckLine ↔
   ((∃ f d, s.dls.line = .sending f d ∧ d ≤ s.now) ∧ c = .deckFrameSent)
   ∨ ((∃ d, s.dls.line = .window d ∧ d ≤ s.now) ∧ c = .replyWindowExpiry)
   ∨ ((∃ d, s.dls.line = .settling d ∧ d ≤ s.now) ∧ c = .settlingEnd) := by
  unfold State.dueDeckLine
  rcases s.dls.line <;> simp [mem_dueWhen]

/-- The held list and the freshness of the used entries (R28, R66). -/
theorem State.mem_dueImage (s : State) (c : Instr) : c ∈ s.dueImage ↔
   ((∃ r ∈ s.held, r.expiry ≤ s.now) ∧ c = .heldRecordExpiry)
   ∨ ∃ d, ((s.img.defs.at d).kind ≠ .none ∧ (s.img.remotes.at d).standing ≠ .stale
          ∧ (s.img.remotes.at d).since + ((s.img.defs.at d).limit + 1) * Config.msec ≤ s.now)
          ∧ c = .freshnessExpiry d := by
  unfold State.dueImage
  simp only [List.mem_append, List.mem_map, List.mem_filter, List.mem_flatMap, mem_dueWhen]
  refine or_congr ⟨?_, ?_⟩ (exists_congr fun d => ?_)
  · rintro ⟨r, ⟨h, k⟩, rfl⟩; exact ⟨⟨r, h, by simpa using k⟩, rfl⟩
  · rintro ⟨⟨r, h, k⟩, rfl⟩; exact ⟨r, ⟨h, by simpa using k⟩, rfl⟩
  · simp only [List.mem_finRange, true_and, Bool.and_eq_true, bne_iff_ne, ne_eq, ObjDef.used,
      State.freshnessAt, and_assoc]
    refine and_congr_right fun _ => and_congr_right fun _ => and_congr_left fun _ =>
      ⟨of_decide_eq_true, fun h => decide_eq_true h⟩

/-- A ramp channel: its encoder, its switches, its timers, its drive and its period (chapters 5 and 6). -/
theorem State.mem_dueRamp (s : State) (ch : Channel) (c : Instr) : c ∈ s.dueRamp ch ↔
   let r := s.ramp ch
   let past : Timer → Prop := fun x => ∃ d, x = some d ∧ d ≤ s.now
   ((r.state ≠ .disabled ∧ (r.encA.reached = true ∨ r.encB.reached = true))
      ∧ c = .encoderTransition ch (r.encA.level != r.encA.reached) (r.encB.level != r.encB.reached))
   ∨ (∃ sw, (r.filterOf sw).accepts 5 = true ∧ c = .rampSwitchAccepted ch sw (r.filterOf sw).sampled)
   ∨ (past r.pinTimer ∧ c = .pinTimerExpiry ch) ∨ (past r.warnTimer ∧ c = .rampWarningExpiry ch)
   ∨ (past r.deadTimer ∧ c = .deadManExpiry ch) ∨ (past r.recent ∧ c = .recentTimerExpiry ch)
   ∨ (past r.conversion ∧ c = .pressureConversionDone ch (s.pins.channels.get ch).pressure)
   ∨ ((∃ z, r.pwmZero = some z ∧ r.pwmCentred = false ∧ z + r.params.pwmN ≤ s.now) ∧ c = .pwmCentre ch)
   ∨ ((∃ z, r.pwmZero = some z ∧ z + 2 * r.params.pwmN ≤ s.now) ∧ c = .pwmPeriodStart ch)
   ∨ (r.periodAt ≤ s.now ∧ c = .periodEnd ch) := by
  unfold State.dueRamp
  simp only [List.mem_append, mem_dueWhen, or_assoc, State.isDue_iff]
  have h1 : c ∈ s.dueEncoder ch ↔ (((s.ramp ch).state ≠ .disabled
      ∧ ((s.ramp ch).encA.reached = true ∨ (s.ramp ch).encB.reached = true))
      ∧ c = .encoderTransition ch ((s.ramp ch).encA.level != (s.ramp ch).encA.reached)
        ((s.ramp ch).encB.level != (s.ramp ch).encB.reached)) := by
    unfold State.dueEncoder; simp [mem_dueWhen, EncFilter.next]
  have h2 : c ∈ s.dueSwitches ch ↔ (∃ sw, ((s.ramp ch).filterOf sw).accepts 5 = true
      ∧ c = .rampSwitchAccepted ch sw ((s.ramp ch).filterOf sw).sampled) := by
    unfold State.dueSwitches; simp only [List.mem_flatMap, mem_dueWhen]
    constructor
    · rintro ⟨sw, _, h⟩; exact ⟨sw, h⟩
    · rintro ⟨sw, h⟩; exact ⟨sw, by cases sw <;> simp, h⟩
  rw [h1, h2]
  refine or_congr_right (or_congr_right (or_congr_right (or_congr_right (or_congr_right (or_congr_right
    (or_congr_right ?_))))))
  refine or_congr (and_congr_left fun _ => ?_) (or_congr (and_congr_left fun _ => ?_) (and_congr_left fun _ => by simp))
  · rcases (s.ramp ch).pwmZero with _ | z <;> simp
  · rcases (s.ramp ch).pwmZero with _ | z <;> simp

/-- A door group: its two timers and those of its steps (chapter 7). -/
theorem State.mem_dueGroup (s : State) (g : Fin 4) (c : Instr) : c ∈ s.dueGroup g ↔
   let r := s.group g
   let past : Timer → Prop := fun x => ∃ d, x = some d ∧ d ≤ s.now
   (past r.warnTimer ∧ c = .groupWarningExpiry g) ∨ (past r.spacing ∧ c = .spacingExpiry g)
   ∨ ∃ k, (past (r.steps.at k).travel ∧ c = .travelExpiry g k)
      ∨ (past (r.steps.at k).retry ∧ c = .retryExpiry g k) := by
  unfold State.dueGroup
  simp only [List.mem_append, mem_dueWhen, or_assoc, State.isDue_iff, List.mem_flatMap]
  have : ∀ k : Fin 8, k ∈ allSteps := by decide
  simp [this]

/-- The wait timers of the calls and the steps of the beacons (R156, R163). -/
theorem State.mem_dueCalls (s : State) (c : Instr) : c ∈ s.dueCalls ↔
   let past : Timer → Prop := fun x => ∃ d, x = some d ∧ d ≤ s.now
   (∃ e, (∃ x, s.cl.calls.at e = some x ∧ past x.wait) ∧ c = .waitTimerExpiry e)
   ∨ ∃ b, past (s.bd.shown.at b).timer ∧ c = .beaconStepExpiry b := by
  unfold State.dueCalls
  simp only [List.mem_append, mem_dueWhen, State.isDue_iff, List.mem_flatMap]
  have h1 : ∀ k : Fin 16, k ∈ allEntries := by decide
  have h2 : ∀ k : Fin 8, k ∈ allBeacons := by decide
  simp only [h1, h2, true_and]
  refine or_congr (exists_congr fun e => and_congr_left fun _ => ?_) Iff.rfl
  rcases s.cl.calls.at e <;> simp [State.isDue_iff]

/-- The Table Store: a commit's expiry, a copy's end, a slot's end (R177, R178, R180). -/
theorem State.mem_dueTables (s : State) (c : Instr) : c ∈ s.dueTables ↔
   ((∃ x, s.ts.commit = some x ∧ x.expiry ≤ s.now) ∧ c = .commitExpiry)
   ∨ ((∃ x, s.ts.copy = some x ∧ x.start + copyMsBefore x.set 8 * Config.msec ≤ s.now) ∧ c = .copyComplete)
   ∨ (s.ts.slotEnd ≤ s.now ∧ c = .scrubSlotEnd) := by
  unfold State.dueTables
  simp only [List.mem_append, mem_dueWhen, or_assoc]
  refine or_congr (and_congr_left fun _ => ?_) (or_congr (and_congr_left fun _ => ?_) (and_congr_left fun _ => by simp))
  · rcases s.ts.commit <;> simp
  · rcases s.ts.copy with _ | c
    · simp
    · simp only [Option.some.injEq, exists_eq_left']
      exact ⟨of_decide_eq_true, fun h => decide_eq_true h⟩

end Sys2Proof.Machine
end

