-- ==== Sys2Proof/Laws/GroupOnly.lean ====
section
/-! SUPPORT. What a door group leaves alone. -/

set_option linter.unusedTactic false
set_option linter.unreachableTactic false

namespace Sys2Proof.Machine

open Sys2Proof

theorem GroupOnly.ofCalls' (g : Fin 4) {s t : State} (k : CallsOnly s t) : GroupOnly g s t :=
  ⟨k.grow, k.pending, k.now, k.straps, k.node, k.pins, k.dcc, k.held, k.ramps, k.estop, k.ts, k.settings,
    k.remotes, k.defs, k.pointer, k.pass, k.silence, k.restarting, k.masks, k.summaryMasks, k.test, k.last,
    fun c _ => k.group c, fun i hi _ => k.locals i hi⟩

theorem GroupOnly.refl (g : Fin 4) (s : State) : GroupOnly g s s := .ofCalls' g (.refl s)

theorem GroupOnly.trans {g : Fin 4} {s t u : State} (h : GroupOnly g s t) (k : GroupOnly g t u) : GroupOnly g s u :=
  ⟨h.grow.trans k.grow, k.pending.trans h.pending, k.now.trans h.now, k.straps.trans h.straps,
    k.node.trans h.node, k.pins.trans
    h.pins, k.dcc.trans h.dcc, k.held.trans h.held, k.ramps.trans h.ramps, k.estop.trans
    h.estop, k.ts.trans h.ts, k.settings.trans h.settings, k.remotes.trans h.remotes,
    k.defs.trans h.defs, k.pointer.trans h.pointer, k.pass.trans h.pass, k.silence.trans
    h.silence, k.restarting.trans h.restarting, k.masks.trans h.masks, k.summaryMasks.trans
    h.summaryMasks, k.test.trans h.test, k.last.trans h.last, fun c hc => (k.others c
    hc).trans (h.others c hc), fun i hi hc => (k.locals i hi hc).trans (h.locals i hi hc)⟩

theorem GroupOnly.ofCalls {g : Fin 4} {s t u : State} (h : GroupOnly g s t) (k : CallsOnly t u) :
    GroupOnly g s u := h.trans (.ofCalls' g k)

theorem GroupOnly.foldl {α : Type} {g : Fin 4} {s : State} (f : State → α → State)
    (hf : ∀ t x, GroupOnly g s t → GroupOnly g s (f t x)) (l : List α) {t : State} (h : GroupOnly g s t) :
    GroupOnly g s (l.foldl f t) := by
  induction l generalizing t with
  | nil => exact h
  | cons x xs ih => exact ih (hf t x h)

theorem GroupOnly.placeEntry {g : Fin 4} {s t : State} (h : GroupOnly g s t) (e : Fin 16) (c : Call) :
    GroupOnly g s (t.placeEntry e c) := h.ofCalls ((CallsOnly.refl t).placeEntry e c)

theorem GroupOnly.removeEntry {g : Fin 4} {s t : State} (h : GroupOnly g s t) (e : Fin 16) :
    GroupOnly g s (t.removeEntry e) := h.ofCalls ((CallsOnly.refl t).removeEntry e)

theorem GroupOnly.formBeacons {g : Fin 4} {s t : State} (h : GroupOnly g s t) :
    GroupOnly g s (t.formBeacons) := h.ofCalls ((CallsOnly.refl t).formBeacons)

theorem GroupOnly.raiseFlag {g : Fin 4} {s t : State} (h : GroupOnly g s t) (f : Flag) :
    GroupOnly g s (t.raiseFlag f) := h.ofCalls ((CallsOnly.refl t).raiseFlag f)

theorem GroupOnly.reply {g : Fin 4} {s t : State} (h : GroupOnly g s t) (n : NodeNo) (o : Byte) (c : Result) (p : List Byte) :
    GroupOnly g s (t.reply n o c p) := h.ofCalls ((CallsOnly.refl t).reply n o c p)

theorem GroupOnly.refuse {g : Fin 4} {s t : State} (h : GroupOnly g s t) (n : NodeNo) (o : Byte) (r : Reason) (l : Bool) :
    GroupOnly g s (t.refuse n o r l) := h.ofCalls ((CallsOnly.refl t).refuse n o r l)

theorem GroupOnly.notice {g : Fin 4} {s t : State} (h : GroupOnly g s t) (o x : Byte) (p : List Byte) :
    GroupOnly g s (t.notice o x p) := h.ofCalls ((CallsOnly.refl t).notice o x p)

theorem GroupOnly.writeLocal {g : Fin 4} {s t : State} (h : GroupOnly g s t) (x : Byte) :
    GroupOnly g s (t.writeLocal (groupEntry g) x) := by
  have k := t.writeLocal_calm (groupEntry g) x
  refine h.trans ⟨Grows.ofCalm k, k.pending, k.now, k.straps, k.node, k.pins, k.dcc, k.held, k.ramps,
    k.estop, k.ts, k.settings, k.remotes, k.defs, k.pointer, k.pass, k.silence, k.restarting, k.masks,
    k.summaryMasks, k.test, k.last, fun c _ => by unfold State.group; rw [k.groups], fun j _ hj => ?_⟩
  rw [State.writeLocal_locals, Tab.at_put_ne _ _ (Ne.symm hj)]

theorem GroupOnly.setGroup {g : Fin 4} {s t : State} (h : GroupOnly g s t) (r : Group) :
    GroupOnly g s (t.setGroup g r) :=
  h.trans ⟨Grows.same rfl rfl rfl rfl rfl, rfl, rfl, rfl, rfl, rfl, rfl, rfl, rfl, rfl, rfl, rfl, rfl, rfl,
    rfl, rfl, rfl, rfl, rfl, rfl, rfl, rfl, fun _ hc => State.group_setGroup_ne _ _ (Ne.symm hc),
    fun _ _ _ => rfl⟩

theorem GroupOnly.setStep {g : Fin 4} {s t : State} (h : GroupOnly g s t) (k : Fin 8) (x : Step) :
    GroupOnly g s (t.setStep g k x) := h.setGroup _

theorem GroupOnly.offer {g : Fin 4} {s t : State} (h : GroupOnly g s t) (r : DeckRec) :
    GroupOnly g s (t.offer r).1 := h.ofCalls ((CallsOnly.refl t).offer r)

theorem GroupOnly.offer_eq {g : Fin 4} {s t u : State} {r : DeckRec} {b : Bool}
    (h : GroupOnly g s t) (e : t.offer r = (u, b)) : GroupOnly g s u := by
  have := h.offer r
  rw [e] at this
  exact this

theorem GroupOnly.resetSteps {s₀ s : State} {g : Fin 4} (h : GroupOnly g s₀ s) :
    GroupOnly g s₀ (State.resetSteps s g) := by
  unfold State.resetSteps
  repeat' first
    | with_reducible (first
      | exact h | assumption | apply GroupOnly.setGroup)
    | split

theorem GroupOnly.enterGroup {s₀ s : State} {g : Fin 4} (h : GroupOnly g s₀ s) (st : GroupState)
    (breach : Byte) :
    GroupOnly g s₀ (State.enterGroup s g st breach) := by
  unfold State.enterGroup
  dsimp only
  repeat' first
    | with_reducible (first
      | exact h | assumption | apply GroupOnly.setGroup | apply GroupOnly.writeLocal
      | apply GroupOnly.notice)
    | split

theorem GroupOnly.buildDoor {s₀ s : State} {g : Fin 4} (h : GroupOnly g s₀ s) (k : Fin 8) (cmd :
    DoorCmd) :
    GroupOnly g s₀ (State.buildDoor s g k cmd) := by
  unfold State.buildDoor
  dsimp only
  repeat' first
    | with_reducible (first
      | exact h | assumption | exact GroupOnly.offer_eq (by assumption) (by assumption)
      | apply GroupOnly.setStep | apply GroupOnly.offer
      | refine GroupOnly.offer_eq ?_ (by assumption)
      | refine GroupOnly.of_eq ?_ (by assumption))
    | split

theorem GroupOnly.buildStopTo {s₀ s : State} {g : Fin 4} (h : GroupOnly g s₀ s) (k : Fin 8)
    (d : Fin 96) (target : NodeNo × Byte) :
    GroupOnly g s₀ (State.buildStopTo s g k d target) := by
  unfold State.buildStopTo
  dsimp only
  repeat' first
    | with_reducible (first
      | exact h | assumption | exact GroupOnly.offer_eq (by assumption) (by assumption)
      | apply GroupOnly.offer | apply GroupOnly.setStep
      | refine GroupOnly.offer_eq ?_ (by assumption)
      | refine GroupOnly.of_eq ?_ (by assumption))
    | split

theorem GroupOnly.buildStop {s₀ s : State} {g : Fin 4} (h : GroupOnly g s₀ s) (k : Fin 8) :
    GroupOnly g s₀ (State.buildStop s g k) := by
  unfold State.buildStop
  repeat' first
    | with_reducible (first
      | exact h | assumption | apply GroupOnly.buildStopTo)
    | split

theorem GroupOnly.commandNext {s₀ s : State} {g : Fin 4} (h : GroupOnly g s₀ s) :
    GroupOnly g s₀ (State.commandNext s g) := by
  unfold State.commandNext
  repeat' first
    | with_reducible (first
      | exact h | assumption | apply GroupOnly.setStep | apply GroupOnly.buildDoor)
    | split

theorem GroupOnly.doorFrameStarted {s₀ s : State} {g : Fin 4} (h : GroupOnly g s₀ s) (k : Fin 8)
    (issue : Byte) (cmd : DoorCmd) (d : Fin 96) (f : Frame) :
    GroupOnly g s₀ (State.doorFrameStarted s g k issue cmd d f) := by
  unfold State.doorFrameStarted
  dsimp only
  repeat' first
    | with_reducible (first
      | exact h | assumption | apply GroupOnly.setStep | apply GroupOnly.commandNext
      | apply GroupOnly.setGroup | apply GroupOnly.buildStopTo)
    | split

theorem GroupOnly.endSequence {s₀ s : State} {g : Fin 4} (h : GroupOnly g s₀ s) :
    GroupOnly g s₀ (State.endSequence s g) := by
  unfold State.endSequence
  dsimp only
  repeat' first
    | with_reducible (first
      | exact h | assumption | apply GroupOnly.enterGroup | apply GroupOnly.raiseFlag)
    | split

theorem GroupOnly.confirmStep {s₀ s : State} {g : Fin 4} (h : GroupOnly g s₀ s) (k : Fin 8) :
    GroupOnly g s₀ (State.confirmStep s g k) := by
  unfold State.confirmStep
  repeat' first
    | with_reducible (first
      | exact h | assumption | apply GroupOnly.setStep | apply GroupOnly.endSequence)
    | split

theorem GroupOnly.failStep {s₀ s : State} {g : Fin 4} (h : GroupOnly g s₀ s) (k : Fin 8) (c :
    StepCause) :
    GroupOnly g s₀ (State.failStep s g k c) := by
  unfold State.failStep
  repeat' first
    | with_reducible (first
      | exact h | assumption | apply GroupOnly.setStep | apply GroupOnly.raiseFlag
      | apply GroupOnly.endSequence)
    | split

theorem GroupOnly.retryOrFail {s₀ s : State} {g : Fin 4} (h : GroupOnly g s₀ s) (k : Fin 8) (c :
    StepCause) :
    GroupOnly g s₀ (State.retryOrFail s g k c) := by
  unfold State.retryOrFail
  dsimp only
  repeat' first
    | with_reducible (first
      | exact h | assumption | apply GroupOnly.setStep | apply GroupOnly.failStep)
    | split

theorem GroupOnly.doorOutcome {s₀ s : State} {g : Fin 4} (h : GroupOnly g s₀ s) (k : Fin 8)
    (issue : Byte) (cmd : DoorCmd) (o : Outcome) :
    GroupOnly g s₀ (State.doorOutcome s g k issue cmd o) := by
  unfold State.doorOutcome
  dsimp only
  repeat' first
    | with_reducible (first
      | exact h | assumption | apply GroupOnly.confirmStep | apply GroupOnly.retryOrFail
      | apply GroupOnly.failStep)
    | split

theorem GroupOnly.closingReport {s₀ s : State} {g : Fin 4} (h : GroupOnly g s₀ s) (k : Fin 8)
    (value : Byte) :
    GroupOnly g s₀ (State.closingReport s g k value) := by
  unfold State.closingReport
  repeat' first
    | with_reducible (first
      | exact h | assumption | apply GroupOnly.confirmStep | apply GroupOnly.failStep
      | apply GroupOnly.retryOrFail)
    | split

theorem GroupOnly.enterClosing {s₀ s : State} {g : Fin 4} (h : GroupOnly g s₀ s) :
    GroupOnly g s₀ (State.enterClosing s g) := by
  unfold State.enterClosing
  repeat' first
    | with_reducible (first
      | exact h | assumption | apply GroupOnly.enterGroup | apply GroupOnly.commandNext)
    | split

theorem GroupOnly.groupImageChange {s₀ s : State} {g : Fin 4} (h : GroupOnly g s₀ s) (index :
    Nat) (value : Byte) :
    GroupOnly g s₀ (State.groupImageChange s g index value) := by
  unfold State.groupImageChange
  dsimp only
  repeat' first
    | with_reducible (first
      | exact h | assumption | apply GroupOnly.enterClosing | apply GroupOnly.closingReport
      | apply GroupOnly.confirmStep | apply GroupOnly.raiseFlag | apply GroupOnly.enterGroup)
    | split

theorem GroupOnly.endWarning {s₀ s : State} {g : Fin 4} (h : GroupOnly g s₀ s) :
    GroupOnly g s₀ (State.endWarning s g) := by
  unfold State.endWarning
  dsimp only
  repeat' first
    | with_reducible (first
      | exact h | assumption | apply GroupOnly.enterClosing | apply GroupOnly.removeEntry
      | apply GroupOnly.enterGroup)
    | split

theorem GroupOnly.beginCount {s₀ s : State} {g : Fin 4} (h : GroupOnly g s₀ s) :
    GroupOnly g s₀ (State.beginCount s g) := by
  unfold State.beginCount
  dsimp only
  repeat' first
    | with_reducible (first
      | exact h | assumption | apply GroupOnly.setGroup | apply GroupOnly.endWarning)
    | split

theorem GroupOnly.ownCallReady {s₀ s : State} {g : Fin 4} (h : GroupOnly g s₀ s) :
    GroupOnly g s₀ (State.ownCallReady s g) := by
  unfold State.ownCallReady
  dsimp only
  repeat' first
    | with_reducible (first
      | exact h | assumption | apply GroupOnly.beginCount)
    | split

theorem GroupOnly.emergencyCallMoved {s₀ s : State} {g : Fin 4} (h : GroupOnly g s₀ s) :
    GroupOnly g s₀ (State.emergencyCallMoved s g) := by
  unfold State.emergencyCallMoved
  dsimp only
  repeat' first
    | with_reducible (first
      | exact h | assumption | apply GroupOnly.beginCount)
    | split

theorem GroupOnly.warnUnderMark {s₀ s : State} {g : Fin 4} (h : GroupOnly g s₀ s) :
    GroupOnly g s₀ (State.warnUnderMark s g) := by
  unfold State.warnUnderMark
  dsimp only
  repeat' first
    | with_reducible (first
      | exact h | assumption | apply GroupOnly.removeEntry | apply GroupOnly.setGroup
      | apply GroupOnly.beginCount)
    | split

theorem GroupOnly.warnNormal {s₀ s : State} {g : Fin 4} (h : GroupOnly g s₀ s) :
    GroupOnly g s₀ (State.warnNormal s g) := by
  unfold State.warnNormal
  repeat' first
    | with_reducible (first
      | exact h | assumption | apply GroupOnly.resetSteps | apply GroupOnly.enterGroup
      | apply GroupOnly.placeEntry)
    | split

theorem GroupOnly.markGroup {s₀ s : State} {g : Fin 4} (h : GroupOnly g s₀ s) :
    GroupOnly g s₀ (State.markGroup s g) := by
  unfold State.markGroup
  repeat' first
    | with_reducible (first
      | exact h | assumption | apply GroupOnly.setGroup)
    | split

theorem GroupOnly.emergencyClose {s₀ s : State} {g : Fin 4} (h : GroupOnly g s₀ s) :
    GroupOnly g s₀ (State.emergencyClose s g) := by
  unfold State.emergencyClose
  repeat' first
    | with_reducible (first
      | exact h | assumption | apply GroupOnly.resetSteps | apply GroupOnly.markGroup
      | apply GroupOnly.enterGroup | apply GroupOnly.warnUnderMark
      | apply GroupOnly.enterClosing)
    | split

theorem GroupOnly.normalClose {s₀ s : State} {g : Fin 4} (h : GroupOnly g s₀ s) (src : Option
    NodeNo) :
    GroupOnly g s₀ (State.normalClose s g src) := by
  unfold State.normalClose
  dsimp only
  repeat' first
    | with_reducible (first
      | exact h | assumption | apply GroupOnly.reply | apply GroupOnly.refuse
      | apply GroupOnly.warnNormal)
    | split

theorem GroupOnly.closeGroup {s₀ s : State} {g : Fin 4} (h : GroupOnly g s₀ s) (q : Request) :
    GroupOnly g s₀ (State.closeGroup s g q) := by
  unfold State.closeGroup
  dsimp only
  repeat' first
    | with_reducible (first
      | exact h | assumption | apply GroupOnly.reply | apply GroupOnly.refuse
      | apply GroupOnly.emergencyClose | apply GroupOnly.normalClose)
    | split

theorem GroupOnly.startOpening {s₀ s : State} {g : Fin 4} (h : GroupOnly g s₀ s) :
    GroupOnly g s₀ (State.startOpening s g) := by
  unfold State.startOpening
  dsimp only
  repeat' first
    | with_reducible (first
      | exact h | assumption | apply GroupOnly.removeEntry | apply GroupOnly.resetSteps
      | apply GroupOnly.enterGroup | apply GroupOnly.commandNext)
    | split

theorem GroupOnly.openGroup {s₀ s : State} {g : Fin 4} (h : GroupOnly g s₀ s) (q : Request) :
    GroupOnly g s₀ (State.openGroup s g q) := by
  unfold State.openGroup
  dsimp only
  repeat' first
    | with_reducible (first
      | exact h | assumption | apply GroupOnly.reply | apply GroupOnly.refuse
      | apply GroupOnly.startOpening)
    | split

theorem GroupOnly.haltGroup {s₀ s : State} {g : Fin 4} (h : GroupOnly g s₀ s) :
    GroupOnly g s₀ (State.haltGroup s g) := by
  unfold State.haltGroup
  dsimp only
  repeat' first
    | with_reducible (first
      | exact h | assumption | apply GroupOnly.buildStop | apply GroupOnly.enterGroup
      | (refine GroupOnly.foldl _ (fun _ _ _ => ?_) _ ?_))
    | split

theorem GroupOnly.stopGroup {s₀ s : State} {g : Fin 4} (h : GroupOnly g s₀ s) :
    GroupOnly g s₀ (State.stopGroup s g) := by
  unfold State.stopGroup
  repeat' first
    | with_reducible (first
      | exact h | assumption | apply GroupOnly.removeEntry | apply GroupOnly.enterGroup
      | apply GroupOnly.haltGroup)
    | split

theorem GroupOnly.stopGroupRequest {s₀ s : State} {g : Fin 4} (h : GroupOnly g s₀ s) (q : Request) :
    GroupOnly g s₀ (State.stopGroupRequest s g q) := by
  unfold State.stopGroupRequest
  repeat' first
    | with_reducible (first
      | exact h | assumption | apply GroupOnly.reply | apply GroupOnly.stopGroup)
    | split

theorem GroupOnly.groupCommand {s₀ s : State} {g : Fin 4} (h : GroupOnly g s₀ s) (verb : Byte) (q
    : Request) :
    GroupOnly g s₀ (State.groupCommand s g verb q) := by
  unfold State.groupCommand
  repeat' first
    | with_reducible (first
      | exact h | assumption | apply GroupOnly.closeGroup | apply GroupOnly.openGroup
      | apply GroupOnly.stopGroupRequest | apply GroupOnly.reply)
    | split

theorem GroupOnly.cancelGroup {s₀ s : State} {g : Fin 4} (h : GroupOnly g s₀ s) :
    GroupOnly g s₀ (State.cancelGroup s g) := by
  unfold State.cancelGroup
  repeat' first
    | with_reducible (first
      | exact h | assumption | apply GroupOnly.removeEntry | apply GroupOnly.enterGroup
      | apply GroupOnly.haltGroup)
    | split

end Sys2Proof.Machine
end

