-- ==== Sys2Proof/Laws/KeepsCalls.lean ====
section
/-! SUPPORT. What the beacons and the call list keep. -/

set_option linter.unusedTactic false
set_option linter.unreachableTactic false

namespace Sys2Proof.Machine

open Sys2Proof

theorem Keeps.formBeacon {s₀ s : State} (h : Keeps s₀ s) (b : Fin 8) :
    Keeps s₀ (State.formBeacon s b) := by
  unfold State.formBeacon
  dsimp only
  repeat' first
    | with_reducible (first
      | exact h | assumption | apply Keeps.setShown)
    | split
    | exact rfl | exact id

theorem Keeps.formBeacons {s₀ s : State} (h : Keeps s₀ s) :
    Keeps s₀ (State.formBeacons s) := by
  unfold State.formBeacons
  repeat' first
    | with_reducible (first
      | exact h | assumption | apply Keeps.formBeacon
      | (refine Keeps.foldl _ (fun _ _ _ => ?_) _ ?_))
    | split
    | exact rfl | exact id

theorem Keeps.restartBeacons {s₀ s : State} (h : Keeps s₀ s) :
    Keeps s₀ (State.restartBeacons s) := by
  unfold State.restartBeacons
  repeat' first
    | with_reducible (first
      | exact h | assumption | apply Keeps.setShown
      | (refine Keeps.foldl _ (fun _ _ _ => ?_) _ ?_))
    | split
    | exact rfl | exact id

theorem Keeps.raiseBeacons {s₀ s : State} (h : Keeps s₀ s) :
    Keeps s₀ (State.raiseBeacons s) := by
  unfold State.raiseBeacons
  dsimp only
  repeat' first
    | with_reducible (first
      | exact h | assumption | apply Keeps.setShown
      | (refine Keeps.foldl _ (fun _ _ _ => ?_) _ ?_))
    | split
    | exact rfl | exact id

theorem Keeps.stepBeacon {s₀ s : State} (h : Keeps s₀ s) (b : Fin 8) :
    Keeps s₀ (State.stepBeacon s b) := by
  unfold State.stepBeacon
  dsimp only
  repeat' first
    | with_reducible (first
      | exact h | assumption | apply Keeps.reach | apply Keeps.setShown)
    | split
    | exact rfl | exact id

theorem Keeps.setMark {s₀ s : State} (h : Keeps s₀ s) (e : Fin 16) (z : Fin 12) (m : Mark) :
    Keeps s₀ (State.setMark s e z m) := by
  unfold State.setMark
  repeat' first
    | with_reducible (first
      | exact h | assumption | apply Keeps.setCall)
    | split
    | exact rfl | exact id

theorem Keeps.cutTo {s₀ s : State} (h : Keeps s₀ s) (z : Fin 12) (node : NodeNo) (object : Byte)
    (urgent : Bool) :
    Keeps s₀ (State.cutTo s z node object urgent) := by
  unfold State.cutTo
  dsimp only
  repeat' first
    | with_reducible (first
      | exact h | assumption | exact Keeps.offer_eq (by assumption) (by assumption)
      | apply Keeps.offer | apply Keeps.setZone | refine Keeps.offer_eq ?_ (by assumption)
      | refine Keeps.of_eq ?_ (by assumption))
    | split
    | exact rfl | exact id

theorem Keeps.buildCut {s₀ s : State} (h : Keeps s₀ s) (z : Fin 12) (urgent : Bool) :
    Keeps s₀ (State.buildCut s z urgent) := by
  unfold State.buildCut
  repeat' first
    | with_reducible (first
      | exact h | assumption | apply Keeps.cutTo)
    | split
    | exact rfl | exact id

theorem Keeps.buildPlay {s₀ s : State} (h : Keeps s₀ s) (z : Fin 12) (node : NodeNo) (object :
    Byte) (c : Call) :
    Keeps s₀ (State.buildPlay s z node object c) := by
  unfold State.buildPlay
  dsimp only
  repeat' first
    | with_reducible (first
      | exact h | assumption | exact Keeps.offer_eq (by assumption) (by assumption)
      | apply Keeps.offer | apply Keeps.setZone | refine Keeps.offer_eq ?_ (by assumption)
      | refine Keeps.of_eq ?_ (by assumption))
    | split
    | exact rfl | exact id

theorem Keeps.advanceIssue {s₀ s : State} (h : Keeps s₀ s) (z : Fin 12) :
    Keeps s₀ (State.advanceIssue s z) := by
  unfold State.advanceIssue
  dsimp only
  repeat' first
    | with_reducible (first
      | exact h | assumption | apply Keeps.setZone)
    | split
    | exact rfl | exact id

theorem Keeps.playOwner {s₀ s : State} (h : Keeps s₀ s) (z : Fin 12) :
    Keeps s₀ (State.playOwner s z) := by
  unfold State.playOwner
  dsimp only
  repeat' first
    | with_reducible (first
      | exact h | assumption | apply Keeps.advanceIssue | apply Keeps.setMark
      | apply Keeps.buildPlay)
    | split
    | exact rfl | exact id

theorem Keeps.recomputeZone {s₀ s : State} (h : Keeps s₀ s) (before : CallList) (gone : List (Fin
    16)) (z : Fin 12) :
    Keeps s₀ (State.recomputeZone before gone s z) := by
  unfold State.recomputeZone
  dsimp only
  repeat' first
    | with_reducible (first
      | exact h | assumption | apply Keeps.setMark | apply Keeps.setZone
      | apply Keeps.buildCut | apply Keeps.playOwner)
    | split
    | exact rfl | exact id

theorem Keeps.writeOwners {s₀ s : State} (h : Keeps s₀ s) : Keeps s₀ (State.writeOwners s) := by
  unfold State.writeOwners
  refine Keeps.foldl _ (fun _ z k => ?_) _ h
  exact k.writeLocal _ _ (by revert z; decide)

theorem Keeps.makeReady {s₀ s : State} (h : Keeps s₀ s) (e : Fin 16) (c : Call) :
    Keeps s₀ (State.makeReady s e c) := by
  unfold State.makeReady
  dsimp only
  repeat' first
    | with_reducible (first
      | exact h | assumption | apply Keeps.setCall | apply Keeps.push)
    | split
    | exact rfl | exact id

theorem Keeps.testReady {s₀ s : State} (h : Keeps s₀ s) :
    Keeps s₀ (State.testReady s) := by
  unfold State.testReady
  repeat' first
    | with_reducible (first
      | exact h | assumption | apply Keeps.makeReady
      | (refine Keeps.foldl _ (fun _ _ _ => ?_) _ ?_))
    | split
    | exact rfl | exact id

theorem Keeps.recompute {s₀ s : State} (h : Keeps s₀ s) (before : CallList) (gone : List (Fin 16)) :
    Keeps s₀ (State.recompute s before gone) := by
  unfold State.recompute
  repeat' first
    | with_reducible (first
      | exact h | assumption | apply Keeps.recomputeZone | apply Keeps.writeOwners
      | apply Keeps.testReady | (refine Keeps.foldl _ (fun _ _ _ => ?_) _ ?_))
    | split
    | exact rfl | exact id

theorem Keeps.handleDone (n : Nat) {s₀ s : State} (h : Keeps s₀ s) :
    Keeps s₀ (State.handleDone n s) := by
  induction n generalizing s with
  | zero => exact h
  | succ n ih =>
    unfold State.handleDone
    split
    · exact ih ((h.withCl _).recompute _ _)
    · exact h

theorem Keeps.reallocate {s₀ s : State} (h : Keeps s₀ s) (before : CallList) (gone : List (Fin
    16)) :
    Keeps s₀ (State.reallocate s before gone) := by
  unfold State.reallocate
  repeat' first
    | with_reducible (first
      | exact h | assumption | apply Keeps.handleDone | apply Keeps.recompute
      | apply Keeps.formBeacons)
    | split
    | exact rfl | exact id

theorem Keeps.settleDone {s₀ s : State} (h : Keeps s₀ s) :
    Keeps s₀ (State.settleDone s) := by
  unfold State.settleDone
  repeat' first
    | with_reducible (first
      | exact h | assumption | apply Keeps.handleDone | apply Keeps.formBeacons)
    | split
    | exact rfl | exact id

theorem Keeps.placeEntry {s₀ s : State} (h : Keeps s₀ s) (e : Fin 16) (c : Call) :
    Keeps s₀ (State.placeEntry s e c) := by
  unfold State.placeEntry
  dsimp only
  repeat' first
    | with_reducible (first
      | exact h | assumption | apply Keeps.reallocate)
    | split
    | with_reducible (first | apply Keeps.withCl)
    | exact rfl | exact id

theorem Keeps.removeEntries {s₀ s : State} (h : Keeps s₀ s) (es : List (Fin 16)) :
    Keeps s₀ (State.removeEntries s es) := by
  unfold State.removeEntries
  extract_lets gone before s'
  have k : Keeps s₀ s' := (h.withCl _).reallocate _ _
  clear_value s'
  split
  · exact k.push _
  · exact k

theorem Keeps.removeEntry {s₀ s : State} (h : Keeps s₀ s) (e : Fin 16) :
    Keeps s₀ (State.removeEntry s e) := by
  unfold State.removeEntry
  repeat' first
    | with_reducible (first
      | exact h | assumption | apply Keeps.removeEntries)
    | split
    | exact rfl | exact id

theorem Keeps.placeEmergency {s₀ s : State} (h : Keeps s₀ s) :
    Keeps s₀ (State.placeEmergency s) := by
  unfold State.placeEmergency
  repeat' first
    | with_reducible (first
      | exact h | assumption | apply Keeps.placeEntry)
    | split
    | exact rfl | exact id

theorem Keeps.refreshCall {s₀ s : State} (h : Keeps s₀ s) (e : Fin 16) (p : PlaceReq) :
    Keeps s₀ (State.refreshCall s e p) := by
  unfold State.refreshCall
  dsimp only
  repeat' first
    | with_reducible (first
      | exact h | assumption | apply Keeps.setCall | apply Keeps.playOwner
      | apply Keeps.reallocate | (refine Keeps.foldl _ (fun _ _ _ => ?_) _ ?_))
    | split
    | exact rfl | exact id

theorem Keeps.placeCall {s₀ s : State} (h : Keeps s₀ s) (src : NodeNo) (payload : List Byte) :
    Keeps s₀ (State.placeCall s src payload) := by
  unfold State.placeCall
  dsimp only
  repeat' first
    | with_reducible (first
      | exact h | assumption | apply Keeps.reply | apply Keeps.refreshCall
      | apply Keeps.placeEntry | apply Keeps.raiseFlag)
    | split
    | exact rfl | exact id

theorem Keeps.cancelCall {s₀ s : State} (h : Keeps s₀ s) (src : NodeNo) (payload : List Byte) :
    Keeps s₀ (State.cancelCall s src payload) := by
  unfold State.cancelCall
  dsimp only
  repeat' first
    | with_reducible (first
      | exact h | assumption | apply Keeps.reply | apply Keeps.removeEntries)
    | split
    | exact rfl | exact id

theorem Keeps.loseZone {s₀ s : State} (h : Keeps s₀ s) (z : Fin 12) (e : Fin 16) (c : Call) :
    Keeps s₀ (State.loseZone s z e c) := by
  unfold State.loseZone
  dsimp only
  repeat' first
    | with_reducible (first
      | exact h | assumption | apply Keeps.setMark | apply Keeps.raiseFlag
      | apply Keeps.settleDone)
    | split
    | exact rfl | exact id

theorem Keeps.zoneFrameStarted {s₀ s : State} (h : Keeps s₀ s) (z : Fin 12) (issue : Byte) (play urgent
    : Bool) (f : Frame) :
    Keeps s₀ (State.zoneFrameStarted s z issue play urgent f) := by
  unfold State.zoneFrameStarted
  dsimp only
  repeat' first
    | with_reducible (first
      | exact h | assumption | apply Keeps.setMark | apply Keeps.buildCut
      | apply Keeps.playOwner | apply Keeps.settleDone | apply Keeps.cutTo)
    | split
    | exact rfl | exact id

theorem Keeps.zoneOutcome {s₀ s : State} (h : Keeps s₀ s) (z : Fin 12) (issue : Byte) (play :
    Bool) (accepted : Bool) :
    Keeps s₀ (State.zoneOutcome s z issue play accepted) := by
  unfold State.zoneOutcome
  repeat' first
    | with_reducible (first
      | exact h | assumption | apply Keeps.setMark | apply Keeps.loseZone)
    | split
    | exact rfl | exact id

theorem Keeps.zoneReport {s₀ s : State} (h : Keeps s₀ s) (z : Fin 12) (value : Byte) :
    Keeps s₀ (State.zoneReport s z value) := by
  unfold State.zoneReport
  repeat' first
    | with_reducible (first
      | exact h | assumption | apply Keeps.setMark | apply Keeps.playOwner
      | apply Keeps.loseZone | apply Keeps.settleDone)
    | split
    | exact rfl | exact id

theorem Keeps.callsImageChange {s₀ s : State} (h : Keeps s₀ s) (index : Nat) (value : Byte) :
    Keeps s₀ (State.callsImageChange s index value) := by
  unfold State.callsImageChange
  repeat' first
    | with_reducible (first
      | exact h | assumption | apply Keeps.zoneReport
      | (refine Keeps.foldl _ (fun _ _ _ => ?_) _ ?_))
    | split
    | exact rfl | exact id

theorem Keeps.waitExpired {s₀ s : State} (h : Keeps s₀ s) (e : Fin 16) :
    Keeps s₀ (State.waitExpired s e) := by
  unfold State.waitExpired
  repeat' first
    | with_reducible (first
      | exact h | assumption | apply Keeps.reach | apply Keeps.makeReady
      | apply Keeps.raiseFlag)
    | split
    | exact rfl | exact id

theorem Keeps.offerZonePending {s₀ s : State} (h : Keeps s₀ s) (z : Fin 12) :
    Keeps s₀ (State.offerZonePending s z) := by
  unfold State.offerZonePending
  dsimp only
  repeat' first
    | with_reducible (first
      | exact h | assumption | exact Keeps.offer_eq (by assumption) (by assumption)
      | apply Keeps.offer | apply Keeps.setZone | refine Keeps.offer_eq ?_ (by assumption)
      | refine Keeps.of_eq ?_ (by assumption))
    | split
    | exact rfl | exact id

theorem Keeps.moveZone {s₀ s : State} (h : Keeps s₀ s) (z : Fin 12) (oldTarget : Option (NodeNo ×
    Byte)) :
    Keeps s₀ (State.moveZone s z oldTarget) := by
  unfold State.moveZone
  dsimp only
  repeat' first
    | with_reducible (first
      | exact h | assumption | apply Keeps.setZone | apply Keeps.cutTo | apply Keeps.setMark
      | apply Keeps.playOwner)
    | split
    | exact rfl | exact id

theorem Keeps.swapZones {s₀ s : State} (h : Keeps s₀ s) (oldDefs : Tab ObjDef 96) (newIndex : Fin
    12 → Nat) :
    Keeps s₀ (State.swapZones s oldDefs newIndex) := by
  unfold State.swapZones
  dsimp only
  repeat' first
    | with_reducible (first
      | exact h | assumption | apply Keeps.setZone | apply Keeps.moveZone
      | apply Keeps.settleDone | (refine Keeps.foldl _ (fun _ _ _ => ?_) _ ?_))
    | split
    | exact rfl | exact id

theorem Keeps.restartCalls {s₀ s : State} (h : Keeps s₀ s) :
    Keeps s₀ (State.restartCalls s) := by
  unfold State.restartCalls
  extract_lets s1 src s2 s3
  have k1 : Keeps s₀ s1 := Keeps.foldl _ (fun t z k => by
    split
    · exact k
    · split
      · exact k.buildCut _ _
      · exact k) _ h
  have k2 : Keeps s₀ s2 := k1.withCl _
  have k3 : Keeps s₀ s3 := Keeps.foldl _ (fun t z k => k.setZone _ _) _ k2
  exact k3.writeOwners

end Sys2Proof.Machine
end

