-- ==== Sys2Proof/Laws/KeepsRamps.lean ====
section
/-! SUPPORT. What the ramp channels keep. -/

set_option linter.unusedTactic false
set_option linter.unreachableTactic false

namespace Sys2Proof.Machine

open Sys2Proof

/-- The state of a pair, known by an equation. -/
theorem Keeps.of_eq {s u : State} {b : Bool} {p : State × Bool} (k : Keeps s p.1) (e : p = (u, b)) :
    Keeps s u := by
  rw [e] at k
  exact k

/-! ### Entering a state -/

/-- The entry to a state leaves the outputs as the state allows (R80, R119). -/
theorem Ramp.enter_quiet (r : Ramp) (st : RampState) : RampQuiet (r.enter st) := by
  refine ⟨fun h => ?_, nofun, nofun⟩
  have h' : st.isMotion = false := h
  simp [Ramp.enter, h']

theorem Keeps.entered {s₀ s : State} (h : Keeps s₀ s) (ch : Channel) (st : RampState) :
    Keeps s₀ ((s.setRamp ch ((s.ramp ch).enter st)).writeLocal ch.stateEntry st.code) := by
  refine h.trans ⟨?_, ?_, ?_, ?_, ?_, ?_, ?_, ?_⟩
  · intro k i; have := k i; unfold State.writeLocal; split <;> exact this
  · intro k; unfold State.writeLocal; split <;> exact k
  · intro k; unfold State.writeLocal; split <;> exact k
  · intro k; unfold State.writeLocal; split <;> exact k
  · intro k
    have : RampsOk (s.setRamp ch ((s.ramp ch).enter st)) := by
      cases ch with
      | a => exact ⟨Ramp.enter_quiet _ _, k.2⟩
      | b => exact ⟨k.1, Ramp.enter_quiet _ _⟩
    unfold State.writeLocal; split <;> exact this
  · rintro ⟨k0, k1, k2⟩
    have hr : ((s.setRamp ch ((s.ramp ch).enter st)).writeLocal ch.stateEntry st.code).ramps
        = s.ramps.put ch ((s.ramp ch).enter st) := by unfold State.writeLocal; split <;> rfl
    have hg : ((s.setRamp ch ((s.ramp ch).enter st)).writeLocal ch.stateEntry st.code).groups
        = s.groups := by unfold State.writeLocal; split <;> rfl
    have hd : ((s.setRamp ch ((s.ramp ch).enter st)).writeLocal ch.stateEntry st.code).dcc
        = s.dcc := by unfold State.writeLocal; split <;> rfl
    unfold PublishedOk
    rw [State.writeLocal_locals, hd]
    refine ⟨?_, fun c => ?_, fun g => ?_⟩
    · rw [Tab.at_put_ne _ _ (by cases ch <;> decide)]; exact k0
    · show _ = ((((s.setRamp ch ((s.ramp ch).enter st)).writeLocal ch.stateEntry st.code).ramps).get
        c).state.code
      rw [hr]
      by_cases hc : ch = c
      · subst hc; rw [Tab.at_put_self]; cases ch <;> rfl
      · rw [Tab.at_put_ne _ _ (by cases ch <;> cases c <;> first | decide | exact absurd rfl hc)]
        cases ch <;> cases c <;> first | exact absurd rfl hc | exact k1 _
    · show _ = ((((s.setRamp ch ((s.ramp ch).enter st)).writeLocal ch.stateEntry st.code).groups).at
        g).state.code
      rw [hg, Tab.at_put_ne _ _ (by cases ch <;> revert g <;> decide)]
      exact k2 g
  · intro k
    unfold SummaryOk at *
    rw [State.writeLocal_locals, Tab.at_put_ne _ _ (by cases ch <;> decide)]
    unfold State.writeLocal; split <;> exact k
  · intro k
    unfold Told at *
    rw [State.writeLocal_locals, Tab.at_put_ne _ _ (by cases ch <;> decide)]
    unfold State.writeLocal; split <;> exact k

theorem State.writeLocal_ramp (s : State) (i : Fin 32) (v : Byte) (ch : Channel) :
    (s.writeLocal i v).ramp ch = s.ramp ch := by
  unfold State.writeLocal; split <;> rfl

theorem State.abortTestOn_state (s : State) (ch ch' : Channel) :
    ((s.abortTestOn ch).ramp ch').state = (s.ramp ch').state := by
  unfold State.abortTestOn
  split
  · unfold State.endTest
    split
    · rfl
    · rename_i t _
      have hc : ∀ (u : State) o v p, (u.notice o v p).ramp ch' = u.ramp ch' := by
        intro u o v p
        unfold State.ramp
        rw [(u.notice_calm o v p).ramps]
      dsimp only
      rw [hc]
      show ((s.zeroTestCount t.id).ramp ch').state = _
      unfold State.zeroTestCount
      split
      · rename_i c _; cases c <;> cases ch' <;> rfl
      · rename_i c _; cases c <;> cases ch' <;> rfl
      · rfl
      · rfl
  · rfl

/-- A channel that enters a state is in it. -/
theorem State.enterRamp_state (s : State) (ch : Channel) (st : RampState) :
    ((s.enterRamp ch st).ramp ch).state = st := by
  unfold State.enterRamp
  extract_lets s1 s2 s3 s4
  have h1 : (s1.ramp ch).state = st := by simp [s1, Ramp.enter]
  have h2 : (s2.ramp ch).state = st := by rw [← h1]; simp only [s2]; rw [State.writeLocal_ramp]
  have h3 : (s3.ramp ch).state = st := by
    simp only [s3]; split
    · exact h2
    · rw [State.abortTestOn_state]; exact h2
  have h4 : (s4.ramp ch).state = st := by
    simp only [s4]
    split
    · rw [((CallsOnly.refl _).removeEntry _).ramp]; exact h3
    · split
      · rw [((CallsOnly.refl _).placeEntry _ _).ramp]; exact h3
      · exact h3
  rw [((CallsOnly.refl s4).formBeacons).ramp]; exact h4

theorem Keeps.enterRamp {s₀ s : State} (h : Keeps s₀ s) (ch : Channel) (st : RampState) :
    Keeps s₀ (s.enterRamp ch st) := by
  unfold State.enterRamp
  extract_lets s1 s2 s3 s4
  have k2 : Keeps s₀ s2 := h.entered ch st
  clear_value s2
  have k3 : Keeps s₀ s3 := by
    simp only [s3]; split
    · exact k2
    · exact k2.abortTestOn ch
  clear_value s3
  have k4 : Keeps s₀ s4 := by
    simp only [s4]
    split
    · exact k3.removeEntry _
    · split
      · exact k3.placeEntry _ _
      · exact k3
  exact k4.formBeacons

theorem Keeps.drivePinsOut {s₀ s : State} (h : Keeps s₀ s) (ch : Channel)
    (hst : (s.ramp ch).state = .starting) : Keeps s₀ (s.drivePinsOut ch) :=
  h.setRamp ch _ (fun k => ⟨k.1, fun _ => hst, k.2.2⟩) rfl

theorem Keeps.startRamp {s₀ s : State} (h : Keeps s₀ s) (ch : Channel) (d : Dir) :
    Keeps s₀ (s.startRamp ch d) := by
  unfold State.startRamp
  extract_lets src s1 s2
  have k1 : Keeps s₀ s1 := h.setRamp ch _ (fun k => k) rfl
  have k2 : Keeps s₀ s2 := k1.enterRamp ch _
  have hst : (s2.ramp ch).state = .starting := State.enterRamp_state _ _ _
  clear_value s2
  split
  · exact k2
  · exact k2.drivePinsOut ch hst

theorem Keeps.enterLocking {s₀ s : State} (h : Keeps s₀ s) (ch : Channel) :
    Keeps s₀ (s.enterLocking ch) := by
  unfold State.enterLocking
  extract_lets s1 r
  have k1 : Keeps s₀ s1 := (h.setRamp ch (s.ramp ch).reReference (fun k => k) rfl).enterRamp ch _
  have hst : (s1.ramp ch).state = .locking := State.enterRamp_state _ _ _
  clear_value s1
  split
  · exact k1.enterRamp ch _
  · exact k1.setRamp ch _ (fun k => ⟨k.1, k.2.1, fun _ => hst⟩) rfl

theorem Keeps.leaveStarting {s₀ s : State} (h : Keeps s₀ s) (ch : Channel) :
    Keeps s₀ (State.leaveStarting s ch) := by
  unfold State.leaveStarting
  dsimp only
  repeat' first
    | with_reducible (first
      | exact h | assumption | apply Keeps.setRamp | apply Keeps.enterLocking
      | apply Keeps.enterRamp | apply Keeps.raiseFlag)
    | split
    | exact rfl | exact id

theorem Keeps.rampWarned {s₀ s : State} (h : Keeps s₀ s) (ch : Channel) :
    Keeps s₀ (State.rampWarned s ch) := by
  unfold State.rampWarned
  repeat' first
    | with_reducible (first
      | exact h | assumption | apply Keeps.setRamp | apply Keeps.leaveStarting)
    | split
    | exact rfl | exact id

theorem Keeps.rampCallReady {s₀ s : State} (h : Keeps s₀ s) (ch : Channel) :
    Keeps s₀ (State.rampCallReady s ch) := by
  unfold State.rampCallReady
  dsimp only
  repeat' first
    | with_reducible (first
      | exact h | assumption | apply Keeps.rampWarned | apply Keeps.setRamp)
    | split
    | exact rfl | exact id

theorem Keeps.faultRamp {s₀ s : State} (h : Keeps s₀ s) (ch : Channel) (c : Cause) :
    Keeps s₀ (State.faultRamp s ch c) := by
  unfold State.faultRamp
  dsimp only
  repeat' first
    | with_reducible (first
      | exact h | assumption | apply Keeps.setRamp | apply Keeps.enterRamp
      | apply Keeps.raiseFlag)
    | split
    | exact rfl | exact id

theorem Keeps.haltRamp {s₀ s : State} (h : Keeps s₀ s) (ch : Channel) :
    Keeps s₀ (State.haltRamp s ch) := by
  unfold State.haltRamp
  repeat' first
    | with_reducible (first
      | exact h | assumption | apply Keeps.enterRamp | apply Keeps.setRamp)
    | split
    | exact rfl | exact id

theorem Keeps.answer {s₀ s : State} (h : Keeps s₀ s) (dest : NodeNo) (object : Byte)
    (x : Answer) : Keeps s₀ (s.answer dest object x) := by
  cases x
  · exact h.refuse _ _ _ _
  · exact h.reply _ _ _ _

theorem Keeps.markSilence {s₀ s : State} (h : Keeps s₀ s) (ch : Channel) :
    Keeps s₀ (State.markSilence s ch) := by
  unfold State.markSilence
  repeat' first
    | with_reducible (first
      | exact h | assumption | apply Keeps.setRamp)
    | split
    | exact rfl | exact id

theorem Keeps.pendStart {s₀ s : State} (h : Keeps s₀ s) (ch : Channel) (d : Dir) :
    Keeps s₀ (State.pendStart s ch d) := by
  unfold State.pendStart
  repeat' first
    | with_reducible (first
      | exact h | assumption | apply Keeps.setRamp | apply Keeps.enterRamp)
    | split
    | exact rfl | exact id

theorem Keeps.moveByState {s₀ s : State} (h : Keeps s₀ s) (ch : Channel) (d : Dir) (src : NodeNo) :
    Keeps s₀ (State.moveByState s ch d src) := by
  unfold State.moveByState
  dsimp only
  repeat' first
    | with_reducible (first
      | exact h | assumption | apply Keeps.refuse | apply Keeps.reply | apply Keeps.startRamp
      | apply Keeps.pendStart)
    | split
    | exact rfl | exact id

theorem Keeps.moveRamp {s₀ s : State} (h : Keeps s₀ s) (ch : Channel) (d : Dir) (q : Request) :
    Keeps s₀ (State.moveRamp s ch d q) := by
  unfold State.moveRamp
  dsimp only
  repeat' first
    | with_reducible (first
      | exact h | assumption | apply Keeps.markSilence | apply Keeps.reply
      | apply Keeps.answer | apply Keeps.moveByState)
    | split
    | exact rfl | exact id

theorem Keeps.startDeadMan {s₀ s : State} (h : Keeps s₀ s) (ch : Channel) :
    Keeps s₀ (State.startDeadMan s ch) := by
  unfold State.startDeadMan
  repeat' first
    | with_reducible (first
      | exact h | assumption | apply Keeps.setRamp)
    | split
    | exact rfl | exact id

theorem Keeps.jogByState {s₀ s : State} (h : Keeps s₀ s) (ch : Channel) (d : Dir) (speed : Nat)
    (src : NodeNo) :
    Keeps s₀ (State.jogByState s ch d speed src) := by
  unfold State.jogByState
  dsimp only
  repeat' first
    | with_reducible (first
      | exact h | assumption | apply Keeps.reply | apply Keeps.setRamp | apply Keeps.enterRamp
      | apply Keeps.startDeadMan | apply Keeps.refuse)
    | split
    | exact rfl | exact id

theorem Keeps.jogRamp {s₀ s : State} (h : Keeps s₀ s) (ch : Channel) (q : Request) :
    Keeps s₀ (State.jogRamp s ch q) := by
  unfold State.jogRamp
  dsimp only
  repeat' first
    | with_reducible (first
      | exact h | assumption | apply Keeps.markSilence | apply Keeps.reply
      | apply Keeps.answer | apply Keeps.jogByState)
    | split
    | exact rfl | exact id

theorem Keeps.stopRamp {s₀ s : State} (h : Keeps s₀ s) (ch : Channel) (q : Request) :
    Keeps s₀ (State.stopRamp s ch q) := by
  unfold State.stopRamp
  dsimp only
  repeat' first
    | with_reducible (first
      | exact h | assumption | apply Keeps.markSilence | apply Keeps.reply
      | apply Keeps.haltRamp)
    | split
    | exact rfl | exact id

theorem Keeps.resetRamp {s₀ s : State} (h : Keeps s₀ s) (ch : Channel) (q : Request) :
    Keeps s₀ (State.resetRamp s ch q) := by
  unfold State.resetRamp
  dsimp only
  repeat' first
    | with_reducible (first
      | exact h | assumption | apply Keeps.markSilence | apply Keeps.reply
      | apply Keeps.refuse | apply Keeps.setRamp | apply Keeps.enterRamp)
    | split
    | exact rfl | exact id

theorem Keeps.rampCommand {s₀ s : State} (h : Keeps s₀ s) (ch : Channel) (verb : Byte) (q :
    Request) :
    Keeps s₀ (State.rampCommand s ch verb q) := by
  unfold State.rampCommand
  repeat' first
    | with_reducible (first
      | exact h | assumption | apply Keeps.moveRamp | apply Keeps.stopRamp
      | apply Keeps.jogRamp | apply Keeps.resetRamp | apply Keeps.markSilence
      | apply Keeps.reply)
    | split
    | exact rfl | exact id

theorem Keeps.pinsOutChanged {s₀ s : State} (h : Keeps s₀ s) (ch : Channel) (active : Bool) :
    Keeps s₀ (s.pinsOutChanged ch active) := by
  unfold State.pinsOutChanged
  dsimp only
  split
  · rename_i hst
    split
    · refine Keeps.leaveStarting ?_ ch
      exact h.setRamp ch _ (fun k => ⟨k.1, nofun, k.2.2⟩) rfl
    · exact h.drivePinsOut ch hst
  · exact h

theorem Keeps.pinsInChanged {s₀ s : State} (h : Keeps s₀ s) (ch : Channel) (active : Bool) :
    Keeps s₀ (State.pinsInChanged s ch active) := by
  unfold State.pinsInChanged
  repeat' first
    | with_reducible (first
      | exact h | assumption | apply Keeps.enterRamp)
    | split
    | exact rfl | exact id

theorem Keeps.acceptSwitch {s₀ s : State} (h : Keeps s₀ s) (ch : Channel) (sw : Switch)
    (active : Bool) : Keeps s₀ (s.setRamp ch ((s.ramp ch).acceptSwitch sw active)) := by
  cases sw <;> exact h.setRamp ch _ (fun k => k) rfl

theorem Keeps.switchAccepted {s₀ s : State} (h : Keeps s₀ s) (ch : Channel) (sw : Switch)
    (active : Bool) : Keeps s₀ (s.switchAccepted ch sw active) := by
  unfold State.switchAccepted
  extract_lets old s1 s2
  have k2 : Keeps s₀ s2 := (h.setChannelPins ch _).acceptSwitch ch sw active
  clear_value s2
  split
  · cases sw
    · exact k2
    · exact k2
    · exact k2.pinsInChanged ch active
    · exact k2.pinsOutChanged ch active
  · exact k2

theorem Keeps.estopRamp {s₀ s : State} (h : Keeps s₀ s) (ch : Channel) :
    Keeps s₀ (State.estopRamp s ch) := by
  unfold State.estopRamp
  dsimp only
  repeat' first
    | with_reducible (first
      | exact h | assumption | apply Keeps.raiseFlag | apply Keeps.setRamp
      | apply Keeps.enterRamp)
    | split
    | exact rfl | exact id

theorem Keeps.flagEstop {s₀ s : State} (h : Keeps s₀ s) (ch : Channel) : Keeps s₀ (s.flagEstop ch) := by
  unfold State.flagEstop
  split
  · exact h.raiseFlag _
  · exact h

theorem Keeps.estopChanged {s₀ s : State} (h : Keeps s₀ s) (active : Bool) :
    Keeps s₀ (s.estopChanged active) := by
  unfold State.estopChanged
  extract_lets old src s1
  have k1 : Keeps s₀ s1 := h.same rfl rfl rfl rfl rfl rfl rfl rfl rfl rfl rfl rfl rfl rfl
  clear_value s1
  split
  · split
    · exact (k1.estopRamp _).estopRamp _
    · exact (k1.flagEstop _).flagEstop _
  · exact k1

theorem Keeps.silenceRamp {s₀ s : State} (h : Keeps s₀ s) (ch : Channel) :
    Keeps s₀ (State.silenceRamp s ch) := by
  unfold State.silenceRamp
  repeat' first
    | with_reducible (first
      | exact h | assumption | apply Keeps.setRamp | apply Keeps.haltRamp)
    | split
    | exact rfl | exact id

theorem Keeps.pinExpired {s₀ s : State} (h : Keeps s₀ s) (ch : Channel) :
    Keeps s₀ (State.pinExpired s ch) := by
  unfold State.pinExpired
  dsimp only
  repeat' first
    | with_reducible (first
      | exact h | assumption | apply Keeps.reach | apply Keeps.faultRamp
      | apply Keeps.setRamp)
    | split
    | exact rfl | exact id

theorem Keeps.rampWarningExpired {s₀ s : State} (h : Keeps s₀ s) (ch : Channel) :
    Keeps s₀ (State.rampWarningExpired s ch) := by
  unfold State.rampWarningExpired
  repeat' first
    | with_reducible (first
      | exact h | assumption | apply Keeps.reach | apply Keeps.rampWarned)
    | split
    | exact rfl | exact id

theorem Keeps.deadManExpired {s₀ s : State} (h : Keeps s₀ s) (ch : Channel) :
    Keeps s₀ (State.deadManExpired s ch) := by
  unfold State.deadManExpired
  dsimp only
  repeat' first
    | with_reducible (first
      | exact h | assumption | apply Keeps.reach | apply Keeps.enterRamp
      | apply Keeps.setRamp)
    | split
    | exact rfl | exact id

theorem Keeps.enableRamp {s₀ s : State} (h : Keeps s₀ s) (ch : Channel) (p : RampParams) :
    Keeps s₀ (s.enableRamp ch p) := by
  unfold State.enableRamp
  extract_lets pins r s1
  have k1 : Keeps s₀ s1 := h.setRamp ch _ (fun k => ⟨fun _ => ⟨rfl, rfl, rfl⟩, k.2⟩) rfl
  clear_value s1
  split
  · exact (k1.enterRamp ch _).raiseFlag _
  · exact k1.enterRamp ch _

theorem Keeps.disableRamp {s₀ s : State} (h : Keeps s₀ s) (ch : Channel) :
    Keeps s₀ (s.disableRamp ch) := by
  unfold State.disableRamp
  refine Keeps.enterRamp ?_ ch _
  exact h.setRamp ch _ (fun k => ⟨fun _ => ⟨rfl, rfl, rfl⟩, k.2⟩) rfl

theorem Keeps.updateRamp {s₀ s : State} (h : Keeps s₀ s) (ch : Channel) (p : RampParams) :
    Keeps s₀ (State.updateRamp s ch p) := by
  unfold State.updateRamp
  dsimp only
  repeat' first
    | with_reducible (first
      | exact h | assumption | apply Keeps.setRamp | apply Keeps.abortTestOn
      | apply Keeps.formBeacons)
    | split
    | exact rfl | exact id

theorem Keeps.swapRamp {s₀ s : State} (h : Keeps s₀ s) (ch : Channel) (p : RampParams) :
    Keeps s₀ (State.swapRamp s ch p) := by
  unfold State.swapRamp
  repeat' first
    | with_reducible (first
      | exact h | assumption | apply Keeps.enableRamp | apply Keeps.updateRamp
      | apply Keeps.disableRamp)
    | split
    | exact rfl | exact id

theorem Keeps.illegalTransition {s₀ s : State} (h : Keeps s₀ s) (ch : Channel) :
    Keeps s₀ (State.illegalTransition s ch) := by
  unfold State.illegalTransition
  dsimp only
  repeat' first
    | with_reducible (first
      | exact h | assumption | apply Keeps.setRamp | apply Keeps.raiseFlag
      | apply Keeps.faultRamp)
    | split
    | exact rfl | exact id

theorem Keeps.encoderChanged {s₀ s : State} (h : Keeps s₀ s) (ch : Channel) (a : Bool) (b : Bool) :
    Keeps s₀ (State.encoderChanged s ch a b) := by
  unfold State.encoderChanged
  dsimp only
  repeat' first
    | with_reducible (first
      | exact h | assumption | apply Keeps.setChannelPins | apply Keeps.setRamp
      | apply Keeps.illegalTransition)
    | split
    | exact rfl | exact id

theorem Keeps.recentExpired {s₀ s : State} (h : Keeps s₀ s) (ch : Channel) :
    Keeps s₀ (State.recentExpired s ch) := by
  unfold State.recentExpired
  dsimp only
  repeat' first
    | with_reducible (first
      | exact h | assumption | apply Keeps.reach | apply Keeps.setRamp)
    | split
    | exact rfl | exact id

theorem Keeps.writeLand {s₀ s : State} (h : Keeps s₀ s) (ch : Channel) :
    Keeps s₀ (State.writeLand s ch) := by
  unfold State.writeLand
  dsimp only
  repeat' first
    | with_reducible (first
      | exact h | assumption | apply Keeps.writeLocal | apply Keeps.endTest)
    | split
    | with_reducible (first | apply Keeps.withFc)
    | exact rfl | exact id | (cases ch <;> rfl)

theorem Keeps.testStep {s₀ s : State} (h : Keeps s₀ s) (id : TestId) (last : Nat) :
    Keeps s₀ (State.testStep s id last) := by
  unfold State.testStep
  dsimp only
  repeat' first
    | with_reducible (first
      | exact h | assumption | apply Keeps.endTest)
    | split
    | with_reducible (first | apply Keeps.withFc)
    | exact rfl | exact id

theorem Keeps.overspeedMonitor {s₀ s : State} (h : Keeps s₀ s) (ch : Channel) :
    Keeps s₀ (State.overspeedMonitor s ch).1 := by
  unfold State.overspeedMonitor
  dsimp only
  repeat' first
    | with_reducible (first
      | exact h | assumption | apply Keeps.setRamp | apply Keeps.endTest
      | apply Keeps.faultRamp | apply Keeps.testStep)
    | split
    | exact rfl | exact id

theorem Keeps.stallMonitor {s₀ s : State} (h : Keeps s₀ s) (ch : Channel) :
    Keeps s₀ (State.stallMonitor s ch).1 := by
  unfold State.stallMonitor
  dsimp only
  repeat' first
    | with_reducible (first
      | exact h | assumption | apply Keeps.setRamp | apply Keeps.faultRamp)
    | split
    | exact rfl | exact id

theorem Keeps.motionMonitor {s₀ s : State} (h : Keeps s₀ s) (ch : Channel) :
    Keeps s₀ (State.motionMonitor s ch).1 := by
  unfold State.motionMonitor
  dsimp only
  repeat' first
    | with_reducible (first
      | exact h | assumption | apply Keeps.setRamp | apply Keeps.faultRamp)
    | split
    | exact rfl | exact id

theorem Keeps.monitors {s₀ s : State} (h : Keeps s₀ s) (ch : Channel) :
    Keeps s₀ (State.monitors s ch).1 := by
  unfold State.monitors
  repeat' first
    | with_reducible (first
      | exact h | assumption | apply Keeps.overspeedMonitor | apply Keeps.stallMonitor
      | apply Keeps.motionMonitor | refine Keeps.of_eq ?_ (by assumption))
    | split
    | exact rfl | exact id

theorem Keeps.positionStep {s₀ s : State} (h : Keeps s₀ s) (ch : Channel) :
    Keeps s₀ (State.positionStep s ch).1 := by
  unfold State.positionStep
  dsimp only
  repeat' first
    | with_reducible (first
      | exact h | assumption | apply Keeps.enterRamp | apply Keeps.faultRamp
      | apply Keeps.setRamp | apply Keeps.enterLocking)
    | split
    | exact rfl | exact id

theorem Keeps.permitStep {s₀ s : State} (h : Keeps s₀ s) (ch : Channel) :
    Keeps s₀ (State.permitStep s ch) := by
  unfold State.permitStep
  repeat' first
    | with_reducible (first
      | exact h | assumption | apply Keeps.enterRamp | apply Keeps.raiseFlag)
    | split
    | exact rfl | exact id

theorem Keeps.liftStep {s₀ s : State} (h : Keeps s₀ s) (ch : Channel) :
    Keeps s₀ (State.liftStep s ch) := by
  unfold State.liftStep
  dsimp only
  repeat' first
    | with_reducible (first
      | exact h | assumption | apply Keeps.setRamp | apply Keeps.raiseFlag)
    | split
    | exact rfl | exact id

theorem Keeps.transitions {s₀ s : State} (h : Keeps s₀ s) (ch : Channel) :
    Keeps s₀ (State.transitions s ch) := by
  unfold State.transitions
  repeat' first
    | with_reducible (first
      | exact h | assumption | apply Keeps.positionStep | apply Keeps.liftStep
      | apply Keeps.permitStep | refine Keeps.of_eq ?_ (by assumption))
    | split
    | exact rfl | exact id

theorem Keeps.profileStage {s₀ s : State} (h : Keeps s₀ s) (ch : Channel) :
    Keeps s₀ (State.profileStage s ch) := by
  unfold State.profileStage
  dsimp only
  repeat' first
    | with_reducible (first
      | exact h | assumption | apply Keeps.setRamp | apply Keeps.enterRamp
      | apply Keeps.startRamp)
    | split
    | exact rfl | exact id

theorem Keeps.referenceTest {s₀ s : State} (h : Keeps s₀ s) (ch : Channel) :
    Keeps s₀ (s.setRamp ch (s.ramp ch).referenceTest) := by
  unfold Ramp.referenceTest
  split
  · exact h.setRamp ch _ (fun k => k) rfl
  · exact h.setRamp ch _ (fun k => k) rfl

/-- Outside the motion states the drive stage leaves both compares off and the integrator 0 (R119). -/
theorem Keeps.drive {s₀ s : State} (h : Keeps s₀ s) (ch : Channel) :
    Keeps s₀ (s.setRamp ch (s.ramp ch).drive) := by
  unfold Ramp.drive
  split
  · rename_i hm
    exact h.setRamp ch _ (fun k => ⟨fun e => absurd (hm.symm.trans e) (by decide), k.2⟩) rfl
  · exact h.setRamp ch _ (fun k => ⟨fun e => ⟨rfl, (k.1 e).2⟩, k.2⟩) rfl

theorem Keeps.stage2 {s₀ s : State} (h : Keeps s₀ s) (ch : Channel) :
    Keeps s₀ (match s.monitors ch with
      | (s, true) => s
      | (s, false) => s.transitions ch) := by
  have k := h.monitors ch
  split
  · exact k.of_eq (by assumption)
  · exact (k.of_eq (by assumption)).transitions ch

theorem Keeps.periodEnd {s₀ s : State} (h : Keeps s₀ s) (ch : Channel) :
    Keeps s₀ (s.periodEnd ch) := by
  unfold State.periodEnd
  extract_lets due s1 src s2 src' s3 s4 s5 s6 s7 s8 src''
  have k2 : Keeps s₀ s2 := (h.reach _).setRamp ch _ (fun k => k) rfl
  clear_value s2
  split
  · exact k2.writeLand ch
  · have k3 : Keeps s₀ s3 := k2.setRamp ch _ (fun k => k) rfl
    have k4 : Keeps s₀ s4 := k3.writeLand ch
    have k5 : Keeps s₀ s5 := k4.referenceTest ch
    have k6 : Keeps s₀ s6 := k5.stage2 ch
    have k7 : Keeps s₀ s7 := k6.profileStage ch
    have k8 : Keeps s₀ s8 := k7.drive ch
    exact k8.setRamp ch _ (fun k => k) rfl

theorem Keeps.pwmStart {s₀ s : State} (h : Keeps s₀ s) (ch : Channel) :
    Keeps s₀ (s.pwmStart ch) := by
  unfold State.pwmStart
  dsimp only
  split
  · exact h
  · exact (h.reach _).setRamp ch _
      (fun k => ⟨fun e => ⟨(k.1 e).1, (k.1 e).1, (k.1 e).2.2⟩, k.2⟩) rfl

theorem Keeps.pwmAtCentre {s₀ s : State} (h : Keeps s₀ s) (ch : Channel) :
    Keeps s₀ (State.pwmAtCentre s ch) := by
  unfold State.pwmAtCentre
  dsimp only
  repeat' first
    | with_reducible (first
      | exact h | assumption | apply Keeps.reach | apply Keeps.setRamp)
    | split
    | exact rfl | exact id

theorem Keeps.overloadMonitor {s₀ s : State} (h : Keeps s₀ s) (ch : Channel) (sample : Nat) :
    Keeps s₀ (State.overloadMonitor s ch sample) := by
  unfold State.overloadMonitor
  dsimp only
  repeat' first
    | with_reducible (first
      | exact h | assumption | apply Keeps.setRamp | apply Keeps.endTest
      | apply Keeps.faultRamp | apply Keeps.testStep)
    | split
    | exact rfl | exact id

theorem Keeps.conversionDone {s₀ s : State} (h : Keeps s₀ s) (ch : Channel) (sample : BitVec 12) :
    Keeps s₀ (State.conversionDone s ch sample) := by
  unfold State.conversionDone
  dsimp only
  repeat' first
    | with_reducible (first
      | exact h | assumption | apply Keeps.setChannelPins | apply Keeps.reach
      | apply Keeps.setRamp | apply Keeps.overloadMonitor)
    | split
    | exact rfl | exact id

end Sys2Proof.Machine
end

