-- ==== Sys2Proof/Laws/KeepsDoors.lean ====
section
/-! SUPPORT. What the door groups and the deck condition keep. -/

set_option linter.unusedTactic false
set_option linter.unreachableTactic false

namespace Sys2Proof.Machine

open Sys2Proof

/-! ### Entering a state -/

theorem groupEntry_ne (g : Fin 4) : groupEntry g ≠ 0 ∧ groupEntry g ≠ 11
    ∧ (∀ c : Channel, groupEntry g ≠ c.stateEntry) ∧ ∀ g' : Fin 4, g ≠ g' → groupEntry g ≠ groupEntry g' := by
  refine ⟨by revert g; decide, by revert g; decide, fun c => ?_, by revert g; decide⟩
  cases c <;> revert g <;> decide

theorem Keeps.groupEntered {s₀ s : State} (h : Keeps s₀ s) (g : Fin 4) (x : Group) :
    Keeps s₀ ((s.setGroup g x).writeLocal (groupEntry g) x.state.code) := by
  have h2 : ∀ i v, ((s.setGroup g x).writeLocal i v).groups = s.groups.put g x := by
    intro i v; unfold State.writeLocal; split <;> rfl
  refine h.trans ⟨?_, ?_, ?_, ?_, ?_, ?_, ?_, ?_⟩
  · intro k i; have := k i; unfold State.writeLocal; split <;> exact this
  · intro k; unfold State.writeLocal; split <;> exact k
  · intro k; unfold State.writeLocal; split <;> exact k
  · intro k; unfold State.writeLocal; split <;> exact k
  · intro k; unfold State.writeLocal; split <;> exact k
  · rintro ⟨k0, k1, k2⟩
    unfold PublishedOk
    rw [State.writeLocal_locals]
    refine ⟨?_, fun c => ?_, fun g' => ?_⟩
    · rw [Tab.at_put_ne _ _ (groupEntry_ne g).1]
      unfold State.writeLocal; split <;> exact k0
    · rw [Tab.at_put_ne _ _ ((groupEntry_ne g).2.2.1 c), State.writeLocal_ramp]
      exact k1 c
    · show _ = ((((s.setGroup g x).writeLocal _ _).groups).at g').state.code
      rw [h2]
      by_cases hg : g = g'
      · subst hg; rw [Tab.at_put_self, Tab.at_put_self]
      · rw [Tab.at_put_ne _ _ hg, Tab.at_put_ne _ _ ((groupEntry_ne g).2.2.2 g' hg)]
        exact k2 g'
  · intro k
    unfold SummaryOk at *
    rw [State.writeLocal_locals, Tab.at_put_ne _ _ (groupEntry_ne g).2.1]
    unfold State.writeLocal; split <;> exact k
  · intro k
    unfold Told at *
    rw [State.writeLocal_locals, Tab.at_put_ne _ _ (groupEntry_ne g).2.1]
    unfold State.writeLocal; split <;> exact k

theorem State.group_setGroup_self' (s : State) (g : Fin 4) (x : Group) :
    ((s.setGroup g x).group g).state = x.state := by
  rw [State.group_setGroup_self]

theorem Keeps.resetSteps {s₀ s : State} (h : Keeps s₀ s) (g : Fin 4) :
    Keeps s₀ (State.resetSteps s g) := by
  unfold State.resetSteps
  repeat' first
    | with_reducible (first
      | exact h | assumption | apply Keeps.setGroup)
    | split
    | exact rfl | exact id

theorem Keeps.enterGroup {s₀ s : State} (h : Keeps s₀ s) (g : Fin 4) (st : GroupState)
    (breach : Byte) : Keeps s₀ (s.enterGroup g st breach) := by
  unfold State.enterGroup
  extract_lets old s1 s2 r
  have k : Keeps s₀ s2 := h.groupEntered g ((s.group g).enter st)
  exact k.notice _ _ _

theorem Keeps.buildDoor {s₀ s : State} (h : Keeps s₀ s) (g : Fin 4) (k : Fin 8) (cmd : DoorCmd) :
    Keeps s₀ (State.buildDoor s g k cmd) := by
  unfold State.buildDoor
  dsimp only
  repeat' first
    | with_reducible (first
      | exact h | assumption | exact Keeps.offer_eq (by assumption) (by assumption)
      | apply Keeps.setStep | apply Keeps.offer | refine Keeps.offer_eq ?_ (by assumption)
      | refine Keeps.of_eq ?_ (by assumption))
    | split
    | exact rfl | exact id

theorem Keeps.buildStopTo {s₀ s : State} (h : Keeps s₀ s) (g : Fin 4) (k : Fin 8) (d : Fin 96)
    (target : NodeNo × Byte) :
    Keeps s₀ (State.buildStopTo s g k d target) := by
  unfold State.buildStopTo
  dsimp only
  repeat' first
    | with_reducible (first
      | exact h | assumption | exact Keeps.offer_eq (by assumption) (by assumption)
      | apply Keeps.offer | apply Keeps.setStep | refine Keeps.offer_eq ?_ (by assumption)
      | refine Keeps.of_eq ?_ (by assumption))
    | split
    | exact rfl | exact id

theorem Keeps.buildStop {s₀ s : State} (h : Keeps s₀ s) (g : Fin 4) (k : Fin 8) :
    Keeps s₀ (State.buildStop s g k) := by
  unfold State.buildStop
  repeat' first
    | with_reducible (first
      | exact h | assumption | apply Keeps.buildStopTo)
    | split
    | exact rfl | exact id

theorem Keeps.commandNext {s₀ s : State} (h : Keeps s₀ s) (g : Fin 4) :
    Keeps s₀ (State.commandNext s g) := by
  unfold State.commandNext
  repeat' first
    | with_reducible (first
      | exact h | assumption | apply Keeps.setStep | apply Keeps.buildDoor)
    | split
    | exact rfl | exact id

theorem Keeps.doorFrameStarted {s₀ s : State} (h : Keeps s₀ s) (g : Fin 4) (k : Fin 8) (issue :
    Byte) (cmd : DoorCmd) (d : Fin 96) (f : Frame) :
    Keeps s₀ (State.doorFrameStarted s g k issue cmd d f) := by
  unfold State.doorFrameStarted
  dsimp only
  repeat' first
    | with_reducible (first
      | exact h | assumption | apply Keeps.setStep | apply Keeps.commandNext
      | apply Keeps.setGroup | apply Keeps.buildStopTo)
    | split
    | exact rfl | exact id

theorem Keeps.endSequence {s₀ s : State} (h : Keeps s₀ s) (g : Fin 4) :
    Keeps s₀ (State.endSequence s g) := by
  unfold State.endSequence
  dsimp only
  repeat' first
    | with_reducible (first
      | exact h | assumption | apply Keeps.enterGroup | apply Keeps.raiseFlag)
    | split
    | exact rfl | exact id

theorem Keeps.confirmStep {s₀ s : State} (h : Keeps s₀ s) (g : Fin 4) (k : Fin 8) :
    Keeps s₀ (State.confirmStep s g k) := by
  unfold State.confirmStep
  repeat' first
    | with_reducible (first
      | exact h | assumption | apply Keeps.setStep | apply Keeps.endSequence)
    | split
    | exact rfl | exact id

theorem Keeps.failStep {s₀ s : State} (h : Keeps s₀ s) (g : Fin 4) (k : Fin 8) (c : StepCause) :
    Keeps s₀ (State.failStep s g k c) := by
  unfold State.failStep
  repeat' first
    | with_reducible (first
      | exact h | assumption | apply Keeps.setStep | apply Keeps.raiseFlag
      | apply Keeps.endSequence)
    | split
    | exact rfl | exact id

theorem Keeps.retryOrFail {s₀ s : State} (h : Keeps s₀ s) (g : Fin 4) (k : Fin 8) (c : StepCause) :
    Keeps s₀ (State.retryOrFail s g k c) := by
  unfold State.retryOrFail
  dsimp only
  repeat' first
    | with_reducible (first
      | exact h | assumption | apply Keeps.setStep | apply Keeps.failStep)
    | split
    | exact rfl | exact id

theorem Keeps.doorOutcome {s₀ s : State} (h : Keeps s₀ s) (g : Fin 4) (k : Fin 8) (issue : Byte)
    (cmd : DoorCmd) (o : Outcome) :
    Keeps s₀ (State.doorOutcome s g k issue cmd o) := by
  unfold State.doorOutcome
  dsimp only
  repeat' first
    | with_reducible (first
      | exact h | assumption | apply Keeps.confirmStep | apply Keeps.retryOrFail
      | apply Keeps.failStep)
    | split
    | exact rfl | exact id

theorem Keeps.closingReport {s₀ s : State} (h : Keeps s₀ s) (g : Fin 4) (k : Fin 8) (value : Byte) :
    Keeps s₀ (State.closingReport s g k value) := by
  unfold State.closingReport
  repeat' first
    | with_reducible (first
      | exact h | assumption | apply Keeps.confirmStep | apply Keeps.failStep
      | apply Keeps.retryOrFail)
    | split
    | exact rfl | exact id

theorem Keeps.enterClosing {s₀ s : State} (h : Keeps s₀ s) (g : Fin 4) :
    Keeps s₀ (State.enterClosing s g) := by
  unfold State.enterClosing
  repeat' first
    | with_reducible (first
      | exact h | assumption | apply Keeps.enterGroup | apply Keeps.commandNext)
    | split
    | exact rfl | exact id

theorem Keeps.groupImageChange {s₀ s : State} (h : Keeps s₀ s) (g : Fin 4) (index : Nat) (value :
    Byte) :
    Keeps s₀ (State.groupImageChange s g index value) := by
  unfold State.groupImageChange
  dsimp only
  repeat' first
    | with_reducible (first
      | exact h | assumption | apply Keeps.enterClosing | apply Keeps.closingReport
      | apply Keeps.confirmStep | apply Keeps.raiseFlag | apply Keeps.enterGroup)
    | split
    | exact rfl | exact id

theorem Keeps.endWarning {s₀ s : State} (h : Keeps s₀ s) (g : Fin 4) :
    Keeps s₀ (State.endWarning s g) := by
  unfold State.endWarning
  dsimp only
  repeat' first
    | with_reducible (first
      | exact h | assumption | apply Keeps.enterClosing | apply Keeps.removeEntry
      | apply Keeps.enterGroup)
    | split
    | exact rfl | exact id

theorem Keeps.beginCount {s₀ s : State} (h : Keeps s₀ s) (g : Fin 4) :
    Keeps s₀ (State.beginCount s g) := by
  unfold State.beginCount
  dsimp only
  repeat' first
    | with_reducible (first
      | exact h | assumption | apply Keeps.setGroup | apply Keeps.endWarning)
    | split
    | exact rfl | exact id

theorem Keeps.ownCallReady {s₀ s : State} (h : Keeps s₀ s) (g : Fin 4) :
    Keeps s₀ (State.ownCallReady s g) := by
  unfold State.ownCallReady
  dsimp only
  repeat' first
    | with_reducible (first
      | exact h | assumption | apply Keeps.beginCount)
    | split
    | exact rfl | exact id

theorem Keeps.emergencyCallMoved {s₀ s : State} (h : Keeps s₀ s) (g : Fin 4) :
    Keeps s₀ (State.emergencyCallMoved s g) := by
  unfold State.emergencyCallMoved
  dsimp only
  repeat' first
    | with_reducible (first
      | exact h | assumption | apply Keeps.beginCount)
    | split
    | exact rfl | exact id

theorem Keeps.warnUnderMark {s₀ s : State} (h : Keeps s₀ s) (g : Fin 4) :
    Keeps s₀ (State.warnUnderMark s g) := by
  unfold State.warnUnderMark
  dsimp only
  repeat' first
    | with_reducible (first
      | exact h | assumption | apply Keeps.removeEntry | apply Keeps.setGroup
      | apply Keeps.beginCount)
    | split
    | exact rfl | exact id

theorem Keeps.warnNormal {s₀ s : State} (h : Keeps s₀ s) (g : Fin 4) :
    Keeps s₀ (State.warnNormal s g) := by
  unfold State.warnNormal
  repeat' first
    | with_reducible (first
      | exact h | assumption | apply Keeps.resetSteps | apply Keeps.enterGroup
      | apply Keeps.placeEntry)
    | split
    | exact rfl | exact id

theorem Keeps.markGroup {s₀ s : State} (h : Keeps s₀ s) (g : Fin 4) :
    Keeps s₀ (State.markGroup s g) := by
  unfold State.markGroup
  repeat' first
    | with_reducible (first
      | exact h | assumption | apply Keeps.setGroup)
    | split
    | exact rfl | exact id

theorem Keeps.emergencyClose {s₀ s : State} (h : Keeps s₀ s) (g : Fin 4) :
    Keeps s₀ (State.emergencyClose s g) := by
  unfold State.emergencyClose
  repeat' first
    | with_reducible (first
      | exact h | assumption | apply Keeps.resetSteps | apply Keeps.markGroup
      | apply Keeps.enterGroup | apply Keeps.warnUnderMark | apply Keeps.enterClosing)
    | split
    | exact rfl | exact id

theorem Keeps.normalClose {s₀ s : State} (h : Keeps s₀ s) (g : Fin 4) (src : Option NodeNo) :
    Keeps s₀ (State.normalClose s g src) := by
  unfold State.normalClose
  dsimp only
  repeat' first
    | with_reducible (first
      | exact h | assumption | apply Keeps.reply | apply Keeps.refuse | apply Keeps.warnNormal)
    | split
    | exact rfl | exact id

theorem Keeps.closeGroup {s₀ s : State} (h : Keeps s₀ s) (g : Fin 4) (q : Request) :
    Keeps s₀ (State.closeGroup s g q) := by
  unfold State.closeGroup
  dsimp only
  repeat' first
    | with_reducible (first
      | exact h | assumption | apply Keeps.reply | apply Keeps.refuse
      | apply Keeps.emergencyClose | apply Keeps.normalClose)
    | split
    | exact rfl | exact id

theorem Keeps.startOpening {s₀ s : State} (h : Keeps s₀ s) (g : Fin 4) :
    Keeps s₀ (State.startOpening s g) := by
  unfold State.startOpening
  dsimp only
  repeat' first
    | with_reducible (first
      | exact h | assumption | apply Keeps.removeEntry | apply Keeps.resetSteps
      | apply Keeps.enterGroup | apply Keeps.commandNext)
    | split
    | exact rfl | exact id

theorem Keeps.openGroup {s₀ s : State} (h : Keeps s₀ s) (g : Fin 4) (q : Request) :
    Keeps s₀ (State.openGroup s g q) := by
  unfold State.openGroup
  dsimp only
  repeat' first
    | with_reducible (first
      | exact h | assumption | apply Keeps.reply | apply Keeps.refuse
      | apply Keeps.startOpening)
    | split
    | exact rfl | exact id

theorem Keeps.haltGroup {s₀ s : State} (h : Keeps s₀ s) (g : Fin 4) :
    Keeps s₀ (State.haltGroup s g) := by
  unfold State.haltGroup
  dsimp only
  repeat' first
    | with_reducible (first
      | exact h | assumption | apply Keeps.buildStop | apply Keeps.enterGroup
      | (refine Keeps.foldl _ (fun _ _ _ => ?_) _ ?_))
    | split
    | exact rfl | exact id

theorem Keeps.stopGroup {s₀ s : State} (h : Keeps s₀ s) (g : Fin 4) :
    Keeps s₀ (State.stopGroup s g) := by
  unfold State.stopGroup
  repeat' first
    | with_reducible (first
      | exact h | assumption | apply Keeps.removeEntry | apply Keeps.enterGroup
      | apply Keeps.haltGroup)
    | split
    | exact rfl | exact id

theorem Keeps.stopGroupRequest {s₀ s : State} (h : Keeps s₀ s) (g : Fin 4) (q : Request) :
    Keeps s₀ (State.stopGroupRequest s g q) := by
  unfold State.stopGroupRequest
  repeat' first
    | with_reducible (first
      | exact h | assumption | apply Keeps.reply | apply Keeps.stopGroup)
    | split
    | exact rfl | exact id

theorem Keeps.groupCommand {s₀ s : State} (h : Keeps s₀ s) (g : Fin 4) (verb : Byte) (q : Request) :
    Keeps s₀ (State.groupCommand s g verb q) := by
  unfold State.groupCommand
  repeat' first
    | with_reducible (first
      | exact h | assumption | apply Keeps.closeGroup | apply Keeps.openGroup
      | apply Keeps.stopGroupRequest | apply Keeps.reply)
    | split
    | exact rfl | exact id

theorem Keeps.cancelGroup {s₀ s : State} (h : Keeps s₀ s) (g : Fin 4) :
    Keeps s₀ (State.cancelGroup s g) := by
  unfold State.cancelGroup
  repeat' first
    | with_reducible (first
      | exact h | assumption | apply Keeps.removeEntry | apply Keeps.enterGroup
      | apply Keeps.haltGroup)
    | split
    | exact rfl | exact id

theorem Keeps.groupWarningExpired {s₀ s : State} (h : Keeps s₀ s) (g : Fin 4) :
    Keeps s₀ (State.groupWarningExpired s g) := by
  unfold State.groupWarningExpired
  dsimp only
  repeat' first
    | with_reducible (first
      | exact h | assumption | apply Keeps.reach | apply Keeps.setGroup
      | apply Keeps.endWarning)
    | split
    | exact rfl | exact id

theorem Keeps.spacingExpired {s₀ s : State} (h : Keeps s₀ s) (g : Fin 4) :
    Keeps s₀ (State.spacingExpired s g) := by
  unfold State.spacingExpired
  dsimp only
  repeat' first
    | with_reducible (first
      | exact h | assumption | apply Keeps.reach | apply Keeps.setGroup
      | apply Keeps.commandNext)
    | split
    | exact rfl | exact id

theorem Keeps.travelExpired {s₀ s : State} (h : Keeps s₀ s) (g : Fin 4) (k : Fin 8) :
    Keeps s₀ (State.travelExpired s g k) := by
  unfold State.travelExpired
  dsimp only
  repeat' first
    | with_reducible (first
      | exact h | assumption | apply Keeps.reach | apply Keeps.setStep | apply Keeps.failStep)
    | split
    | exact rfl | exact id

theorem Keeps.retryExpired {s₀ s : State} (h : Keeps s₀ s) (g : Fin 4) (k : Fin 8) :
    Keeps s₀ (State.retryExpired s g k) := by
  unfold State.retryExpired
  dsimp only
  repeat' first
    | with_reducible (first
      | exact h | assumption | apply Keeps.reach | apply Keeps.setStep | apply Keeps.buildDoor)
    | split
    | exact rfl | exact id

theorem Keeps.offerStop {s₀ s : State} (h : Keeps s₀ s) (g : Fin 4) (k : Fin 8) :
    Keeps s₀ (State.offerStop g s k) := by
  unfold State.offerStop
  repeat' first
    | with_reducible (first
      | exact h | assumption | exact Keeps.offer_eq (by assumption) (by assumption)
      | apply Keeps.offer | apply Keeps.setStep | refine Keeps.offer_eq ?_ (by assumption)
      | refine Keeps.of_eq ?_ (by assumption))
    | split
    | exact rfl | exact id

theorem Keeps.offerCmd {s₀ s : State} (h : Keeps s₀ s) (g : Fin 4) (k : Fin 8) :
    Keeps s₀ (State.offerCmd g s k) := by
  unfold State.offerCmd
  repeat' first
    | with_reducible (first
      | exact h | assumption | exact Keeps.offer_eq (by assumption) (by assumption)
      | apply Keeps.offer | apply Keeps.setStep | refine Keeps.offer_eq ?_ (by assumption)
      | refine Keeps.of_eq ?_ (by assumption))
    | split
    | exact rfl | exact id

theorem Keeps.offerGroupPending {s₀ s : State} (h : Keeps s₀ s) (g : Fin 4) :
    Keeps s₀ (State.offerGroupPending s g) := by
  unfold State.offerGroupPending
  repeat' first
    | with_reducible (first
      | exact h | assumption | apply Keeps.offerCmd | apply Keeps.offerStop
      | (refine Keeps.foldl _ (fun _ _ _ => ?_) _ ?_))
    | split
    | exact rfl | exact id

theorem Keeps.offerPending {s₀ s : State} (h : Keeps s₀ s) :
    Keeps s₀ (State.offerPending s) := by
  unfold State.offerPending
  repeat' first
    | with_reducible (first
      | exact h | assumption | apply Keeps.offerZonePending | apply Keeps.offerGroupPending
      | (refine Keeps.foldl _ (fun _ _ _ => ?_) _ ?_))
    | split
    | exact rfl | exact id

theorem Keeps.swapGroup {s₀ s : State} (h : Keeps s₀ s) (g : Fin 4) (d : GroupDef) :
    Keeps s₀ (State.swapGroup s g d) := by
  unfold State.swapGroup
  dsimp only
  repeat' first
    | with_reducible (first
      | exact h | assumption | apply Keeps.setGroup | apply Keeps.resetSteps
      | apply Keeps.enterGroup)
    | split
    | exact rfl | exact id

theorem Keeps.restartGroup {s₀ s : State} (h : Keeps s₀ s) (g : Fin 4) :
    Keeps s₀ (s.restartGroup g) := by
  unfold State.restartGroup
  extract_lets r stay s1
  have e : (s1.group g).state = if stay then .closed else .idle := State.group_setGroup_self' _ _ _
  rw [e]
  exact h.groupEntered g _

theorem Keeps.deckEntered {s₀ s : State} (h : Keeps s₀ s) (d : DeckCondition) :
    Keeps s₀ (({ s with dcc := { s.dcc with deck := d } } : State).writeLocal 0 d.code) := by
  refine h.trans ⟨?_, ?_, ?_, ?_, ?_, ?_, ?_, ?_⟩
  · intro k i; have := k i; unfold State.writeLocal; split <;> exact this
  · intro k; unfold State.writeLocal; split <;> exact k
  · intro k; unfold State.writeLocal; split <;> exact k
  · intro k; unfold State.writeLocal; split <;> exact k
  · intro k; unfold State.writeLocal; split <;> exact k
  · rintro ⟨k0, k1, k2⟩
    unfold PublishedOk
    rw [State.writeLocal_locals]
    refine ⟨?_, fun c => ?_, fun g => ?_⟩
    · rw [Tab.at_put_self]
      unfold State.writeLocal; split <;> rfl
    · rw [Tab.at_put_ne _ _ (by cases c <;> decide), State.writeLocal_ramp]
      exact k1 c
    · rw [Tab.at_put_ne _ _ (by revert g; decide)]
      unfold State.writeLocal; split <;> exact k2 g
  · intro k
    unfold SummaryOk at *
    rw [State.writeLocal_locals, Tab.at_put_ne _ _ (by decide)]
    unfold State.writeLocal; split <;> exact k
  · intro k
    unfold Told at *
    rw [State.writeLocal_locals, Tab.at_put_ne _ _ (by decide)]
    unfold State.writeLocal; split <;> exact k

theorem Keeps.changeDeck {s₀ s : State} (h : Keeps s₀ s) (d : DeckCondition) (cause : DeckCause) :
    Keeps s₀ (s.changeDeck d cause) := by
  unfold State.changeDeck
  extract_lets old src s1
  exact (h.deckEntered d).notice _ _ _

theorem Keeps.trySea {s₀ s : State} (h : Keeps s₀ s) :
    Keeps s₀ (State.trySea s) := by
  unfold State.trySea
  repeat' first
    | with_reducible (first
      | exact h | assumption | apply Keeps.changeDeck)
    | split
    | exact rfl | exact id

theorem Keeps.abortCommit {s₀ s : State} (h : Keeps s₀ s) :
    Keeps s₀ (State.abortCommit s) := by
  unfold State.abortCommit
  dsimp only
  repeat' first
    | with_reducible (first
      | exact h | assumption | apply Keeps.raiseFlag | apply Keeps.notice)
    | split
    | with_reducible (first | apply Keeps.withTs)
    | exact rfl | exact id

theorem Keeps.enterEmergency {s₀ s : State} (h : Keeps s₀ s) (cause : DeckCause) :
    Keeps s₀ (State.enterEmergency s cause) := by
  unfold State.enterEmergency
  dsimp only
  repeat' first
    | with_reducible (first
      | exact h | assumption | apply Keeps.changeDeck | apply Keeps.raiseBeacons
      | apply Keeps.placeEmergency | apply Keeps.emergencyClose | apply Keeps.haltRamp
      | apply Keeps.abortCommit | apply Keeps.endTest
      | (refine Keeps.foldl _ (fun _ _ _ => ?_) _ ?_))
    | split
    | exact rfl | exact id

theorem Keeps.closeUp {s₀ s : State} (h : Keeps s₀ s) :
    Keeps s₀ (State.closeUp s) := by
  unfold State.closeUp
  dsimp only
  repeat' first
    | with_reducible (first
      | exact h | assumption | apply Keeps.changeDeck | apply Keeps.normalClose
      | apply Keeps.trySea | (refine Keeps.foldl _ (fun _ _ _ => ?_) _ ?_))
    | split
    | exact rfl | exact id

theorem Keeps.reopen {s₀ s : State} (h : Keeps s₀ s) :
    Keeps s₀ (State.reopen s) := by
  unfold State.reopen
  dsimp only
  repeat' first
    | with_reducible (first
      | exact h | assumption | apply Keeps.changeDeck | apply Keeps.cancelGroup
      | (refine Keeps.foldl _ (fun _ _ _ => ?_) _ ?_))
    | split
    | exact rfl | exact id

theorem Keeps.setTarget {s₀ s u : State} (d : DeckCondition) (f : State → State)
    (e : s.setTarget d = .ok f) (h : Keeps s₀ u) : Keeps s₀ (f u) := by
  unfold State.setTarget at e
  split at e <;> (try split at e) <;>
    first | (injection e with e; subst e) | injection e
  all_goals with_reducible (first
    | exact h.changeDeck _ _ | exact h.closeUp | exact h.reopen | exact h.enterEmergency _)

theorem Keeps.setCondition {s₀ s : State} (h : Keeps s₀ s) (q : Request) :
    Keeps s₀ (s.setCondition q) := by
  unfold State.setCondition
  split
  · split
    · exact h.reply _ _ _ _
    · split
      · exact h.reply _ _ _ _
      · split
        · exact Keeps.setTarget _ _ (by assumption) (h.reply _ _ _ _)
        · exact h.refuse _ _ _ _
  · exact h.reply _ _ _ _

theorem Keeps.acceptIncomplete {s₀ s : State} (h : Keeps s₀ s) (q : Request) :
    Keeps s₀ (State.acceptIncomplete s q) := by
  unfold State.acceptIncomplete
  repeat' first
    | with_reducible (first
      | exact h | assumption | apply Keeps.reply | apply Keeps.refuse | apply Keeps.changeDeck)
    | split
    | exact rfl | exact id

theorem Keeps.recoverDeck {s₀ s : State} (h : Keeps s₀ s) (q : Request) :
    Keeps s₀ (State.recoverDeck s q) := by
  unfold State.recoverDeck
  repeat' first
    | with_reducible (first
      | exact h | assumption | apply Keeps.reply | apply Keeps.refuse | apply Keeps.changeDeck
      | apply Keeps.removeEntry)
    | split
    | exact rfl | exact id

theorem Keeps.deckCommand {s₀ s : State} (h : Keeps s₀ s) (verb : Byte) (q : Request) :
    Keeps s₀ (State.deckCommand s verb q) := by
  unfold State.deckCommand
  repeat' first
    | with_reducible (first
      | exact h | assumption | apply Keeps.setCondition | apply Keeps.acceptIncomplete
      | apply Keeps.recoverDeck | apply Keeps.reply)
    | split
    | exact rfl | exact id

theorem Keeps.firstFireLevel {s₀ s : State} (h : Keeps s₀ s) (active : Bool) :
    Keeps s₀ (s.firstFireLevel active) :=
  h.ofLocals 9 _ rfl rfl rfl rfl rfl rfl rfl rfl rfl rfl rfl

theorem Keeps.fireAccepted {s₀ s : State} (h : Keeps s₀ s) (active : Bool) :
    Keeps s₀ (s.fireAccepted active) := by
  unfold State.fireAccepted
  extract_lets old src src' s1 s2
  have k1 : Keeps s₀ s1 := h.same rfl rfl rfl rfl rfl rfl rfl rfl rfl rfl rfl rfl rfl rfl
  have k2 : Keeps s₀ s2 := k1.writeLocal 9 _ rfl
  clear_value s1 s2
  split
  · exact k1.firstFireLevel active
  · split
    · exact k1
    · split
      · exact k2.enterEmergency _
      · exact k2

end Sys2Proof.Machine
end

