-- ==== Sys2Proof/Laws/Memory.lean ====
section
/-! SUPPORT. The copies of a table section: every write keeps the canonical form, and what is read after
it (R166, R169). -/

namespace Sys2Proof.Machine

open Sys2Proof

/-- The canonical form, cell by cell. -/
def Canonical (m : Memory) : Prop :=
  m.Pairwise (fun x y => x.1 < y.1) ∧ ∀ c ∈ m, c.2 ≠ 0

theorem Memory.wf_iff (m : Memory) : m.wf = true ↔ Canonical m := by
  induction m with
  | nil => simp [Memory.wf, Canonical]
  | cons c rest ih =>
    obtain ⟨a, v⟩ := c
    cases rest with
    | nil => simp [Memory.wf, Canonical]
    | cons d rest =>
      obtain ⟨b, w⟩ := d
      have e : Memory.wf ((a, v) :: (b, w) :: rest)
          = (v != 0 && decide (a < b) && Memory.wf ((b, w) :: rest)) := rfl
      rw [e, Bool.and_eq_true, Bool.and_eq_true, ih]
      constructor
      · rintro ⟨⟨hv, hab⟩, hp, hn⟩
        have hab := of_decide_eq_true hab
        refine ⟨List.pairwise_cons.mpr ⟨?_, hp⟩, ?_⟩
        · intro y hy
          rcases List.mem_cons.mp hy with e | e
          · subst e; exact hab
          · exact Nat.lt_trans hab ((List.pairwise_cons.mp hp).1 y e)
        · intro c hc
          rcases List.mem_cons.mp hc with e | e
          · subst e; simpa using hv
          · exact hn c e
      · rintro ⟨hp, hn⟩
        have hp' := List.pairwise_cons.mp hp
        exact ⟨⟨by simpa using hn (a, v) (by simp), decide_eq_true (hp'.1 (b, w) (by simp))⟩, hp'.2,
          fun c hc => hn c (by simp [hc])⟩

theorem Memory.erase_sublist (m : Memory) (a : Nat) : (m.erase a).Sublist m := by
  induction m with
  | nil => exact .slnil
  | cons c rest ih =>
    obtain ⟨b, v⟩ := c
    unfold Memory.erase
    split
    · exact List.sublist_cons_self _ _
    · exact ih.cons_cons _

theorem Memory.erase_canonical (m : Memory) (a : Nat) (h : Canonical m) : Canonical (m.erase a) :=
  ⟨h.1.sublist (m.erase_sublist a), fun c hc => h.2 c ((m.erase_sublist a).subset hc)⟩

theorem Memory.erase_unlisted (m : Memory) (a : Nat) (h : Canonical m) : ∀ c ∈ m.erase a, c.1 ≠ a := by
  induction m with
  | nil => simp [Memory.erase]
  | cons c rest ih =>
    obtain ⟨b, v⟩ := c
    have hp := List.pairwise_cons.mp h.1
    unfold Memory.erase
    split
    · rename_i e
      subst e
      intro c hc
      exact Nat.ne_of_gt (hp.1 c hc)
    · rename_i e
      intro c hc
      rcases List.mem_cons.mp hc with e' | e'
      · subst e'; exact e
      · exact ih ⟨hp.2, fun c hc => h.2 c (by simp [hc])⟩ c e'

theorem Memory.insert_mem (m : Memory) (a : Nat) (x : Byte) (c : Host.Cell) (h : c ∈ m.insert a x) :
    c = (a, x) ∨ c ∈ m := by
  induction m with
  | nil => simpa [Memory.insert] using h
  | cons d rest ih =>
    obtain ⟨b, v⟩ := d
    unfold Memory.insert at h
    split at h
    · rcases List.mem_cons.mp h with e | e
      · exact .inl e
      · exact .inr e
    · rcases List.mem_cons.mp h with e | e
      · exact .inr (by simp [e])
      · rcases ih e with e | e
        · exact .inl e
        · exact .inr (by simp [e])

theorem Memory.insert_canonical (m : Memory) (a : Nat) (x : Byte) (h : Canonical m)
    (hm : ∀ c ∈ m, c.1 ≠ a) (hx : x ≠ 0) : Canonical (m.insert a x) := by
  induction m with
  | nil => exact ⟨List.pairwise_singleton _ _, fun c hc => by
      simp [Memory.insert] at hc; subst hc; exact hx⟩
  | cons d rest ih =>
    obtain ⟨b, v⟩ := d
    have hp := List.pairwise_cons.mp h.1
    have hb : b ≠ a := hm (b, v) (by simp)
    unfold Memory.insert
    split
    · rename_i hab
      refine ⟨List.pairwise_cons.mpr ⟨fun y hy => ?_, h.1⟩, fun c hc => ?_⟩
      · rcases List.mem_cons.mp hy with e | e
        · subst e; exact hab
        · exact Nat.lt_trans hab (hp.1 y e)
      · rcases List.mem_cons.mp hc with e | e
        · subst e; exact hx
        · exact h.2 c e
    · rename_i hab
      have hr := ih ⟨hp.2, fun c hc => h.2 c (by simp [hc])⟩ fun c hc => hm c (by simp [hc])
      refine ⟨List.pairwise_cons.mpr ⟨fun y hy => ?_, hr.1⟩, fun c hc => ?_⟩
      · rcases Memory.insert_mem rest a x y hy with e | e
        · subst e
          show b < a
          omega
        · exact hp.1 y e
      · rcases List.mem_cons.mp hc with e | e
        · subst e; exact h.2 (b, v) (by simp)
        · exact hr.2 c e

/-- Writing a byte keeps the canonical form. -/
theorem Memory.write_wf (m : Memory) (a : Nat) (x : Byte) (h : m.wf = true) : (m.write a x).wf = true := by
  rw [Memory.wf_iff] at h ⊢
  unfold Memory.write
  split
  · exact m.erase_canonical a h
  · rename_i hx
    exact (m.erase a).insert_canonical a x (m.erase_canonical a h) (m.erase_unlisted a h) hx

/-- Writing bytes keeps the canonical form (R169). -/
theorem Memory.writes_wf (xs : List Byte) : ∀ (m : Memory) (a : Nat), m.wf = true →
    (m.writes a xs).wf = true := by
  induction xs with
  | nil => intro m a h; exact h
  | cons x xs ih => intro m a h; exact ih _ _ (m.write_wf a x h)

theorem Memory.read_unlisted (m : Memory) (a : Nat) (h : ∀ c ∈ m, c.1 ≠ a) : m.read a = 0 := by
  induction m with
  | nil => rfl
  | cons d rest ih =>
    obtain ⟨b, v⟩ := d
    have hb : b ≠ a := h (b, v) (by simp)
    unfold Memory.read
    rw [if_neg hb]
    exact ih fun c hc => h c (by simp [hc])

theorem Memory.read_erase_ne (m : Memory) (a b : Nat) (hab : a ≠ b) : (m.erase a).read b = m.read b := by
  induction m with
  | nil => rfl
  | cons d rest ih =>
    obtain ⟨c, v⟩ := d
    unfold Memory.erase
    split
    · rename_i e
      subst e
      show Memory.read rest b = _
      rw [Memory.read, if_neg hab]
    · rw [Memory.read, Memory.read]
      split
      · rfl
      · exact ih

theorem Memory.read_insert_self (m : Memory) (a : Nat) (x : Byte) (hm : ∀ c ∈ m, c.1 ≠ a) :
    (m.insert a x).read a = x := by
  induction m with
  | nil => simp [Memory.insert, Memory.read]
  | cons d rest ih =>
    obtain ⟨b, v⟩ := d
    have hb : b ≠ a := hm (b, v) (by simp)
    unfold Memory.insert
    split
    · rw [Memory.read, if_pos rfl]
    · rw [Memory.read, if_neg hb]
      exact ih fun c hc => hm c (by simp [hc])

theorem Memory.read_insert_ne (m : Memory) (a b : Nat) (x : Byte) (hab : a ≠ b) :
    (m.insert a x).read b = m.read b := by
  induction m with
  | nil => simp [Memory.insert, Memory.read, hab]
  | cons d rest ih =>
    obtain ⟨c, v⟩ := d
    unfold Memory.insert
    split
    · rw [Memory.read, if_neg hab]
    · rw [Memory.read, Memory.read]
      split
      · rfl
      · exact ih

/-- A written byte is read back. -/
theorem Memory.read_write_self (m : Memory) (a : Nat) (x : Byte) (h : m.wf = true) :
    (m.write a x).read a = x := by
  rw [Memory.wf_iff] at h
  unfold Memory.write
  split
  · rename_i e
    rw [e]
    exact Memory.read_unlisted _ _ (m.erase_unlisted a h)
  · exact (m.erase a).read_insert_self a x (m.erase_unlisted a h)

/-- Every other byte reads as before. -/
theorem Memory.read_write_ne (m : Memory) (a b : Nat) (x : Byte) (hab : a ≠ b) :
    (m.write a x).read b = m.read b := by
  unfold Memory.write
  split
  · exact m.read_erase_ne a b hab
  · rw [Memory.read_insert_ne _ _ _ _ hab, Memory.read_erase_ne _ _ _ hab]

/-- Outside the bytes written everything reads as before (R169). -/
theorem Memory.read_writes_outside (xs : List Byte) : ∀ (m : Memory) (a b : Nat),
    (b < a ∨ a + xs.length ≤ b) → (m.writes a xs).read b = m.read b := by
  induction xs with
  | nil => intro m a b _; rfl
  | cons x xs ih =>
    intro m a b h
    rw [List.length_cons] at h
    rw [Memory.writes, ih _ _ _ (by omega), Memory.read_write_ne _ _ _ _ (by omega)]

/-- The bytes written are read back (R169). -/
theorem Memory.read_writes_inside (xs : List Byte) : ∀ (m : Memory) (a i : Nat), m.wf = true →
    i < xs.length → (m.writes a xs).read (a + i) = xs.getD i 0 := by
  induction xs with
  | nil => intro m a i _ h; simp at h
  | cons x xs ih =>
    intro m a i hm h
    cases i with
    | zero =>
      rw [Memory.writes, Memory.read_writes_outside _ _ _ _ (by omega)]
      exact m.read_write_self a x hm
    | succ i =>
      have e := ih (m.write a x) (a + 1) i (m.write_wf a x hm) (by simpa using h)
      rw [Memory.writes, show a + (i + 1) = a + 1 + i by omega, e]
      rfl

end Sys2Proof.Machine
end

