-- ==== Sys2Proof/Laws/KeepsTables.lean ====
section
/-! SUPPORT. What the Table Store and the management requests keep. -/

set_option linter.unusedTactic false
set_option linter.unreachableTactic false

namespace Sys2Proof.Machine

open Sys2Proof

theorem Keeps.loadTable {s₀ s : State} (h : Keeps s₀ s) (q : Request) :
    Keeps s₀ (s.loadTable q) := by
  unfold State.loadTable
  split
  · split
    · exact h.reply _ _ _ _
    · split
      · exact h.reply _ _ _ _
      · split
        · exact h.reply _ _ _ _
        · refine Keeps.reply (h.setSec _ _ fun k => ?_) _ _ _ _
          exact ⟨(k _).1, Memory.writes_wf _ _ _ (k _).2⟩
  · exact h.reply _ _ _ _

theorem Keeps.readTable {s₀ s : State} (h : Keeps s₀ s) (q : Request) :
    Keeps s₀ (State.readTable s q) := by
  unfold State.readTable
  dsimp only
  repeat' first
    | with_reducible (first
      | exact h | assumption | apply Keeps.reply)
    | split
    | exact rfl | exact id

theorem Keeps.resetImage {s₀ s : State} (h : Keeps s₀ s) : Keeps s₀ s.resetImage := by
  unfold State.resetImage
  extract_lets s1 src
  have k : Keeps s₀ s1 := by
    refine Keeps.foldl _ (fun _ _ k => ?_) _ h
    exact k.changeRemote _ _
  clear_value s1
  exact k.withImg _ rfl

theorem Keeps.discardPoll {s₀ s : State} (h : Keeps s₀ s) :
    Keeps s₀ (State.discardPoll s) := by
  unfold State.discardPoll
  repeat' first
    | with_reducible (first
      | exact h | assumption)
    | split
    | with_reducible (first | apply Keeps.withDls)
    | exact rfl | exact id

theorem Keeps.wakeArbiter {s₀ s : State} (h : Keeps s₀ s) :
    Keeps s₀ (State.wakeArbiter s) := by
  unfold State.wakeArbiter
  repeat' first
    | with_reducible (first
      | exact h | assumption)
    | split
    | with_reducible (first | apply Keeps.withDls)
    | exact rfl | exact id

theorem Keeps.swapObjects {s₀ s : State} (h : Keeps s₀ s) :
    Keeps s₀ (State.swapObjects s) := by
  unfold State.swapObjects
  repeat' first
    | with_reducible (first
      | exact h | assumption | apply Keeps.resetImage | apply Keeps.discardPoll
      | apply Keeps.wakeArbiter)
    | split
    | exact rfl | exact id

theorem Keeps.endSilence {s₀ s : State} (h : Keeps s₀ s) :
    Keeps s₀ (State.endSilence s) := by
  unfold State.endSilence
  repeat' first
    | with_reducible (first
      | exact h | assumption | apply Keeps.writeLocal)
    | split
    | exact rfl | exact id

theorem Keeps.silence {s₀ s : State} (h : Keeps s₀ s) (x : Silence) :
    Keeps s₀ { s with bli := { s.bli with silence := x } } := h.withBli _ rfl

theorem Keeps.swapSilence {s₀ s : State} (h : Keeps s₀ s) : Keeps s₀ s.swapSilence := by
  unfold State.swapSilence
  dsimp only
  split
  · split
    · exact (h.silence _).endSilence
    · exact h.silence _
  · split
    · exact h
    · exact h.silence _
    · exact h.silence _

theorem Keeps.takeObjects {s₀ s : State} (h : Keeps s₀ s) :
    Keeps s₀ (State.takeObjects s) := by
  unfold State.takeObjects
  repeat' first
    | with_reducible (first
      | exact h | assumption)
    | split
    | with_reducible (first | apply Keeps.withImg)
    | exact rfl | exact id

theorem Keeps.takeBeacons {s₀ s : State} (h : Keeps s₀ s) :
    Keeps s₀ (State.takeBeacons s) := by
  unfold State.takeBeacons
  dsimp only
  repeat' first
    | with_reducible (first
      | exact h | assumption)
    | split
    | with_reducible (first | apply Keeps.withBd)
    | exact rfl | exact id

/-- What holds while the masks are taken and the summaries not yet formed again. -/
structure Holds (s t : State) : Prop where
  tables : TablesOk s → TablesOk t
  bridge : BridgeQueueOk s → BridgeQueueOk t
  deck : DeckQueueOk s → DeckQueueOk t
  held : HeldListOk s → HeldListOk t
  ramps : RampsOk s → RampsOk t
  published : PublishedOk s → PublishedOk t
  told : Told s → Told t

theorem Keeps.holds {s t : State} (h : Keeps s t) : Holds s t :=
  ⟨h.tables, h.bridge, h.deck, h.held, h.ramps, h.published, h.told⟩

theorem Holds.trans {s t u : State} (h : Holds s t) (k : Holds t u) : Holds s u :=
  ⟨k.tables ∘ h.tables, k.bridge ∘ h.bridge, k.deck ∘ h.deck, k.held ∘ h.held, k.ramps ∘ h.ramps,
    k.published ∘ h.published, k.told ∘ h.told⟩

/-- With the summaries formed at the end, everything is kept. -/
theorem Holds.formed {s t : State} (h : Holds s t) (k : Told t → SummaryOk t) : Keeps s t :=
  ⟨h.tables, h.bridge, h.deck, h.held, h.ramps, h.published, fun x => k (h.told x.2.2), h.told⟩

theorem State.takeSettings_holds (s : State) : Holds s s.takeSettings :=
  ⟨id, id, id, id, id, id, id⟩

theorem State.takeCopies_holds (s : State) (set : Byte) : Holds s (s.takeCopies set) := by
  unfold State.takeCopies
  extract_lets s1 s2
  have k1 : Keeps s s1 := by
    simp only [s1]; split
    · exact (Keeps.refl s).takeObjects
    · exact Keeps.refl s
  have k2 : Keeps s s2 := by
    simp only [s2]; split
    · exact k1.takeBeacons
    · exact k1
  split
  · exact k2.holds.trans (State.takeSettings_holds _)
  · exact k2.holds

/-- Without SETTINGS in the set no mask changes. -/
theorem Keeps.takeCopies {s₀ s : State} (h : Keeps s₀ s) (set : Byte) (h7 : inSet set 7 = false) :
    Keeps s₀ (s.takeCopies set) := by
  unfold State.takeCopies
  extract_lets s1 s2
  have k1 : Keeps s₀ s1 := by
    simp only [s1]; split
    · exact h.takeObjects
    · exact h
  have k2 : Keeps s₀ s2 := by
    simp only [s2]; split
    · exact k1.takeBeacons
    · exact k1
  rw [h7]
  exact k2

/-- The reaction to a SETTINGS swap after the summaries are formed (R52, R165). -/
theorem Keeps.settingsReaction {s₀ s : State} (h : Keeps s₀ s) :
    Keeps s₀ (if s.settings.fireEnable = true ∧ s.dcc.fire.level = true ∧ s.dcc.deck ≠ .emergency then
      s.enterEmergency .fireAlarm
    else s) := by
  split
  · exact h.enterEmergency _
  · exact h

theorem Keeps.swapSettings {s₀ s : State} (h : Keeps s₀ s) : Keeps s₀ s.swapSettings := by
  unfold State.swapSettings
  exact ((h.swapSilence.reform).formBeacons).settingsReaction

theorem State.swapSettings_ok (s : State) (h : Told s) : SummaryOk s.swapSettings := by
  unfold State.swapSettings
  have k1 := ((Keeps.refl s).swapSilence).told h
  have k2 : SummaryOk s.swapSilence.reform := State.reform_ok _ k1
  exact (((Keeps.refl _).formBeacons).settingsReaction).summary k2

theorem Keeps.swapRamps {s₀ s : State} (h : Keeps s₀ s) :
    Keeps s₀ (State.swapRamps s) := by
  unfold State.swapRamps
  dsimp only
  repeat' first
    | with_reducible (first
      | exact h | assumption | apply Keeps.swapRamp)
    | split
    | exact rfl | exact id

theorem Keeps.swapGroups {s₀ s : State} (h : Keeps s₀ s) : Keeps s₀ s.swapGroups := by
  unfold State.swapGroups
  exact Keeps.foldl _ (fun _ _ k => k.swapGroup _ _) _ h

theorem Keeps.swapCalls {s₀ s : State} (h : Keeps s₀ s) (set : Byte) (oldDefs : Tab ObjDef 96) :
    Keeps s₀ (State.swapCalls s set oldDefs) := by
  unfold State.swapCalls
  repeat' first
    | with_reducible (first
      | exact h | assumption | apply Keeps.swapZones)
    | split
    | exact rfl | exact id

theorem Keeps.whenSet {s₀ s : State} (h : Keeps s₀ s) (b : Bool) (f : State → State)
    (hf : ∀ t, Keeps s₀ t → Keeps s₀ (f t)) : Keeps s₀ (if b then f s else s) := by
  split
  · exact hf s h
  · exact h

theorem Keeps.blocksSwap {s₀ s : State} (h : Keeps s₀ s) (set : Byte) (oldDefs : Tab ObjDef 96) :
    Keeps s₀ (s.blocksSwap set oldDefs) := by
  have k1 := h.whenSet (inSet set 0) State.swapObjects fun _ k => k.swapObjects
  have k2 := k1.whenSet (inSet set 3) State.swapRamps fun _ k => k.swapRamps
  have k3 := k2.whenSet (inSet set 4) State.swapGroups fun _ k => k.swapGroups
  have k4 := k3.whenSet (inSet set 0 || inSet set 5) (fun s => s.swapCalls set oldDefs)
    fun _ k => k.swapCalls set oldDefs
  have k5 := k4.whenSet (inSet set 6) State.restartBeacons fun _ k => k.restartBeacons
  exact k5.whenSet (inSet set 7) State.swapSettings fun _ k => k.swapSettings

/-- A swap of SETTINGS forms the summaries last. -/
theorem State.blocksSwap_ok (s : State) (set : Byte) (oldDefs : Tab ObjDef 96)
    (h7 : inSet set 7 = true) (h : Told s) : SummaryOk (s.blocksSwap set oldDefs) := by
  have k0 := Keeps.refl s
  have k1 := k0.whenSet (inSet set 0) State.swapObjects fun _ k => k.swapObjects
  have k2 := k1.whenSet (inSet set 3) State.swapRamps fun _ k => k.swapRamps
  have k3 := k2.whenSet (inSet set 4) State.swapGroups fun _ k => k.swapGroups
  have k4 := k3.whenSet (inSet set 0 || inSet set 5) (fun s => s.swapCalls set oldDefs)
    fun _ k => k.swapCalls set oldDefs
  have k5 := k4.whenSet (inSet set 6) State.restartBeacons fun _ k => k.restartBeacons
  unfold State.blocksSwap
  dsimp only
  rw [if_pos h7]
  exact State.swapSettings_ok _ (k5.told h)

theorem Keeps.exchange {s₀ s : State} (h : Keeps s₀ s) (set : Byte) : Keeps s₀ (s.exchange set) := by
  refine h.trans ⟨?_, id, id, id, id, id, id, id⟩
  intro k i
  unfold State.exchange State.sec
  dsimp only
  rw [Tab.at_make]
  split
  · exact ⟨(k i).2, (k i).1⟩
  · exact k i

theorem Keeps.applyCommit {s₀ s : State} (h : Keeps s₀ s) (set : Byte) :
    Keeps s₀ (s.applyCommit set) := by
  unfold State.applyCommit
  extract_lets oldDefs
  have k1 : Keeps s₀ ((s.exchange set).notice 30 1 [set]) := (h.exchange set).notice _ _ _
  cases h7 : inSet set 7 with
  | false => exact (k1.takeCopies set h7).blocksSwap set oldDefs
  | true =>
    have k2 := k1.holds.trans (State.takeCopies_holds _ set)
    have k3 := k2.trans ((Keeps.refl _).blocksSwap set oldDefs).holds
    refine ⟨k3.tables, k3.bridge, k3.deck, k3.held, k3.ramps, k3.published, fun x => ?_, k3.told⟩
    exact State.blocksSwap_ok _ _ _ h7 (k2.told x.2.2)

theorem Keeps.tryApply {s₀ s : State} (h : Keeps s₀ s) :
    Keeps s₀ (State.tryApply s) := by
  unfold State.tryApply
  repeat' first
    | with_reducible (first
      | exact h | assumption | apply Keeps.applyCommit)
    | split
    | exact rfl | exact id

theorem Keeps.commitTables {s₀ s : State} (h : Keeps s₀ s) (q : Request) :
    Keeps s₀ (State.commitTables s q) := by
  unfold State.commitTables
  dsimp only
  repeat' first
    | with_reducible (first
      | exact h | assumption | apply Keeps.reply | apply Keeps.refuse | apply Keeps.tryApply)
    | split
    | with_reducible (first | apply Keeps.withTs)
    | exact rfl | exact id

theorem Keeps.abortTables {s₀ s : State} (h : Keeps s₀ s) (q : Request) :
    Keeps s₀ (State.abortTables s q) := by
  unfold State.abortTables
  repeat' first
    | with_reducible (first
      | exact h | assumption | apply Keeps.reply | apply Keeps.notice)
    | split
    | with_reducible (first | apply Keeps.withTs)
    | exact rfl | exact id

theorem Keeps.commitExpired {s₀ s : State} (h : Keeps s₀ s) :
    Keeps s₀ (State.commitExpired s) := by
  unfold State.commitExpired
  dsimp only
  repeat' first
    | with_reducible (first
      | exact h | assumption | apply Keeps.reach | apply Keeps.raiseFlag | apply Keeps.notice)
    | split
    | with_reducible (first | apply Keeps.withTs)
    | exact rfl | exact id

theorem Keeps.copyCompleted {s₀ s : State} (h : Keeps s₀ s) : Keeps s₀ s.copyCompleted := by
  unfold State.copyCompleted
  split
  · exact h
  · rename_i c _
    refine (h.reach c.due).trans ⟨?_, id, id, id, id, id, id, id⟩
    intro k i
    unfold State.sec
    dsimp only
    rw [Tab.at_make]
    split
    · exact ⟨(k i).1, (k i).1⟩
    · exact k i

theorem Keeps.corruptSec {s₀ s : State} (h : Keeps s₀ s) (i : Fin 8) :
    Keeps s₀ (s.setSec i { s.sec i with status := .corrupt }) := by
  refine h.setSec i _ ?_
  intro k
  exact k i

theorem Keeps.scrubSection {s₀ s : State} (h : Keeps s₀ s) : Keeps s₀ s.scrubSection := by
  unfold State.scrubSection
  split
  · extract_lets i src s1
    have k : Keeps s₀ s1 := (h.corruptSec i).raiseFlag .sectionCorrupt
    clear_value s1
    split
    · exact (k.haltRamp _).haltRamp _
    · exact k
  · exact h

theorem Keeps.scrubTest {s₀ s : State} (h : Keeps s₀ s) :
    Keeps s₀ (State.scrubTest s) := by
  unfold State.scrubTest
  repeat' first
    | with_reducible (first
      | exact h | assumption | apply Keeps.endTest)
    | split
    | exact rfl | exact id

theorem Keeps.scrubSlotEnded {s₀ s : State} (h : Keeps s₀ s) :
    Keeps s₀ (State.scrubSlotEnded s) := by
  unfold State.scrubSlotEnded
  dsimp only
  repeat' first
    | with_reducible (first
      | exact h | assumption | apply Keeps.reach | apply Keeps.scrubSection
      | apply Keeps.scrubTest)
    | split
    | with_reducible (first | apply Keeps.withTs)
    | exact rfl | exact id

theorem Keeps.readImageRequest {s₀ s : State} (h : Keeps s₀ s) (q : Request) :
    Keeps s₀ (State.readImageRequest s q) := by
  unfold State.readImageRequest
  repeat' first
    | with_reducible (first
      | exact h | assumption | apply Keeps.reply)
    | split
    | exact rfl | exact id

theorem Keeps.readStateRequest {s₀ s : State} (h : Keeps s₀ s) (q : Request) :
    Keeps s₀ (State.readStateRequest s q) := by
  unfold State.readStateRequest
  repeat' first
    | with_reducible (first
      | exact h | assumption | apply Keeps.reply)
    | split
    | exact rfl | exact id

theorem Keeps.readFlagsRequest {s₀ s : State} (h : Keeps s₀ s) (q : Request) :
    Keeps s₀ (State.readFlagsRequest s q) := by
  unfold State.readFlagsRequest
  repeat' first
    | with_reducible (first
      | exact h | assumption | apply Keeps.reply)
    | split
    | exact rfl | exact id

theorem Keeps.clearFlagsRequest {s₀ s : State} (h : Keeps s₀ s) (q : Request) :
    Keeps s₀ (s.clearFlagsRequest q) := by
  unfold State.clearFlagsRequest
  split
  · split
    · exact h.reply _ _ _ _
    · extract_lets flags
      have k1 : Holds s { s with fc := { s.fc with flags := flags } } := ⟨id, id, id, id, id, id, id⟩
      have k2 := k1.trans ((Keeps.refl _).reply q.source 8 .done (flagBytes flags)).holds
      have k3 := k2.trans ((Keeps.refl _).reform).holds
      refine h.trans ⟨k3.tables, k3.bridge, k3.deck, k3.held, k3.ramps, k3.published, fun x => ?_,
        k3.told⟩
      exact State.reform_ok _ (k2.told x.2.2)
  · exact h.reply _ _ _ _

theorem Keeps.startTest {s₀ s : State} (h : Keeps s₀ s) (id : TestId) (arg : Byte) :
    Keeps s₀ (State.startTest s id arg) := by
  unfold State.startTest
  dsimp only
  repeat' first
    | with_reducible (first
      | exact h | assumption | apply Keeps.zeroTestCount)
    | split
    | with_reducible (first | apply Keeps.withFc | apply Keeps.withTs)
    | exact rfl | exact id

theorem Keeps.proofTestRequest {s₀ s : State} (h : Keeps s₀ s) (q : Request) :
    Keeps s₀ (State.proofTestRequest s q) := by
  unfold State.proofTestRequest
  repeat' first
    | with_reducible (first
      | exact h | assumption | apply Keeps.reply | apply Keeps.refuse | apply Keeps.startTest)
    | split
    | exact rfl | exact id

theorem Keeps.restartRequest {s₀ s : State} (h : Keeps s₀ s) (q : Request) :
    Keeps s₀ (State.restartRequest s q) := by
  unfold State.restartRequest
  dsimp only
  repeat' first
    | with_reducible (first
      | exact h | assumption | apply Keeps.reply | apply Keeps.refuse | apply Keeps.place)
    | split
    | with_reducible (first | apply Keeps.withBli)
    | exact rfl | exact id

theorem Keeps.identifyRequest {s₀ s : State} (h : Keeps s₀ s) (q : Request) :
    Keeps s₀ (State.identifyRequest s q) := by
  unfold State.identifyRequest
  repeat' first
    | with_reducible (first
      | exact h | assumption | apply Keeps.reply)
    | split
    | exact rfl | exact id

theorem Keeps.manage {s₀ s : State} (h : Keeps s₀ s) (f : Frame) :
    Keeps s₀ (State.manage s f) := by
  unfold State.manage
  dsimp only
  repeat' first
    | with_reducible (first
      | exact h | assumption | apply Keeps.reply | apply Keeps.loadTable
      | apply Keeps.commitTables | apply Keeps.abortTables | apply Keeps.readTable
      | apply Keeps.readImageRequest | apply Keeps.readStateRequest
      | apply Keeps.readFlagsRequest | apply Keeps.clearFlagsRequest
      | apply Keeps.proofTestRequest | apply Keeps.restartRequest
      | apply Keeps.identifyRequest)
    | split
    | exact rfl | exact id

end Sys2Proof.Machine
end

