-- ==== Sys2Proof/Laws/KeepsLines.lean ====
section
/-! SUPPORT. What the passage, the two lines, the cascade and a tick keep. -/

set_option linter.unusedTactic false
set_option linter.unreachableTactic false

namespace Sys2Proof.Machine

open Sys2Proof

theorem Keeps.kickBridge {s₀ s : State} (h : Keeps s₀ s) : Keeps s₀ s.kickBridge := by
  refine h.ofCalm s.kickBridge_calm s.kickBridge_ok (fun i _ => ?_) (fun k => ?_) fun k => ?_
  · rw [State.kickBridge_img]
  · unfold SummaryOk; rw [State.kickBridge_fc, State.kickBridge_img]; exact k
  · unfold Told; rw [State.kickBridge_fc, State.kickBridge_img]; exact k

theorem Keeps.callCommand {s₀ s : State} (h : Keeps s₀ s) (verb : Byte) (q : Request) :
    Keeps s₀ (State.callCommand s verb q) := by
  unfold State.callCommand
  repeat' first
    | with_reducible (first
      | exact h | assumption | apply Keeps.placeCall | apply Keeps.cancelCall
      | apply Keeps.reply)
    | split
    | exact rfl | exact id

theorem Keeps.deliver {s₀ s : State} (h : Keeps s₀ s) (f : Frame) :
    Keeps s₀ (State.deliver s f) := by
  unfold State.deliver
  dsimp only
  repeat' first
    | with_reducible (first
      | exact h | assumption | apply Keeps.deckCommand | apply Keeps.rampCommand
      | apply Keeps.groupCommand | apply Keeps.callCommand | apply Keeps.reply)
    | split
    | exact rfl | exact id

theorem Keeps.forward {s₀ s : State} (h : Keeps s₀ s) (f : Frame) (urgent : Bool) (cond : Option
    Byte) :
    Keeps s₀ (State.forward s f urgent cond) := by
  unfold State.forward
  repeat' first
    | with_reducible (first
      | exact h | assumption | exact Keeps.offer_eq (by assumption) (by assumption)
      | apply Keeps.offer | apply Keeps.reply | refine Keeps.offer_eq ?_ (by assumption)
      | refine Keeps.of_eq ?_ (by assumption))
    | split
    | exact rfl | exact id

theorem Keeps.admitFrame {s₀ s : State} (h : Keeps s₀ s) (f : Frame) (urgent : Bool) (cond :
    Option Byte) :
    Keeps s₀ (State.admitFrame s f urgent cond) := by
  unfold State.admitFrame
  repeat' first
    | with_reducible (first
      | exact h | assumption | apply Keeps.deliver | apply Keeps.forward)
    | split
    | exact rfl | exact id

theorem Keeps.withHeld {s₀ s : State} (h : Keeps s₀ s) (x : List HeldRec)
    (hx : HeldListOk s₀ → x.length ≤ 8) : Keeps s₀ { s with held := x } :=
  ⟨h.tables, h.bridge, h.deck, fun k => hx k, h.ramps, h.published, h.summary, h.told⟩

theorem Keeps.holdFrame {s₀ s : State} (h : Keeps s₀ s) (f : Frame) (p : PassEntry) :
    Keeps s₀ (s.holdFrame f p) := by
  unfold State.holdFrame
  split
  · rename_i hl
    refine h.withHeld _ fun _ => ?_
    simp [Config.heldSize] at hl ⊢
    omega
  · exact h.reply _ _ _ _

theorem Keeps.applyEntry {s₀ s : State} (h : Keeps s₀ s) (f : Frame) (p : PassEntry) :
    Keeps s₀ (State.applyEntry s f p) := by
  unfold State.applyEntry
  repeat' first
    | with_reducible (first
      | exact h | assumption | apply Keeps.admitFrame | apply Keeps.refuse
      | apply Keeps.deliver | apply Keeps.holdFrame)
    | split
    | exact rfl | exact id

theorem Keeps.offerBridge {s₀ s : State} (h : Keeps s₀ s) (f : Frame) :
    Keeps s₀ (State.offerBridge s f) := by
  unfold State.offerBridge
  repeat' first
    | with_reducible (first
      | exact h | assumption | apply Keeps.deliver | apply Keeps.refuse
      | apply Keeps.applyEntry | apply Keeps.reply)
    | split
    | exact rfl | exact id

theorem Keeps.passStatus {s₀ s : State} (h : Keeps s₀ s) (f : Frame) :
    Keeps s₀ (State.passStatus s f) := by
  unfold State.passStatus
  repeat' first
    | with_reducible (first
      | exact h | assumption | apply Keeps.place)
    | split
    | exact rfl | exact id

theorem Keeps.offerStatus {s₀ s : State} (h : Keeps s₀ s) (f : Frame) :
    Keeps s₀ (State.offerStatus s f) := by
  unfold State.offerStatus
  repeat' first
    | with_reducible (first
      | exact h | assumption | apply Keeps.passStatus | apply Keeps.refuse)
    | split
    | exact rfl | exact id

theorem Keeps.release {s₀ s : State} (h : Keeps s₀ s) (r : HeldRec) :
    Keeps s₀ (State.release s r) := by
  unfold State.release
  repeat' first
    | with_reducible (first
      | exact h | assumption | apply Keeps.admitFrame)
    | split
    | exact rfl | exact id

theorem Keeps.heldPass (l : List HeldRec) : ∀ (kept : List HeldRec) {s₀ s : State}, Keeps s₀ s →
    (HeldListOk s₀ → kept.length + l.length ≤ 8) → Keeps s₀ (State.heldPass kept l s) := by
  induction l with
  | nil => intro kept s₀ s h _; exact h
  | cons r rest ih =>
    intro kept s₀ s h hl
    unfold State.heldPass
    split
    · refine ih kept ((h.withHeld _ fun k => ?_).release r) fun k => ?_
      · have := hl k; simp at this ⊢; omega
      · have := hl k; simp at this; omega
    · refine ih _ h fun k => ?_
      have := hl k; simp at this ⊢; omega

theorem Keeps.evaluateHeld {s₀ s : State} (h : Keeps s₀ s) : Keeps s₀ s.evaluateHeld :=
  Keeps.heldPass s.held [] h fun k => by simpa [HeldListOk] using h.held k

theorem Keeps.heldExpired {s₀ s : State} (h : Keeps s₀ s) : Keeps s₀ s.heldExpired := by
  unfold State.heldExpired
  split
  · exact h
  · rename_i r _
    refine Keeps.reply ((h.reach r.expiry).withHeld _ fun k => ?_) _ _ _ _
    exact Nat.le_trans (List.erase_sublist.length_le) (h.held k)

theorem Keeps.startPoll {s₀ s : State} (h : Keeps s₀ s) (d : Fin 96) (pass : Fin 8) :
    Keeps s₀ (s.startPoll d pass) :=
  h.same rfl rfl rfl rfl rfl rfl rfl rfl rfl rfl rfl rfl rfl rfl

theorem Keeps.tellStart {s₀ s : State} (h : Keeps s₀ s) (r : DeckRec) :
    Keeps s₀ (State.tellStart s r) := by
  unfold State.tellStart
  repeat' first
    | with_reducible (first
      | exact h | assumption | apply Keeps.doorFrameStarted | apply Keeps.zoneFrameStarted)
    | split
    | exact rfl | exact id

/-- A frame that leaves the deck transmit queue keeps the capacities (R69). -/
theorem dropFirst_ok (d : Dls) (u : Bool)
    (k : d.urgent.length + d.normal.length ≤ 24 ∧ d.normal.length ≤ 16) :
    (d.dropFirst u).urgent.length + (d.dropFirst u).normal.length ≤ 24
      ∧ (d.dropFirst u).normal.length ≤ 16 := by
  unfold Dls.dropFirst
  split <;> simp <;> omega

theorem Keeps.startFrame {s₀ s : State} (h : Keeps s₀ s) (r : DeckRec) : Keeps s₀ (s.startFrame r) := by
  unfold State.startFrame
  extract_lets f d src s1
  have k : Keeps s₀ s1 := h.withDls _ fun k => dropFirst_ok s.dls r.urgent k
  clear_value s1
  exact k.offerPending.tellStart r

theorem Keeps.removeLate {s₀ s : State} (h : Keeps s₀ s) (r : DeckRec) (cond : Byte) :
    Keeps s₀ (s.removeLate r cond) := by
  unfold State.removeLate
  extract_lets s1
  have k : Keeps s₀ s1 := h.withDls _ fun k => dropFirst_ok s.dls r.urgent k
  clear_value s1
  exact (k.refuse _ _ _ _).offerPending

theorem Keeps.arbitrate (n : Nat) {s₀ s : State} (h : Keeps s₀ s) :
    Keeps s₀ (State.arbitrate n s) := by
  induction n generalizing s with
  | zero => exact h
  | succ n ih =>
    unfold State.arbitrate
    split
    · exact h
    · exact h.startPoll _ _
    · split
      · exact h.startFrame _
      · exact ih (h.removeLate _ _)

theorem Keeps.freeLine {s₀ s : State} (h : Keeps s₀ s) :
    Keeps s₀ (State.freeLine s) := by
  unfold State.freeLine
  repeat' first
    | with_reducible (first
      | exact h | assumption)
    | split
    | with_reducible (first | apply Keeps.withDls)
    | exact rfl | exact id

theorem Keeps.absorb {s₀ s : State} (h : Keeps s₀ s) (d : Fin 96) (f : Frame) :
    Keeps s₀ (State.absorb s d f) := by
  unfold State.absorb
  repeat' first
    | with_reducible (first
      | exact h | assumption | apply Keeps.changeRemote)
    | split
    | exact rfl | exact id

theorem Keeps.freshnessExpired {s₀ s : State} (h : Keeps s₀ s) (d : Fin 96) :
    Keeps s₀ (State.freshnessExpired s d) := by
  unfold State.freshnessExpired
  dsimp only
  repeat' first
    | with_reducible (first
      | exact h | assumption | apply Keeps.reach | apply Keeps.changeRemote
      | apply Keeps.raiseFlag)
    | split
    | exact rfl | exact id

theorem Keeps.relay {s₀ s : State} (h : Keeps s₀ s) (src : NodeNo) (f : Frame) :
    Keeps s₀ (State.relay s src f) := by
  unfold State.relay
  repeat' first
    | with_reducible (first
      | exact h | assumption | apply Keeps.place)
    | split
    | exact rfl | exact id

theorem Keeps.tellOutcome {s₀ s : State} (h : Keeps s₀ s) (o : DeckOrigin) (r : Outcome) :
    Keeps s₀ (State.tellOutcome s o r) := by
  unfold State.tellOutcome
  repeat' first
    | with_reducible (first
      | exact h | assumption | apply Keeps.doorOutcome | apply Keeps.zoneOutcome)
    | split
    | exact rfl | exact id

theorem Keeps.answered {s₀ s : State} (h : Keeps s₀ s) (t : Transaction) (f : Frame) :
    Keeps s₀ (State.answered s t f) := by
  unfold State.answered
  repeat' first
    | with_reducible (first
      | exact h | assumption | apply Keeps.absorb | apply Keeps.offerStatus
      | apply Keeps.relay | apply Keeps.tellOutcome)
    | split
    | exact rfl | exact id

theorem Keeps.notAnswered {s₀ s : State} (h : Keeps s₀ s) (t : Transaction) :
    Keeps s₀ (State.notAnswered s t) := by
  unfold State.notAnswered
  repeat' first
    | with_reducible (first
      | exact h | assumption | apply Keeps.reply | apply Keeps.raiseFlag
      | apply Keeps.tellOutcome)
    | split
    | exact rfl | exact id

theorem Keeps.endTransaction {s₀ s : State} (h : Keeps s₀ s) (answer : Option Frame) :
    Keeps s₀ (State.endTransaction s answer) := by
  unfold State.endTransaction
  dsimp only
  repeat' first
    | with_reducible (first
      | exact h | assumption | apply Keeps.answered | apply Keeps.notAnswered)
    | split
    | with_reducible (first | apply Keeps.withDls)
    | exact rfl | exact id

theorem Keeps.deckFrameSent {s₀ s : State} (h : Keeps s₀ s) :
    Keeps s₀ (State.deckFrameSent s) := by
  unfold State.deckFrameSent
  dsimp only
  repeat' first
    | with_reducible (first
      | exact h | assumption | apply Keeps.reach)
    | split
    | with_reducible (first | apply Keeps.withDls)
    | exact rfl | exact id

theorem Keeps.windowExpired {s₀ s : State} (h : Keeps s₀ s) :
    Keeps s₀ (State.windowExpired s) := by
  unfold State.windowExpired
  repeat' first
    | with_reducible (first
      | exact h | assumption | apply Keeps.reach | apply Keeps.freeLine
      | apply Keeps.endTransaction)
    | split
    | exact rfl | exact id

theorem Keeps.settlingEnded {s₀ s : State} (h : Keeps s₀ s) :
    Keeps s₀ (State.settlingEnded s) := by
  unfold State.settlingEnded
  repeat' first
    | with_reducible (first
      | exact h | assumption | apply Keeps.reach | apply Keeps.freeLine)
    | split
    | exact rfl | exact id

theorem Keeps.startBit {s₀ s : State} (h : Keeps s₀ s) :
    Keeps s₀ (State.startBit s) := by
  unfold State.startBit
  repeat' first
    | with_reducible (first
      | exact h | assumption)
    | split
    | with_reducible (first | apply Keeps.withDls)
    | exact rfl | exact id

theorem Keeps.candidateEnd {s₀ s : State} (h : Keeps s₀ s) (chars : List RxChar) :
    Keeps s₀ (State.candidateEnd s chars) := by
  unfold State.candidateEnd
  repeat' first
    | with_reducible (first
      | exact h | assumption | apply Keeps.endTransaction | apply Keeps.raiseFlag)
    | split
    | exact rfl | exact id

theorem Keeps.deckFrameEnd {s₀ s : State} (h : Keeps s₀ s) (chars : List RxChar) :
    Keeps s₀ (State.deckFrameEnd s chars) := by
  unfold State.deckFrameEnd
  repeat' first
    | with_reducible (first
      | exact h | assumption | apply Keeps.freeLine | apply Keeps.candidateEnd
      | apply Keeps.raiseFlag)
    | split
    | exact rfl | exact id

theorem Keeps.heardBridge {s₀ s : State} (h : Keeps s₀ s) :
    Keeps s₀ (State.heardBridge s) := by
  unfold State.heardBridge
  dsimp only
  repeat' first
    | with_reducible (first
      | exact h | assumption | apply Keeps.endSilence)
    | split
    | with_reducible (first | apply Keeps.withBli)
    | exact rfl | exact id

theorem Keeps.route {s₀ s : State} (h : Keeps s₀ s) (f : Frame) :
    Keeps s₀ (State.route s f) := by
  unfold State.route
  repeat' first
    | with_reducible (first
      | exact h | assumption | apply Keeps.offerBridge | apply Keeps.manage
      | apply Keeps.reply)
    | split
    | exact rfl | exact id

theorem Keeps.bridgeFrameEnd {s₀ s : State} (h : Keeps s₀ s) (chars : List RxChar) :
    Keeps s₀ (State.bridgeFrameEnd s chars) := by
  unfold State.bridgeFrameEnd
  repeat' first
    | with_reducible (first
      | exact h | assumption | apply Keeps.raiseFlag | apply Keeps.heardBridge
      | apply Keeps.route)
    | split
    | exact rfl | exact id

theorem Keeps.silenceExpired {s₀ s : State} (h : Keeps s₀ s) :
    Keeps s₀ (State.silenceExpired s) := by
  unfold State.silenceExpired
  dsimp only
  repeat' first
    | with_reducible (first
      | exact h | assumption | apply Keeps.reach | apply Keeps.raiseFlag
      | apply Keeps.writeLocal | apply Keeps.silenceRamp)
    | split
    | with_reducible (first | apply Keeps.withBli)
    | exact rfl | exact id

theorem Keeps.bridgeFrameSent {s₀ s : State} (h : Keeps s₀ s) : Keeps s₀ s.bridgeFrameSent := by
  unfold State.bridgeFrameSent
  split
  · exact h
  · refine Keeps.kickBridge ?_
    exact (h.reach _).withBli _ rfl

theorem Keeps.restartBridge {s₀ s : State} (h : Keeps s₀ s) : Keeps s₀ s.restartBridge := by
  unfold State.restartBridge
  refine Keeps.endSilence (h.trans ⟨id, fun _ => ?_, id, id, id, id, id, id⟩)
  exact ⟨by simp, List.Pairwise.nil⟩

theorem Keeps.restartDeckLine {s₀ s : State} (h : Keeps s₀ s) : Keeps s₀ s.restartDeckLine :=
  h.withDls _ fun _ => by simp

theorem Ramp.atRestart_quiet (r : Ramp) : RampQuiet r.atRestart := ⟨fun _ => ⟨rfl, rfl, rfl⟩, nofun, nofun⟩

theorem Keeps.restartRamps {s₀ s : State} (h : Keeps s₀ s) : Keeps s₀ s.restartRamps := by
  refine h.trans ⟨id, id, id, id, fun _ => ?_, fun k => ?_, id, id⟩
  · exact ⟨Ramp.atRestart_quiet _, Ramp.atRestart_quiet _⟩
  · refine ⟨k.1, fun ch => ?_, k.2.2⟩
    have := k.2.1 ch
    cases ch <;> exact this

theorem Keeps.restartFlags {s₀ s : State} (h : Keeps s₀ s) : Keeps s₀ s.restartFlags := by
  unfold State.restartFlags
  extract_lets src t
  have k1 : Holds s { s with fc := { s.fc with flags := s.holding } } := ⟨id, id, id, id, id, id, id⟩
  have k2 : Holds s t := k1.trans ((Keeps.refl _).reform).holds
  have k3 : Keeps s₀ t :=
    h.trans ⟨k2.tables, k2.bridge, k2.deck, k2.held, k2.ramps, k2.published,
      fun x => State.reform_ok _ (k1.told x.2.2), k2.told⟩
  exact k3.owe true

theorem Keeps.carryOut {s₀ s : State} (h : Keeps s₀ s) : Keeps s₀ s.carryOut := by
  unfold State.carryOut
  extract_lets s1 s2
  have k1 : Keeps s₀ s1 :=
    h.restartBridge.restartDeckLine.resetImage.wakeArbiter.restartRamps
  have k2 : Keeps s₀ s2 := (Keeps.foldl _ (fun _ _ k => k.restartGroup _) _ k1).restartCalls.formBeacons
  clear_value s1 s2
  refine Keeps.restartFlags ?_
  split
  · exact k2.placeEmergency
  · exact k2

theorem Keeps.restartNow {s₀ s : State} (h : Keeps s₀ s) :
    Keeps s₀ (State.restartNow s) := by
  unfold State.restartNow
  repeat' first
    | with_reducible (first
      | exact h | assumption | apply Keeps.notice | apply Keeps.carryOut)
    | split
    | with_reducible (first | apply Keeps.withBli)
    | exact rfl | exact id

theorem Keeps.restartTakesEffect {s₀ s : State} (h : Keeps s₀ s) :
    Keeps s₀ (State.restartTakesEffect s) := by
  unfold State.restartTakesEffect
  repeat' first
    | with_reducible (first
      | exact h | assumption | apply Keeps.restartNow | apply Keeps.reach)
    | split
    | exact rfl | exact id

theorem Keeps.restartDiscarded {s₀ s : State} (h : Keeps s₀ s) :
    Keeps s₀ (State.restartDiscarded s) := by
  unfold State.restartDiscarded
  repeat' first
    | with_reducible (first
      | exact h | assumption | apply Keeps.restartNow)
    | split
    | exact rfl | exact id

theorem Keeps.imageChanged {s₀ s : State} (h : Keeps s₀ s) (index : Nat) (value : Byte) :
    Keeps s₀ (s.imageChanged index value) := by
  unfold State.imageChanged
  extract_lets s1 s2 s3
  have k1 : Keeps s₀ s1 := h.evaluateHeld
  have k2 : Keeps s₀ s2 := Keeps.foldl _ (fun _ _ k => k.groupImageChange _ _ _) _ k1
  have k3 : Keeps s₀ s3 := k2.callsImageChange _ _
  split
  · exact k3.trySea.tryApply
  · exact k3

theorem Keeps.callIsReady {s₀ s : State} (h : Keeps s₀ s) (e : Fin 16) :
    Keeps s₀ (State.callIsReady s e) := by
  unfold State.callIsReady
  repeat' first
    | with_reducible (first
      | exact h | assumption | apply Keeps.ownCallReady | apply Keeps.rampCallReady
      | apply Keeps.emergencyCallMoved | (refine Keeps.foldl _ (fun _ _ _ => ?_) _ ?_))
    | split
    | exact rfl | exact id

theorem Keeps.handle {s₀ s : State} (h : Keeps s₀ s) (t : Task) : Keeps s₀ (s.handle t) := by
  cases t with
  | imageChange i b a => exact h.imageChanged _ _
  | callReady e => exact h.callIsReady e
  | emergencyCallRemoved =>
    show Keeps s₀ (if _ then _ else _)
    split
    · exact Keeps.foldl _ (fun _ _ k => k.emergencyCallMoved _) _ h
    · exact h
  | restartEffect => exact h.restartDiscarded

theorem Keeps.chooseNext {s₀ s : State} (h : Keeps s₀ s) : Keeps s₀ s.chooseNext := by
  unfold State.chooseNext
  extract_lets src t
  have k : Keeps s₀ t := h.withDls _ fun k => k
  clear_value t
  split
  · exact k.arbitrate 32
  · exact k

/-- What follows from a command keeps every fact. -/
theorem Keeps.settle (n : Nat) {s₀ s : State} (h : Keeps s₀ s) : Keeps s₀ (s.settle n) := by
  induction n generalizing s with
  | zero => exact h
  | succ n ih =>
    unfold State.settle
    split
    · exact ih h.announce
    · split
      · exact ih ((h.withAgenda _).handle _)
      · split
        · exact ih h.chooseNext
        · exact h

theorem Ramp.sampleEncoder_quiet (r : Ramp) (p : ChannelPins) (h : RampQuiet r) :
    RampQuiet (r.sampleEncoder p) := by
  unfold Ramp.sampleEncoder; split <;> exact h

theorem Ramp.sampleEncoder_state (r : Ramp) (p : ChannelPins) : (r.sampleEncoder p).state = r.state := by
  unfold Ramp.sampleEncoder; split <;> rfl

theorem Keeps.withRamps {s₀ s : State} (h : Keeps s₀ s) (a b : Ramp)
    (ha : RampQuiet s.ramps.a → RampQuiet a) (hb : RampQuiet s.ramps.b → RampQuiet b)
    (sa : a.state = s.ramps.a.state) (sb : b.state = s.ramps.b.state) :
    Keeps s₀ { s with ramps := { a := a, b := b } } := by
  refine h.trans ⟨id, id, id, id, fun k => ⟨ha k.1, hb k.2⟩, fun k => ⟨k.1, fun ch => ?_, k.2.2⟩, id,
    id⟩
  have := k.2.1 ch
  cases ch
  · show _ = a.state.code
    rw [sa]; exact this
  · show _ = b.state.code
    rw [sb]; exact this

theorem Keeps.sampleInputs {s₀ s : State} (h : Keeps s₀ s) : Keeps s₀ s.sampleInputs := by
  unfold State.sampleInputs
  extract_lets pa pb s1 s2
  have k1 : Keeps s₀ s1 := by
    simp only [s1]; split
    · exact h.withRamps _ _ (Ramp.sampleEncoder_quiet _ _) (Ramp.sampleEncoder_quiet _ _)
        (Ramp.sampleEncoder_state _ _) (Ramp.sampleEncoder_state _ _)
    · exact h
  clear_value s1
  have k2 : Keeps s₀ s2 := by
    simp only [s2]; split
    · exact k1.withEstop _
    · exact k1
  clear_value s2
  split
  · exact (k2.withRamps (s2.ramps.a.sampleSwitches pa) (s2.ramps.b.sampleSwitches pb) id id rfl
      rfl).withDcc _ rfl
  · exact k2

theorem Keeps.tick {s₀ s : State} (h : Keeps s₀ s) : Keeps s₀ s.tick := by
  unfold State.tick
  extract_lets s1
  have k1 : Keeps s₀ s1 := h.withNow _
  clear_value s1
  split
  · exact k1
  · exact (k1.settle _).sampleInputs

end Sys2Proof.Machine
end

