-- ==== Sys2Proof/Laws/Silent.lean ====
section
/-! SUPPORT. The call list and the beacons place no frame on the bridge line and raise no flag. -/

set_option linter.unusedTactic false
set_option linter.unreachableTactic false

namespace Sys2Proof.Machine

open Sys2Proof

/-- The bridge line and the Fault Collector stay as they are. -/
def Silent (s t : State) : Prop := t.bli = s.bli ∧ t.fc = s.fc

theorem Silent.refl (s : State) : Silent s s := ⟨rfl, rfl⟩

theorem Silent.trans {s t u : State} (h : Silent s t) (k : Silent t u) : Silent s u :=
  ⟨k.1.trans h.1, k.2.trans h.2⟩

theorem Silent.foldl {α : Type} {s : State} (f : State → α → State)
    (hf : ∀ t x, Silent s t → Silent s (f t x)) (l : List α) {t : State} (h : Silent s t) :
    Silent s (l.foldl f t) := by
  induction l generalizing t with
  | nil => exact h
  | cons x l ih => exact ih (hf t x h)

theorem Silent.setZone {s t : State} (h : Silent s t) (z : Fin 12) (x : Zone) : Silent s (t.setZone z x) :=
  h.trans ⟨rfl, rfl⟩

theorem Silent.setCall {s t : State} (h : Silent s t) (e : Fin 16) (x : Option Call) :
    Silent s (t.setCall e x) := h.trans ⟨rfl, rfl⟩

theorem Silent.setShown {s t : State} (h : Silent s t) (b : Fin 8) (x : Shown) :
    Silent s (t.setShown b x) := h.trans ⟨rfl, rfl⟩

theorem Silent.withCl {s t : State} (h : Silent s t) (x : CallList) : Silent s { t with cl := x } :=
  h.trans ⟨rfl, rfl⟩

theorem Silent.withDls {s t : State} (h : Silent s t) (x : Dls) : Silent s { t with dls := x } :=
  h.trans ⟨rfl, rfl⟩

theorem Silent.push {s t : State} (h : Silent s t) (x : Task) : Silent s (t.push x) := h.trans ⟨rfl, rfl⟩

theorem Silent.writeLocal {s t : State} (h : Silent s t) (i : Fin 32) (v : Byte) :
    Silent s (t.writeLocal i v) := by
  unfold State.writeLocal
  split
  · exact h
  · exact h.trans ⟨rfl, rfl⟩

theorem Silent.offer {s t : State} (h : Silent s t) (r : DeckRec) : Silent s (t.offer r).1 := by
  unfold State.offer
  split
  · exact h.trans ⟨rfl, rfl⟩
  · exact h

theorem Silent.offer_eq {s t u : State} {r : DeckRec} {b : Bool} (h : Silent s t)
    (e : t.offer r = (u, b)) : Silent s u := by
  have := h.offer r
  rw [e] at this
  exact this

theorem Silent.formBeacon {s₀ s : State} (h : Silent s₀ s) (b : Fin 8) :
    Silent s₀ (State.formBeacon s b) := by
  unfold State.formBeacon
  dsimp only
  repeat' first
    | with_reducible (first
      | exact h | assumption | apply Silent.setShown)
    | split
    | exact rfl | exact id

theorem Silent.formBeacons {s₀ s : State} (h : Silent s₀ s) :
    Silent s₀ (State.formBeacons s) := by
  unfold State.formBeacons
  repeat' first
    | with_reducible (first
      | exact h | assumption | apply Silent.formBeacon
      | (refine Silent.foldl _ (fun _ _ _ => ?_) _ ?_))
    | split
    | exact rfl | exact id

theorem Silent.restartBeacons {s₀ s : State} (h : Silent s₀ s) :
    Silent s₀ (State.restartBeacons s) := by
  unfold State.restartBeacons
  repeat' first
    | with_reducible (first
      | exact h | assumption | apply Silent.setShown
      | (refine Silent.foldl _ (fun _ _ _ => ?_) _ ?_))
    | split
    | exact rfl | exact id

theorem Silent.raiseBeacons {s₀ s : State} (h : Silent s₀ s) :
    Silent s₀ (State.raiseBeacons s) := by
  unfold State.raiseBeacons
  dsimp only
  repeat' first
    | with_reducible (first
      | exact h | assumption | apply Silent.setShown
      | (refine Silent.foldl _ (fun _ _ _ => ?_) _ ?_))
    | split
    | exact rfl | exact id

theorem Silent.setMark {s₀ s : State} (h : Silent s₀ s) (e : Fin 16) (z : Fin 12) (m : Mark) :
    Silent s₀ (State.setMark s e z m) := by
  unfold State.setMark
  repeat' first
    | with_reducible (first
      | exact h | assumption | apply Silent.setCall)
    | split
    | exact rfl | exact id

theorem Silent.cutTo {s₀ s : State} (h : Silent s₀ s) (z : Fin 12) (node : NodeNo) (object :
    Byte) (urgent : Bool) :
    Silent s₀ (State.cutTo s z node object urgent) := by
  unfold State.cutTo
  dsimp only
  repeat' first
    | with_reducible (first
      | exact h | assumption | exact Silent.offer_eq (by assumption) (by assumption)
      | apply Silent.offer | apply Silent.setZone | refine Silent.offer_eq ?_ (by assumption))
    | split
    | exact rfl | exact id

theorem Silent.buildCut {s₀ s : State} (h : Silent s₀ s) (z : Fin 12) (urgent : Bool) :
    Silent s₀ (State.buildCut s z urgent) := by
  unfold State.buildCut
  repeat' first
    | with_reducible (first
      | exact h | assumption | apply Silent.cutTo)
    | split
    | exact rfl | exact id

theorem Silent.buildPlay {s₀ s : State} (h : Silent s₀ s) (z : Fin 12) (node : NodeNo) (object :
    Byte) (c : Call) :
    Silent s₀ (State.buildPlay s z node object c) := by
  unfold State.buildPlay
  dsimp only
  repeat' first
    | with_reducible (first
      | exact h | assumption | exact Silent.offer_eq (by assumption) (by assumption)
      | apply Silent.offer | apply Silent.setZone | refine Silent.offer_eq ?_ (by assumption))
    | split
    | exact rfl | exact id

theorem Silent.advanceIssue {s₀ s : State} (h : Silent s₀ s) (z : Fin 12) :
    Silent s₀ (State.advanceIssue s z) := by
  unfold State.advanceIssue
  dsimp only
  repeat' first
    | with_reducible (first
      | exact h | assumption | apply Silent.setZone)
    | split
    | exact rfl | exact id

theorem Silent.playOwner {s₀ s : State} (h : Silent s₀ s) (z : Fin 12) :
    Silent s₀ (State.playOwner s z) := by
  unfold State.playOwner
  dsimp only
  repeat' first
    | with_reducible (first
      | exact h | assumption | apply Silent.advanceIssue | apply Silent.setMark
      | apply Silent.buildPlay)
    | split
    | exact rfl | exact id

theorem Silent.recomputeZone {s₀ s : State} (h : Silent s₀ s) (before : CallList) (gone : List
    (Fin 16)) (z : Fin 12) :
    Silent s₀ (State.recomputeZone before gone s z) := by
  unfold State.recomputeZone
  dsimp only
  repeat' first
    | with_reducible (first
      | exact h | assumption | apply Silent.setMark | apply Silent.setZone
      | apply Silent.buildCut | apply Silent.playOwner)
    | split
    | exact rfl | exact id

theorem Silent.writeOwners {s₀ s : State} (h : Silent s₀ s) : Silent s₀ (State.writeOwners s) := by
  unfold State.writeOwners
  refine Silent.foldl _ (fun _ z k => ?_) _ h
  exact k.writeLocal _ _

theorem Silent.makeReady {s₀ s : State} (h : Silent s₀ s) (e : Fin 16) (c : Call) :
    Silent s₀ (State.makeReady s e c) := by
  unfold State.makeReady
  dsimp only
  repeat' first
    | with_reducible (first
      | exact h | assumption | apply Silent.setCall | apply Silent.push)
    | split
    | exact rfl | exact id

theorem Silent.testReady {s₀ s : State} (h : Silent s₀ s) :
    Silent s₀ (State.testReady s) := by
  unfold State.testReady
  repeat' first
    | with_reducible (first
      | exact h | assumption | apply Silent.makeReady
      | (refine Silent.foldl _ (fun _ _ _ => ?_) _ ?_))
    | split
    | exact rfl | exact id

theorem Silent.recompute {s₀ s : State} (h : Silent s₀ s) (before : CallList) (gone : List (Fin
    16)) :
    Silent s₀ (State.recompute s before gone) := by
  unfold State.recompute
  repeat' first
    | with_reducible (first
      | exact h | assumption | apply Silent.recomputeZone | apply Silent.writeOwners
      | apply Silent.testReady | (refine Silent.foldl _ (fun _ _ _ => ?_) _ ?_))
    | split
    | exact rfl | exact id

theorem Silent.handleDone (n : Nat) {s₀ s : State} (h : Silent s₀ s) :
    Silent s₀ (State.handleDone n s) := by
  induction n generalizing s with
  | zero => exact h
  | succ n ih =>
    unfold State.handleDone
    split
    · exact ih ((h.withCl _).recompute _ _)
    · exact h

theorem Silent.reallocate {s₀ s : State} (h : Silent s₀ s) (before : CallList) (gone : List (Fin
    16)) :
    Silent s₀ (State.reallocate s before gone) := by
  unfold State.reallocate
  repeat' first
    | with_reducible (first
      | exact h | assumption | apply Silent.handleDone | apply Silent.recompute
      | apply Silent.formBeacons)
    | split
    | exact rfl | exact id

theorem Silent.settleDone {s₀ s : State} (h : Silent s₀ s) :
    Silent s₀ (State.settleDone s) := by
  unfold State.settleDone
  repeat' first
    | with_reducible (first
      | exact h | assumption | apply Silent.handleDone | apply Silent.formBeacons)
    | split
    | exact rfl | exact id

theorem Silent.placeEntry {s₀ s : State} (h : Silent s₀ s) (e : Fin 16) (c : Call) :
    Silent s₀ (State.placeEntry s e c) := by
  unfold State.placeEntry
  dsimp only
  repeat' first
    | with_reducible (first
      | exact h | assumption | apply Silent.reallocate)
    | split
    | with_reducible (first | apply Silent.withCl)
    | exact rfl | exact id

theorem Silent.removeEntries {s₀ s : State} (h : Silent s₀ s) (es : List (Fin 16)) :
    Silent s₀ (State.removeEntries s es) := by
  unfold State.removeEntries
  extract_lets gone before s'
  have k : Silent s₀ s' := (h.withCl _).reallocate _ _
  clear_value s'
  split
  · exact k.push _
  · exact k

theorem Silent.removeEntry {s₀ s : State} (h : Silent s₀ s) (e : Fin 16) :
    Silent s₀ (State.removeEntry s e) := by
  unfold State.removeEntry
  repeat' first
    | with_reducible (first
      | exact h | assumption | apply Silent.removeEntries)
    | split
    | exact rfl | exact id

theorem Silent.placeEmergency {s₀ s : State} (h : Silent s₀ s) :
    Silent s₀ (State.placeEmergency s) := by
  unfold State.placeEmergency
  repeat' first
    | with_reducible (first
      | exact h | assumption | apply Silent.placeEntry)
    | split
    | exact rfl | exact id

theorem Silent.refreshCall {s₀ s : State} (h : Silent s₀ s) (e : Fin 16) (p : PlaceReq) :
    Silent s₀ (State.refreshCall s e p) := by
  unfold State.refreshCall
  dsimp only
  repeat' first
    | with_reducible (first
      | exact h | assumption | apply Silent.setCall | apply Silent.playOwner
      | apply Silent.reallocate | (refine Silent.foldl _ (fun _ _ _ => ?_) _ ?_))
    | split
    | exact rfl | exact id

theorem Silent.offerZonePending {s₀ s : State} (h : Silent s₀ s) (z : Fin 12) :
    Silent s₀ (State.offerZonePending s z) := by
  unfold State.offerZonePending
  dsimp only
  repeat' first
    | with_reducible (first
      | exact h | assumption | exact Silent.offer_eq (by assumption) (by assumption)
      | apply Silent.offer | apply Silent.setZone | refine Silent.offer_eq ?_ (by assumption))
    | split
    | exact rfl | exact id

theorem Silent.moveZone {s₀ s : State} (h : Silent s₀ s) (z : Fin 12) (oldTarget : Option (NodeNo
    × Byte)) :
    Silent s₀ (State.moveZone s z oldTarget) := by
  unfold State.moveZone
  dsimp only
  repeat' first
    | with_reducible (first
      | exact h | assumption | apply Silent.setZone | apply Silent.cutTo
      | apply Silent.setMark | apply Silent.playOwner)
    | split
    | exact rfl | exact id

theorem Silent.swapZones {s₀ s : State} (h : Silent s₀ s) (oldDefs : Tab ObjDef 96) (newIndex :
    Fin 12 → Nat) :
    Silent s₀ (State.swapZones s oldDefs newIndex) := by
  unfold State.swapZones
  dsimp only
  repeat' first
    | with_reducible (first
      | exact h | assumption | apply Silent.setZone | apply Silent.moveZone
      | apply Silent.settleDone | (refine Silent.foldl _ (fun _ _ _ => ?_) _ ?_))
    | split
    | exact rfl | exact id

theorem Silent.restartCalls {s₀ s : State} (h : Silent s₀ s) :
    Silent s₀ (State.restartCalls s) := by
  unfold State.restartCalls
  extract_lets s1 src s2 s3
  have k1 : Silent s₀ s1 := Silent.foldl _ (fun t z k => by
    split
    · exact k
    · split
      · exact k.buildCut _ _
      · exact k) _ h
  have k2 : Silent s₀ s2 := k1.withCl _
  have k3 : Silent s₀ s3 := Silent.foldl _ (fun t z k => k.setZone _ _) _ k2
  exact k3.writeOwners

end Sys2Proof.Machine
end

