-- ==== Sys2Proof/Laws/Listed.lean ====
section
/-! SUPPORT. Which calls stay in the list: absent entries stay absent, continuous calls stay listed. -/

set_option linter.unusedTactic false
set_option linter.unreachableTactic false

namespace Sys2Proof.Machine

open Sys2Proof

/-- What a call is, apart from how far it has come. -/
def Call.key (c : Call) : CallOrigin × ZoneSet × Byte × Priority × Nat × Nat :=
  (c.origin, c.zones, c.message, c.priority, c.reps, c.pattern)

/-- An absent entry stays absent, and a continuous call stays in its entry. -/
def Kept (i : Fin 16) (s t : State) : Prop :=
  (s.cl.calls.at i = none → t.cl.calls.at i = none)
    ∧ ∀ c, s.cl.calls.at i = some c → c.reps = 0 → ∃ x, t.cl.calls.at i = some x ∧ x.key = c.key

theorem Kept.refl (i : Fin 16) (s : State) : Kept i s s := ⟨id, fun c h _ => ⟨c, h, rfl⟩⟩

theorem Call.key_reps {c x : Call} (h : x.key = c.key) : x.reps = c.reps :=
  congrArg (fun k => k.2.2.2.2.1) h

theorem Kept.trans {i : Fin 16} {s t u : State} (h : Kept i s t) (k : Kept i t u) : Kept i s u := by
  refine ⟨fun e => k.1 (h.1 e), fun c e r => ?_⟩
  obtain ⟨x, hx, ex⟩ := h.2 c e r
  obtain ⟨y, hy, ey⟩ := k.2 x hx ((Call.key_reps ex).trans r)
  exact ⟨y, hy, ey.trans ex⟩

/-- Nothing that leaves the entries alone changes one. -/
theorem Kept.same {i : Fin 16} {s t u : State} (h : Kept i s t) (e : u.cl.calls = t.cl.calls) :
    Kept i s u := by
  unfold Kept at *
  rw [e]
  exact h

theorem Kept.foldl {α : Type} {i : Fin 16} {s : State} (f : State → α → State)
    (hf : ∀ t x, Kept i s t → Kept i s (f t x)) (l : List α) {t : State} (h : Kept i s t) :
    Kept i s (l.foldl f t) := by
  induction l generalizing t with
  | nil => exact h
  | cons x l ih => exact ih (hf t x h)

/-- An entry replaced by a call with the same key. -/
theorem Kept.setCall {i : Fin 16} {s t : State} (h : Kept i s t) (e : Fin 16) (c x : Call)
    (hc : t.cl.calls.at e = some c) (hk : x.key = c.key) : Kept i s (t.setCall e (some x)) := by
  refine h.trans ?_
  by_cases hi : e = i
  · subst hi
    refine ⟨fun n => (Option.some_ne_none c (hc.symm.trans n)).elim, fun c' e' _ => ?_⟩
    obtain rfl : c = c' := Option.some.inj (hc.symm.trans e')
    exact ⟨x, Tab.at_put_self _ _ _, hk⟩
  · have : (t.setCall e (some x)).cl.calls.at i = t.cl.calls.at i := Tab.at_put_ne _ _ hi
    refine ⟨fun n => this.trans n, fun c' e' _ => ⟨c', this.trans e', rfl⟩⟩

theorem Kept.setMark {i : Fin 16} {s t : State} (h : Kept i s t) (e : Fin 16) (z : Fin 12) (m : Mark) :
    Kept i s (t.setMark e z m) := by
  unfold State.setMark
  split
  · exact h
  · rename_i c hc
    exact h.setCall e c _ hc rfl

theorem Kept.setZone {i : Fin 16} {s t : State} (h : Kept i s t) (z : Fin 12) (x : Zone) :
    Kept i s (t.setZone z x) := h.same rfl

theorem Kept.setShown {i : Fin 16} {s t : State} (h : Kept i s t) (b : Fin 8) (x : Shown) :
    Kept i s (t.setShown b x) := h.same rfl

theorem Kept.withDls {i : Fin 16} {s t : State} (h : Kept i s t) (x : Dls) :
    Kept i s { t with dls := x } := h.same rfl

theorem Kept.push {i : Fin 16} {s t : State} (h : Kept i s t) (x : Task) : Kept i s (t.push x) := h.same rfl

theorem Kept.writeLocal {i : Fin 16} {s t : State} (h : Kept i s t) (k : Fin 32) (v : Byte) :
    Kept i s (t.writeLocal k v) := by
  unfold State.writeLocal
  split
  · exact h
  · exact h.same rfl

theorem Kept.offer {i : Fin 16} {s t : State} (h : Kept i s t) (r : DeckRec) : Kept i s (t.offer r).1 := by
  unfold State.offer
  split
  · exact h.same rfl
  · exact h

theorem Kept.offer_eq {i : Fin 16} {s t u : State} {r : DeckRec} {b : Bool} (h : Kept i s t)
    (e : t.offer r = (u, b)) : Kept i s u := by
  have := h.offer r
  rw [e] at this
  exact this

theorem Kept.of_eq {i : Fin 16} {s t : State} {r : DeckRec} {u : State} {b : Bool} (h : Kept i s t)
    (e : t.offer r = (u, b)) : Kept i s u := h.offer_eq e

theorem Kept.makeReady {i : Fin 16} {s t : State} (h : Kept i s t) (e : Fin 16) (c : Call)
    (hc : t.cl.calls.at e = some c) : Kept i s (t.makeReady e c) := by
  unfold State.makeReady
  dsimp only
  have k := h.setCall e c { c with ready := some t.now, wait := none } hc rfl
  split
  · exact k.push _
  · exact k

theorem Kept.formBeacon {s₀ s : State} {i : Fin 16} (h : Kept i s₀ s) (b : Fin 8) :
    Kept i s₀ (State.formBeacon s b) := by
  unfold State.formBeacon
  dsimp only
  repeat' first
    | with_reducible (first
      | exact h | assumption | apply Kept.setShown)
    | split

theorem Kept.formBeacons {s₀ s : State} {i : Fin 16} (h : Kept i s₀ s) :
    Kept i s₀ (State.formBeacons s) := by
  unfold State.formBeacons
  repeat' first
    | with_reducible (first
      | exact h | assumption | apply Kept.formBeacon
      | (refine Kept.foldl _ (fun _ _ _ => ?_) _ ?_))
    | split

theorem Kept.cutTo {s₀ s : State} {i : Fin 16} (h : Kept i s₀ s) (z : Fin 12) (node : NodeNo)
    (object : Byte) (urgent : Bool) :
    Kept i s₀ (State.cutTo s z node object urgent) := by
  unfold State.cutTo
  dsimp only
  repeat' first
    | with_reducible (first
      | exact h | assumption | exact Kept.offer_eq (by assumption) (by assumption)
      | apply Kept.offer | apply Kept.setZone | refine Kept.offer_eq ?_ (by assumption)
      | refine Kept.of_eq ?_ (by assumption))
    | split

theorem Kept.buildCut {s₀ s : State} {i : Fin 16} (h : Kept i s₀ s) (z : Fin 12) (urgent : Bool) :
    Kept i s₀ (State.buildCut s z urgent) := by
  unfold State.buildCut
  repeat' first
    | with_reducible (first
      | exact h | assumption | apply Kept.cutTo)
    | split

theorem Kept.buildPlay {s₀ s : State} {i : Fin 16} (h : Kept i s₀ s) (z : Fin 12) (node : NodeNo)
    (object : Byte) (c : Call) :
    Kept i s₀ (State.buildPlay s z node object c) := by
  unfold State.buildPlay
  dsimp only
  repeat' first
    | with_reducible (first
      | exact h | assumption | exact Kept.offer_eq (by assumption) (by assumption)
      | apply Kept.offer | apply Kept.setZone | refine Kept.offer_eq ?_ (by assumption)
      | refine Kept.of_eq ?_ (by assumption))
    | split

theorem Kept.advanceIssue {s₀ s : State} {i : Fin 16} (h : Kept i s₀ s) (z : Fin 12) :
    Kept i s₀ (State.advanceIssue s z) := by
  unfold State.advanceIssue
  dsimp only
  repeat' first
    | with_reducible (first
      | exact h | assumption | apply Kept.setZone)
    | split

theorem Kept.playOwner {s₀ s : State} {i : Fin 16} (h : Kept i s₀ s) (z : Fin 12) :
    Kept i s₀ (State.playOwner s z) := by
  unfold State.playOwner
  dsimp only
  repeat' first
    | with_reducible (first
      | exact h | assumption | apply Kept.advanceIssue | apply Kept.setMark
      | apply Kept.buildPlay)
    | split

theorem Kept.recomputeZone {s₀ s : State} {i : Fin 16} (h : Kept i s₀ s) (before : CallList)
    (gone : List (Fin 16)) (z : Fin 12) :
    Kept i s₀ (State.recomputeZone before gone s z) := by
  unfold State.recomputeZone
  dsimp only
  repeat' first
    | with_reducible (first
      | exact h | assumption | apply Kept.setMark | apply Kept.setZone | apply Kept.buildCut
      | apply Kept.playOwner)
    | split

theorem Kept.writeOwners {s₀ s : State} {i : Fin 16} (h : Kept i s₀ s) : Kept i s₀ (State.writeOwners s) := by
  unfold State.writeOwners
  exact Kept.foldl _ (fun _ z k => k.writeLocal _ _) _ h

theorem Kept.testReady {s₀ s : State} {i : Fin 16} (h : Kept i s₀ s) : Kept i s₀ (State.testReady s) := by
  unfold State.testReady
  refine Kept.foldl _ (fun t e k => ?_) _ h
  split
  · exact k
  · rename_i c hc
    split
    · exact k.makeReady e c hc
    · exact k

theorem Kept.recompute {s₀ s : State} {i : Fin 16} (h : Kept i s₀ s) (before : CallList) (gone :
    List (Fin 16)) :
    Kept i s₀ (State.recompute s before gone) := by
  unfold State.recompute
  repeat' first
    | with_reducible (first
      | exact h | assumption | apply Kept.recomputeZone | apply Kept.writeOwners
      | apply Kept.testReady | (refine Kept.foldl _ (fun _ _ _ => ?_) _ ?_))
    | split

theorem CallList.remove_other (cl : CallList) (es : List (Fin 16)) (i : Fin 16) (h : i ∉ es) :
    (cl.remove es).calls.at i = cl.calls.at i := by
  unfold CallList.remove
  dsimp only
  generalize cl.calls = t
  induction es generalizing t with
  | nil => rfl
  | cons e es ih =>
    simp only [List.mem_cons, not_or] at h
    exact (ih h.2 _).trans (Tab.at_put_ne _ _ (Ne.symm h.1))

theorem CallList.remove_none (cl : CallList) (es : List (Fin 16)) (i : Fin 16)
    (h : i ∈ es ∨ cl.calls.at i = none) : (cl.remove es).calls.at i = none := by
  unfold CallList.remove
  dsimp only
  generalize cl.calls = t at h
  induction es generalizing t with
  | nil =>
    rcases h with h | h
    · exact absurd h (List.not_mem_nil)
    · exact h
  | cons e es ih =>
    refine ih _ ?_
    by_cases he : e = i
    · right; subst he; exact Tab.at_put_self _ _ _
    · rcases h with h | h
      · rcases List.mem_cons.mp h with h | h
        · exact absurd h.symm he
        · exact .inl h
      · right; exact (Tab.at_put_ne _ _ he).trans h

theorem Call.finished_reps (c : Call) (h : c.finished = true) : c.reps ≠ 0 := by
  intro e
  simp [Call.finished, Call.finite, e] at h

/-- A continuous call is never finished (R157). -/
theorem CallList.finished_finite (cl : CallList) (i : Fin 16) (c : Call) (h : cl.calls.at i = some c)
    (hr : c.reps = 0) : i ∉ cl.finishedEntries := by
  intro hm
  have := (List.mem_filter.mp hm).2
  rw [h] at this
  exact Call.finished_reps c this hr

theorem Kept.handleDone (n : Nat) {s t : State} {i : Fin 16} (h : Kept i s t) :
    Kept i s (State.handleDone n t) := by
  induction n generalizing t with
  | zero => exact h
  | succ n ih =>
    unfold State.handleDone
    split
    · refine ih (Kept.recompute (h.trans ?_) _ _)
      refine ⟨fun e => CallList.remove_none _ _ _ (.inr e), fun c e r => ⟨c, ?_, rfl⟩⟩
      exact (CallList.remove_other _ _ _ (CallList.finished_finite _ i c e r)).trans e
    · exact h

theorem Kept.settleDone {s t : State} {i : Fin 16} (h : Kept i s t) : Kept i s t.settleDone :=
  (Kept.handleDone 193 h).formBeacons

theorem Kept.reallocate {s t : State} {i : Fin 16} (h : Kept i s t) (before : CallList)
    (gone : List (Fin 16)) : Kept i s (t.reallocate before gone) :=
  (Kept.handleDone 193 (h.recompute before gone)).formBeacons

/-- A continuous call placed in an entry is listed there (R147). -/
theorem State.placeEntry_listed (s : State) (e : Fin 16) (c : Call) (hr : c.reps = 0) :
    ∃ x, (s.placeEntry e c).cl.calls.at e = some x ∧ x.key = c.key := by
  unfold State.placeEntry
  dsimp only
  refine (Kept.reallocate (Kept.refl e _) _ _).2 c ?_ hr
  exact Tab.at_put_self _ _ _

/-- A placement leaves the other entries as they are, but for calls that finish (R147). -/
theorem Kept.placeEntry {s t : State} {i : Fin 16} (h : Kept i s t) (e : Fin 16) (c : Call) (hi : i ≠ e) :
    Kept i s (t.placeEntry e c) := by
  unfold State.placeEntry
  dsimp only
  refine Kept.reallocate (h.trans ?_) _ _
  have k : ∀ gone : List (Fin 16), i ∉ gone →
      ((t.cl.remove gone).calls.put e (some c)).at i = t.cl.calls.at i := fun gone hg =>
    (Tab.at_put_ne _ _ (Ne.symm hi)).trans (CallList.remove_other _ _ _ hg)
  have k' := k (if (t.cl.calls.at e).isSome then [e] else []) (by split <;> simp [hi])
  exact ⟨fun n => k'.trans n, fun x hx _ => ⟨x, k'.trans hx, rfl⟩⟩

theorem State.removeEntries_absent (s : State) (es : List (Fin 16)) (i : Fin 16) (h : i ∈ es) :
    (s.removeEntries es).cl.calls.at i = none := by
  unfold State.removeEntries
  dsimp only
  have hg : i ∈ es.filter (fun e => (s.cl.calls.at e).isSome) ∨ s.cl.calls.at i = none := by
    cases hc : s.cl.calls.at i with
    | none => exact .inr rfl
    | some c => exact .inl (List.mem_filter.mpr ⟨h, by rw [hc]; rfl⟩)
  have k := (Kept.reallocate (Kept.refl i { s with
    cl := s.cl.remove (es.filter fun e => (s.cl.calls.at e).isSome) }) s.cl
    (es.filter fun e => (s.cl.calls.at e).isSome))
  have h0 := CallList.remove_none s.cl _ i hg
  split
  · exact (k.push _).1 h0
  · exact k.1 h0

theorem Kept.removeEntries {s t : State} {i : Fin 16} (h : Kept i s t) (es : List (Fin 16)) (hi : i ∉ es) :
    Kept i s (t.removeEntries es) := by
  unfold State.removeEntries
  dsimp only
  have hg : i ∉ es.filter (fun e => (t.cl.calls.at e).isSome) := fun m => hi (List.mem_filter.mp m).1
  have k : Kept i s { t with cl := t.cl.remove (es.filter fun e => (t.cl.calls.at e).isSome) } :=
    h.trans ⟨fun n => (CallList.remove_other _ _ _ hg).trans n,
      fun x hx _ => ⟨x, (CallList.remove_other _ _ _ hg).trans hx, rfl⟩⟩
  split
  · exact (k.reallocate _ _).push _
  · exact k.reallocate _ _

/-- An entry removed is absent (R147). -/
theorem State.removeEntry_absent (s : State) (e : Fin 16) : (s.removeEntry e).cl.calls.at e = none := by
  unfold State.removeEntry
  split
  · exact s.removeEntries_absent _ _ (List.mem_singleton.mpr rfl)
  · rename_i h
    exact Option.not_isSome_iff_eq_none.mp h

theorem Kept.removeEntry {s t : State} {i : Fin 16} (h : Kept i s t) (e : Fin 16) (hi : i ≠ e) :
    Kept i s (t.removeEntry e) := by
  unfold State.removeEntry
  split
  · exact h.removeEntries _ (by simpa using hi)
  · exact h

end Sys2Proof.Machine
end

