-- ==== Sys2Proof/Laws/RampOnly.lean ====
section
/-! SUPPORT. What a ramp channel leaves alone. -/

set_option linter.unusedTactic false
set_option linter.unreachableTactic false

namespace Sys2Proof.Machine

open Sys2Proof

theorem RampOnly.ofCalls' (ch : Channel) {s t : State} (k : CallsOnly s t) : RampOnly ch s t :=
  ⟨k.grow, k.pending, k.now, k.straps, k.node, k.pins, k.dcc, k.held, k.estop, k.groups, k.ts, k.settings,
    k.remotes, k.defs, k.pointer, k.pass, k.silence, k.restarting, k.masks, k.summaryMasks,
    .inl ⟨k.test, k.last⟩, fun c _ => k.ramp c, fun i hi _ => k.locals i hi⟩

theorem RampOnly.refl (ch : Channel) (s : State) : RampOnly ch s s := .ofCalls' ch (.refl s)

theorem State.testingOn_eq {s t : State} (ch : Channel) (h : t.fc.test = s.fc.test) :
    t.testingOn ch = s.testingOn ch := by
  unfold State.testingOn
  rw [h]

theorem State.testingOn_none {t : State} (ch : Channel) (h : t.fc.test = none) :
    t.testingOn ch = false := by
  unfold State.testingOn
  rw [h]

/-- What becomes of a proof test over two changes: as it was, or that of the channel ended. -/
theorem tests_trans {ch : Channel} {s t u : State}
    (h : t.fc.test = s.fc.test ∧ t.fc.last = s.fc.last ∨ s.testingOn ch = true ∧ t.fc.test = none)
    (k : u.fc.test = t.fc.test ∧ u.fc.last = t.fc.last ∨ t.testingOn ch = true ∧ u.fc.test = none) :
    u.fc.test = s.fc.test ∧ u.fc.last = s.fc.last ∨ s.testingOn ch = true ∧ u.fc.test = none := by
  rcases h with ⟨h1, h2⟩ | ⟨h1, h2⟩
  · rcases k with ⟨k1, k2⟩ | ⟨k1, k2⟩
    · exact .inl ⟨k1.trans h1, k2.trans h2⟩
    · exact .inr ⟨(State.testingOn_eq ch h1).symm.trans k1, k2⟩
  · rcases k with ⟨k1, _⟩ | ⟨_, k2⟩
    · exact .inr ⟨h1, k1.trans h2⟩
    · exact .inr ⟨h1, k2⟩

theorem RampOnly.trans {ch : Channel} {s t u : State} (h : RampOnly ch s t) (k : RampOnly ch t u) : RampOnly ch s u :=
  ⟨h.grow.trans k.grow, k.pending.trans h.pending, k.now.trans h.now, k.straps.trans h.straps,
    k.node.trans h.node, k.pins.trans h.pins, k.dcc.trans
    h.dcc, k.held.trans h.held, k.estop.trans h.estop, k.groups.trans h.groups, k.ts.trans
    h.ts, k.settings.trans h.settings, k.remotes.trans h.remotes, k.defs.trans h.defs,
    k.pointer.trans h.pointer, k.pass.trans h.pass, k.silence.trans h.silence,
    k.restarting.trans h.restarting, k.masks.trans h.masks, k.summaryMasks.trans
    h.summaryMasks, tests_trans h.test k.test, fun c hc => (k.others c hc).trans (h.others c hc),
    fun i hi hc => (k.locals i hi hc).trans (h.locals i hi hc)⟩

theorem RampOnly.ofCalls {ch : Channel} {s t u : State} (h : RampOnly ch s t) (k : CallsOnly t u) :
    RampOnly ch s u := h.trans (.ofCalls' ch k)

theorem RampOnly.foldl {α : Type} {ch : Channel} {s : State} (f : State → α → State)
    (hf : ∀ t x, RampOnly ch s t → RampOnly ch s (f t x)) (l : List α) {t : State} (h : RampOnly ch s t) :
    RampOnly ch s (l.foldl f t) := by
  induction l generalizing t with
  | nil => exact h
  | cons x xs ih => exact ih (hf t x h)

theorem RampOnly.placeEntry {ch : Channel} {s t : State} (h : RampOnly ch s t) (e : Fin 16) (c : Call) :
    RampOnly ch s (t.placeEntry e c) := h.ofCalls ((CallsOnly.refl t).placeEntry e c)

theorem RampOnly.removeEntry {ch : Channel} {s t : State} (h : RampOnly ch s t) (e : Fin 16) :
    RampOnly ch s (t.removeEntry e) := h.ofCalls ((CallsOnly.refl t).removeEntry e)

theorem RampOnly.formBeacons {ch : Channel} {s t : State} (h : RampOnly ch s t) :
    RampOnly ch s (t.formBeacons) := h.ofCalls ((CallsOnly.refl t).formBeacons)

theorem RampOnly.raiseFlag {ch : Channel} {s t : State} (h : RampOnly ch s t) (f : Flag) :
    RampOnly ch s (t.raiseFlag f) := h.ofCalls ((CallsOnly.refl t).raiseFlag f)

theorem RampOnly.reply {ch : Channel} {s t : State} (h : RampOnly ch s t) (n : NodeNo) (o : Byte) (c : Result) (p : List Byte) :
    RampOnly ch s (t.reply n o c p) := h.ofCalls ((CallsOnly.refl t).reply n o c p)

theorem RampOnly.refuse {ch : Channel} {s t : State} (h : RampOnly ch s t) (n : NodeNo) (o : Byte) (r : Reason) (l : Bool) :
    RampOnly ch s (t.refuse n o r l) := h.ofCalls ((CallsOnly.refl t).refuse n o r l)

theorem RampOnly.notice {ch : Channel} {s t : State} (h : RampOnly ch s t) (o x : Byte) (p : List Byte) :
    RampOnly ch s (t.notice o x p) := h.ofCalls ((CallsOnly.refl t).notice o x p)

theorem RampOnly.writeLocal {ch : Channel} {s t : State} (h : RampOnly ch s t) (x : Byte) :
    RampOnly ch s (t.writeLocal ch.stateEntry x) := by
  have k := t.writeLocal_calm ch.stateEntry x
  refine h.trans ⟨Grows.ofCalm k, k.pending, k.now, k.straps, k.node, k.pins, k.dcc, k.held, k.estop,
    k.groups, k.ts, k.settings, k.remotes, k.defs, k.pointer, k.pass, k.silence, k.restarting, k.masks,
    k.summaryMasks, .inl ⟨k.test, k.last⟩, fun c _ => by unfold State.ramp; rw [k.ramps], fun j _ hj => ?_⟩
  rw [State.writeLocal_locals, Tab.at_put_ne _ _ (Ne.symm hj)]

theorem RampOnly.setRamp {ch : Channel} {s t : State} (h : RampOnly ch s t) (r : Ramp) :
    RampOnly ch s (t.setRamp ch r) := by
  refine h.trans ⟨Grows.same rfl rfl rfl rfl rfl, rfl, rfl, rfl, rfl, rfl, rfl, rfl, rfl, rfl, rfl, rfl, rfl,
    rfl, rfl, rfl, rfl, rfl, rfl, rfl, .inl ⟨rfl, rfl⟩, fun c hc => ?_, fun _ _ _ => rfl⟩
  cases ch <;> cases c <;> first | exact absurd rfl hc | rfl

/-- The counts that the end of a channel's proof test sets to 0 are the channel's own. -/
theorem RampOnly.zeroTestCount {ch : Channel} (t : State) (id : TestId) (hc : id.channel? = some ch) :
    RampOnly ch t (t.zeroTestCount id) := by
  cases id with
  | overspeed c =>
    obtain rfl : c = ch := by simpa [TestId.channel?] using hc
    exact (RampOnly.refl _ t).setRamp _
  | overload c =>
    obtain rfl : c = ch := by simpa [TestId.channel?] using hc
    exact (RampOnly.refl _ t).setRamp _
  | landInput _ => exact RampOnly.refl _ t
  | scrub => exact RampOnly.refl _ t

/-- The end of the channel's own proof test. -/
theorem RampOnly.endTest {ch : Channel} {s t : State} (h : RampOnly ch s t) (r : TestResult)
    (ht : t.testingOn ch = true) : RampOnly ch s (t.endTest r) := by
  unfold State.endTest
  split
  · exact h
  · rename_i x hx
    refine RampOnly.notice (h.trans ?_) _ _ _
    have hc : x.id.channel? = some ch := by simpa [State.testingOn, hx] using ht
    have hz := RampOnly.zeroTestCount t x.id hc
    exact ⟨hz.grow.trans (Grows.same rfl rfl rfl rfl rfl), hz.pending, hz.now, hz.straps, hz.node, hz.pins,
      hz.dcc, hz.held, hz.estop, hz.groups, hz.ts, hz.settings, hz.remotes, hz.defs, hz.pointer, hz.pass,
      hz.silence, hz.restarting, hz.masks, hz.summaryMasks, .inr ⟨ht, rfl⟩, hz.others, hz.locals⟩

theorem RampOnly.abortTestOn {ch : Channel} {s t : State} (h : RampOnly ch s t) :
    RampOnly ch s (t.abortTestOn ch) := by
  unfold State.abortTestOn
  split
  · rename_i ht
    exact h.endTest _ ht
  · exact h

theorem RampOnly.enterRamp {s₀ s : State} {ch : Channel} (h : RampOnly ch s₀ s) (st : RampState) :
    RampOnly ch s₀ (State.enterRamp s ch st) := by
  unfold State.enterRamp
  dsimp only
  repeat' first
    | with_reducible (first
      | exact h | assumption | apply RampOnly.setRamp | apply RampOnly.writeLocal
      | apply RampOnly.abortTestOn | apply RampOnly.removeEntry | apply RampOnly.placeEntry
      | apply RampOnly.formBeacons)
    | split

theorem RampOnly.drivePinsOut {s₀ s : State} {ch : Channel} (h : RampOnly ch s₀ s) :
    RampOnly ch s₀ (State.drivePinsOut s ch) := by
  unfold State.drivePinsOut
  dsimp only
  repeat' first
    | with_reducible (first
      | exact h | assumption | apply RampOnly.setRamp)
    | split

theorem RampOnly.startRamp {s₀ s : State} {ch : Channel} (h : RampOnly ch s₀ s) (d : Dir) :
    RampOnly ch s₀ (State.startRamp s ch d) := by
  unfold State.startRamp
  dsimp only
  repeat' first
    | with_reducible (first
      | exact h | assumption | apply RampOnly.setRamp | apply RampOnly.enterRamp
      | apply RampOnly.drivePinsOut)
    | split

theorem RampOnly.enterLocking {s₀ s : State} {ch : Channel} (h : RampOnly ch s₀ s) :
    RampOnly ch s₀ (State.enterLocking s ch) := by
  unfold State.enterLocking
  dsimp only
  repeat' first
    | with_reducible (first
      | exact h | assumption | apply RampOnly.enterRamp | apply RampOnly.setRamp)
    | split

theorem RampOnly.leaveStarting {s₀ s : State} {ch : Channel} (h : RampOnly ch s₀ s) :
    RampOnly ch s₀ (State.leaveStarting s ch) := by
  unfold State.leaveStarting
  dsimp only
  repeat' first
    | with_reducible (first
      | exact h | assumption | apply RampOnly.setRamp | apply RampOnly.enterLocking
      | apply RampOnly.enterRamp | apply RampOnly.raiseFlag)
    | split

theorem RampOnly.rampWarned {s₀ s : State} {ch : Channel} (h : RampOnly ch s₀ s) :
    RampOnly ch s₀ (State.rampWarned s ch) := by
  unfold State.rampWarned
  repeat' first
    | with_reducible (first
      | exact h | assumption | apply RampOnly.setRamp | apply RampOnly.leaveStarting)
    | split

theorem RampOnly.rampCallReady {s₀ s : State} {ch : Channel} (h : RampOnly ch s₀ s) :
    RampOnly ch s₀ (State.rampCallReady s ch) := by
  unfold State.rampCallReady
  dsimp only
  repeat' first
    | with_reducible (first
      | exact h | assumption | apply RampOnly.rampWarned | apply RampOnly.setRamp)
    | split

theorem RampOnly.faultRamp {s₀ s : State} {ch : Channel} (h : RampOnly ch s₀ s) (c : Cause) :
    RampOnly ch s₀ (State.faultRamp s ch c) := by
  unfold State.faultRamp
  dsimp only
  repeat' first
    | with_reducible (first
      | exact h | assumption | apply RampOnly.setRamp | apply RampOnly.enterRamp
      | apply RampOnly.raiseFlag)
    | split

theorem RampOnly.haltRamp {s₀ s : State} {ch : Channel} (h : RampOnly ch s₀ s) :
    RampOnly ch s₀ (State.haltRamp s ch) := by
  unfold State.haltRamp
  repeat' first
    | with_reducible (first
      | exact h | assumption | apply RampOnly.enterRamp | apply RampOnly.setRamp)
    | split

theorem RampOnly.answer {ch : Channel} {s₀ s : State} (h : RampOnly ch s₀ s) (dest : NodeNo)
    (object : Byte) (x : Answer) : RampOnly ch s₀ (s.answer dest object x) := by
  cases x
  · exact h.refuse _ _ _ _
  · exact h.reply _ _ _ _

theorem RampOnly.markSilence {s₀ s : State} {ch : Channel} (h : RampOnly ch s₀ s) :
    RampOnly ch s₀ (State.markSilence s ch) := by
  unfold State.markSilence
  repeat' first
    | with_reducible (first
      | exact h | assumption | apply RampOnly.setRamp)
    | split

theorem RampOnly.pendStart {s₀ s : State} {ch : Channel} (h : RampOnly ch s₀ s) (d : Dir) :
    RampOnly ch s₀ (State.pendStart s ch d) := by
  unfold State.pendStart
  repeat' first
    | with_reducible (first
      | exact h | assumption | apply RampOnly.setRamp | apply RampOnly.enterRamp)
    | split

theorem RampOnly.moveByState {s₀ s : State} {ch : Channel} (h : RampOnly ch s₀ s) (d : Dir) (src
    : NodeNo) :
    RampOnly ch s₀ (State.moveByState s ch d src) := by
  unfold State.moveByState
  dsimp only
  repeat' first
    | with_reducible (first
      | exact h | assumption | apply RampOnly.refuse | apply RampOnly.reply
      | apply RampOnly.startRamp | apply RampOnly.pendStart)
    | split

theorem RampOnly.moveRamp {s₀ s : State} {ch : Channel} (h : RampOnly ch s₀ s) (d : Dir) (q :
    Request) :
    RampOnly ch s₀ (State.moveRamp s ch d q) := by
  unfold State.moveRamp
  dsimp only
  repeat' first
    | with_reducible (first
      | exact h | assumption | apply RampOnly.markSilence | apply RampOnly.reply
      | apply RampOnly.answer | apply RampOnly.moveByState)
    | split

theorem RampOnly.startDeadMan {s₀ s : State} {ch : Channel} (h : RampOnly ch s₀ s) :
    RampOnly ch s₀ (State.startDeadMan s ch) := by
  unfold State.startDeadMan
  repeat' first
    | with_reducible (first
      | exact h | assumption | apply RampOnly.setRamp)
    | split

theorem RampOnly.jogByState {s₀ s : State} {ch : Channel} (h : RampOnly ch s₀ s) (d : Dir) (speed
    : Nat) (src : NodeNo) :
    RampOnly ch s₀ (State.jogByState s ch d speed src) := by
  unfold State.jogByState
  dsimp only
  repeat' first
    | with_reducible (first
      | exact h | assumption | apply RampOnly.reply | apply RampOnly.setRamp
      | apply RampOnly.enterRamp | apply RampOnly.startDeadMan | apply RampOnly.refuse)
    | split

theorem RampOnly.jogRamp {s₀ s : State} {ch : Channel} (h : RampOnly ch s₀ s) (q : Request) :
    RampOnly ch s₀ (State.jogRamp s ch q) := by
  unfold State.jogRamp
  dsimp only
  repeat' first
    | with_reducible (first
      | exact h | assumption | apply RampOnly.markSilence | apply RampOnly.reply
      | apply RampOnly.answer | apply RampOnly.jogByState)
    | split

theorem RampOnly.stopRamp {s₀ s : State} {ch : Channel} (h : RampOnly ch s₀ s) (q : Request) :
    RampOnly ch s₀ (State.stopRamp s ch q) := by
  unfold State.stopRamp
  dsimp only
  repeat' first
    | with_reducible (first
      | exact h | assumption | apply RampOnly.markSilence | apply RampOnly.reply
      | apply RampOnly.haltRamp)
    | split

theorem RampOnly.resetRamp {s₀ s : State} {ch : Channel} (h : RampOnly ch s₀ s) (q : Request) :
    RampOnly ch s₀ (State.resetRamp s ch q) := by
  unfold State.resetRamp
  dsimp only
  repeat' first
    | with_reducible (first
      | exact h | assumption | apply RampOnly.markSilence | apply RampOnly.reply
      | apply RampOnly.refuse | apply RampOnly.setRamp | apply RampOnly.enterRamp)
    | split

theorem RampOnly.rampCommand {s₀ s : State} {ch : Channel} (h : RampOnly ch s₀ s) (verb : Byte)
    (q : Request) :
    RampOnly ch s₀ (State.rampCommand s ch verb q) := by
  unfold State.rampCommand
  repeat' first
    | with_reducible (first
      | exact h | assumption | apply RampOnly.moveRamp | apply RampOnly.stopRamp
      | apply RampOnly.jogRamp | apply RampOnly.resetRamp | apply RampOnly.markSilence
      | apply RampOnly.reply)
    | split

theorem RampOnly.estopRamp {s₀ s : State} {ch : Channel} (h : RampOnly ch s₀ s) :
    RampOnly ch s₀ (State.estopRamp s ch) := by
  unfold State.estopRamp
  dsimp only
  repeat' first
    | with_reducible (first
      | exact h | assumption | apply RampOnly.raiseFlag | apply RampOnly.setRamp
      | apply RampOnly.enterRamp)
    | split

theorem RampOnly.silenceRamp {s₀ s : State} {ch : Channel} (h : RampOnly ch s₀ s) :
    RampOnly ch s₀ (State.silenceRamp s ch) := by
  unfold State.silenceRamp
  repeat' first
    | with_reducible (first
      | exact h | assumption | apply RampOnly.setRamp | apply RampOnly.haltRamp)
    | split

end Sys2Proof.Machine
end

