-- ==== Sys2Proof/Laws/Tells.lean ====
section
/-! SUPPORT. Which frames the bridge console is told: a frame placed while there is room is told, and frames
placed after it take nothing away but a STATUS of their own key (R76). -/

namespace Sys2Proof.Machine

open Sys2Proof

theorem State.tells_of_bli {s t : State} (h : t.bli = s.bli) (f : Frame) (k : s.tells f) : t.tells f := by
  unfold State.tells at *
  rw [h]
  exact k

theorem Silent.tells {s t : State} (h : Silent s t) (f : Frame) (k : s.tells f) : t.tells f :=
  State.tells_of_bli h.1 f k

theorem State.kickBridge_tells (s : State) (f : Frame) (h : s.tells f) : s.kickBridge.tells f := by
  unfold State.kickBridge
  split
  · rename_i r rest htx hq
    rcases h with ⟨x, hx, rfl⟩ | ⟨x, hx, rfl⟩
    · rw [hq] at hx
      rcases List.mem_cons.mp hx with rfl | hx
      · exact .inr ⟨_, rfl, rfl⟩
      · exact .inl ⟨x, hx, rfl⟩
    · rw [htx] at hx; exact absurd hx (by simp)
  · exact h

theorem State.kickBridge_length (s : State) : s.kickBridge.bli.queue.length ≤ s.bli.queue.length := by
  unfold State.kickBridge
  split
  · rename_i r rest htx hq
    show rest.length ≤ _
    rw [hq]
    simp
  · exact Nat.le_refl _

theorem replaceKey_tells (r : BridgeRec) (q : List BridgeRec)
    (h : q.any (fun x => sameKey x.frame r.frame) = true) : r ∈ replaceKey r q := by
  induction q with
  | nil => simp at h
  | cons x q ih =>
    unfold replaceKey
    split
    · exact List.mem_cons_self
    · rename_i hx
      simp only [List.any_cons, hx, Bool.false_or] at h
      exact List.mem_cons_of_mem _ (ih h)

theorem replaceKey_keeps (r y : BridgeRec) (q : List BridgeRec) (h : y ∈ q)
    (hk : sameKey y.frame r.frame = false) : y ∈ replaceKey r q := by
  induction q with
  | nil => simp at h
  | cons x q ih =>
    unfold replaceKey
    split
    · rename_i hx
      rcases List.mem_cons.mp h with rfl | h
      · rw [hk] at hx; exact absurd hx (by simp)
      · exact List.mem_cons_of_mem _ h
    · rcases List.mem_cons.mp h with rfl | h
      · exact List.mem_cons_self
      · exact List.mem_cons_of_mem _ (ih h)

/-- A frame placed while the queue has room: what the queue holds (R76). -/
theorem State.placeRaw_room (s : State) (r : BridgeRec) (h : HasRoom s) :
    (s.placeRaw r).2 = .joined ∧ (s.placeRaw r).1.tells r.frame
      ∧ (s.placeRaw r).1.bli.queue.length ≤ s.bli.queue.length + 1
      ∧ ∀ f, sameKey f r.frame = false → s.tells f → (s.placeRaw r).1.tells f := by
  unfold State.placeRaw
  unfold HasRoom at h
  by_cases hk : s.bli.queue.any (fun x => sameKey x.frame r.frame) = true
  · rw [show enqueue s.bli.queue r = (replaceKey r s.bli.queue, Placed.joined) from if_pos hk]
    refine ⟨rfl, State.kickBridge_tells _ _ (.inl ⟨r, replaceKey_tells r _ hk, rfl⟩),
      Nat.le_trans (State.kickBridge_length _) ?_, fun f hf ht => State.kickBridge_tells _ _ ?_⟩
    · show (replaceKey r s.bli.queue).length ≤ _
      rw [replaceKey_length]
      omega
    · rcases ht with ⟨x, hx, rfl⟩ | ht
      · exact .inl ⟨x, replaceKey_keeps r x _ hx hf, rfl⟩
      · exact .inr ht
  · rw [enqueue_joins _ _ (by simpa using hk) h]
    refine ⟨rfl, State.kickBridge_tells _ _ (.inl ⟨r, by simp, rfl⟩),
      Nat.le_trans (State.kickBridge_length _) ?_, fun f hf ht => State.kickBridge_tells _ _ ?_⟩
    · show (s.bli.queue ++ [r]).length ≤ _
      simp
    · rcases ht with ⟨x, hx, rfl⟩ | ht
      · exact .inl ⟨x, by simp [hx], rfl⟩
      · exact .inr ht

theorem State.place_raw (s : State) (r : BridgeRec) (h : HasRoom s) : s.place r = (s.placeRaw r).1 := by
  have k := (s.placeRaw_room r h).1
  unfold State.place
  split <;> rename_i t e <;> rw [e] at k
  · rw [e]
  · exact absurd k (by simp)
  · exact absurd k (by simp)

/-- A placed frame is told, and the others stay told but a STATUS of its key (R76). -/
theorem State.place_tells (s : State) (r : BridgeRec) (h : HasRoom s) :
    (s.place r).tells r.frame ∧ (s.place r).bli.queue.length ≤ s.bli.queue.length + 1
      ∧ ∀ f, sameKey f r.frame = false → s.tells f → (s.place r).tells f := by
  rw [s.place_raw r h]
  exact (s.placeRaw_room r h).2

/-- A raised flag places nothing itself; its notice is owed (R189, log 48). -/
theorem State.raiseFlag_tells (s : State) (f : Flag) (x : Frame) (h : s.tells x) : (s.raiseFlag f).tells x :=
  State.tells_of_bli (s.raiseFlag_bli f) x h

/-- The notice owed is told, and no other frame is taken away but an earlier notice of object 31 (R189). -/
theorem State.announce_tells (s : State) (h : HasRoom s) :
    s.announce.tells (s.noticeFrame 31 (s.fc.summary.zeroExtend 8) [Machine.bit s.fc.alarm])
      ∧ ∀ f : Frame, (f.cls ≠ .status ∨ f.object ≠ 31) → s.tells f → s.announce.tells f := by
  have k := State.place_tells { s with fc := { s.fc with owed := false } }
    ⟨s.noticeFrame 31 (s.fc.summary.zeroExtend 8) [Machine.bit s.fc.alarm], false⟩ h
  refine ⟨k.1, fun f hf ht => k.2.2 f ?_ ht⟩
  rcases hf with hf | hf
  · have : (f.cls == FrameClass.status) = false := by simpa using hf
    simp [sameKey, this]
  · simp [sameKey, State.noticeFrame]
    exact fun _ _ => by simpa using hf

end Sys2Proof.Machine
end

