-- ==== Sys2Proof/Laws/Effects.lean ====
section
/-! SUPPORT. What the shared operations leave behind: replies, flags, the record of a ramp channel or a door
group after it enters a state, and the commands that answer without raising an event. -/

namespace Sys2Proof.Machine

open Sys2Proof

/-! ### Replies -/

theorem State.queued_calm (s : State) (f : Frame) : Calm s (s.queued f) := by
  have h : Calm s { s with bli := { s.bli with queue := s.bli.queue ++ [⟨f, false⟩] } } :=
    Calm.ofBli s _ rfl rfl
  exact h.trans (State.kickBridge_calm _)

theorem State.kickBridge_agenda (s : State) : s.kickBridge.agenda = s.agenda := by
  unfold State.kickBridge; split <;> rfl

theorem State.queued_agenda (s : State) (f : Frame) : (s.queued f).agenda = s.agenda :=
  State.kickBridge_agenda _

theorem State.queued_img (s : State) (f : Frame) : (s.queued f).img = s.img := State.kickBridge_img _

theorem State.queued_fc (s : State) (f : Frame) : (s.queued f).fc = s.fc := State.kickBridge_fc _

/-- A REPLY placed while there is room is queued (R76). -/
theorem State.reply_replied (s : State) (q : Request) (object : Byte) (code : Result)
    (payload : List Byte) (h : HasRoom s) :
    s.reply q.source object code payload = s.replied q object code payload :=
  s.reply_queued _ _ _ _ h

theorem State.refuse_refused (s : State) (q : Request) (object : Byte) (r : Reason) (h : HasRoom s) :
    s.refuse q.source object r = s.refusedWith q object r := s.reply_queued _ _ _ _ h

/-- A request whose own effect raises no event: the effect is the next state. -/
theorem State.actRequest_exact (s t : State) (f : State → State) (h : Settled s) (hf : f s = t)
    (ha : t.agenda = s.agenda) (ho : t.fc.owed = s.fc.owed) (hc : t.dls = s.dls) :
    s.actRequest f = .next t := by
  obtain ⟨h1, h2, h3, h4, h5⟩ := h
  subst hf
  exact s.actRequest_quiet f h1 h5 (ha.trans h2) (ho.trans h3) (by rw [hc]; exact h4)

/-- A command whose own effect raises no event: the effect is the next state. -/
theorem State.act_exact (s t : State) (f : State → State) (h : Settled s) (hf : f s = t)
    (ha : t.agenda = s.agenda) (ho : t.fc.owed = s.fc.owed) (hc : t.dls.choose = s.dls.choose) :
    s.act f = .next t := by
  obtain ⟨h1, h2, h3, h4, _⟩ := h
  subst hf
  exact s.act_quiet f h1 (ha.trans h2) (ho.trans h3) (hc.trans h4)

/-- A request that is answered and has no other effect. -/
theorem State.actRequest_replied (s : State) (f : State → State) (q : Request) (object : Byte)
    (code : Result) (payload : List Byte) (h : Settled s) (hr : HasRoom s)
    (hf : f s = s.reply q.source object code payload) :
    s.actRequest f = .next (s.replied q object code payload) :=
  s.actRequest_exact _ f h (hf.trans (s.reply_replied q object code payload hr))
    (s.queued_agenda _) (congrArg Fc.owed (s.queued_fc _)) (s.queued_calm _).dls

/-! ### Flags -/

/-- Raising a flag sets it and no other, and clears none (R184). -/
theorem State.raiseFlag_flags (s : State) (f : Flag) : (s.raiseFlag f).fc.flags = s.fc.flags ||| f.bit := by
  rw [State.raiseFlag, State.reform_flags]
  rfl

theorem State.raiseFlag_has (s : State) (f : Flag) : (s.raiseFlag f).hasFlag f := by
  unfold State.hasFlag
  rw [s.raiseFlag_flags f, Flag.bit_or]

theorem or_keeps (x y g : BitVec 35) (h : x ||| g = x) : (x ||| y) ||| g = x ||| y := by
  rw [BitVec.or_assoc, BitVec.or_comm y g, ← BitVec.or_assoc, h]

theorem State.raiseFlag_keeps_flag (s : State) (f g : Flag) (h : s.hasFlag g) :
    (s.raiseFlag f).hasFlag g := by
  unfold State.hasFlag at *
  rw [s.raiseFlag_flags f]
  exact or_keeps _ _ _ h

theorem State.raiseFlag_ramp (s : State) (f : Flag) (ch : Channel) :
    (s.raiseFlag f).ramp ch = s.ramp ch := ((CallsOnly.refl s).raiseFlag f).ramp ch

/-! ### Records after entering a state -/

/-- The record of a group that has entered a state (R128). -/
theorem State.enterGroup_record (s : State) (g : Fin 4) (st : GroupState) (breach : Byte) :
    (s.enterGroup g st breach).group g = (s.group g).enter st := by
  unfold State.enterGroup
  extract_lets old s1 s2 r
  rw [((CallsOnly.refl s2).notice _ _ _).group]
  show (s1.writeLocal (groupEntry g) st.code).groups.at g = _
  rw [(s1.writeLocal_calm _ _).groups]
  exact State.group_setGroup_self _ _ _

theorem State.group_placeEntry (s : State) (e : Fin 16) (c : Call) (g : Fin 4) :
    (s.placeEntry e c).group g = s.group g := ((CallsOnly.refl s).placeEntry e c).group g

theorem State.group_removeEntry (s : State) (e : Fin 16) (g : Fin 4) :
    (s.removeEntry e).group g = s.group g := ((CallsOnly.refl s).removeEntry e).group g

/-- A write to a local entry publishes the value, and raises an event at most (R20). -/
theorem State.writeLocal_published (s : State) (i : Fin 32) (v : Byte) :
    CallsOnly (s.published i v) (s.writeLocal i v) := by
  have k := s.writeLocal_calm i v
  have g := Grows.ofCalm k
  refine ⟨⟨g.line, g.tx, g.alternation, g.urgent, g.normal, g.recs, g.patterns, g.flags, g.agenda⟩,
    k.pending, k.now, k.straps, k.node, k.pins, k.dcc, k.held, k.ramps, k.estop, k.groups,
    k.ts, k.settings, k.remotes, k.defs, k.pointer, k.pass, k.silence, k.restarting, k.masks,
    k.summaryMasks, k.test, k.last, fun j _ => ?_⟩
  rw [State.writeLocal_locals]
  rfl

/-- A change of the deck condition: the condition and entry 0, and a notice (R43). -/
theorem State.changeDeck_only (s : State) (d : DeckCondition) (c : DeckCause) :
    CallsOnly (({ s with dcc := { s.dcc with deck := d } } : State).published 0 d.code)
      (s.changeDeck d c) := by
  unfold State.changeDeck
  extract_lets old src s1
  exact CallsOnly.notice (State.writeLocal_published s1 0 d.code) _ _ _

theorem State.writeLocal_bli (s : State) (i : Fin 32) (v : Byte) : (s.writeLocal i v).bli = s.bli := by
  unfold State.writeLocal
  split <;> rfl

theorem State.writeLocal_fc (s : State) (i : Fin 32) (v : Byte) : (s.writeLocal i v).fc = s.fc := by
  unfold State.writeLocal
  split <;> rfl

theorem State.changeDeck_dls (s : State) (d : DeckCondition) (c : DeckCause) :
    (s.changeDeck d c).dls = s.dls := by
  unfold State.changeDeck
  extract_lets old src u
  rw [(State.notice_calm _ _ _ _).dls, (u.writeLocal_calm _ _).dls]

theorem State.changeDeck_cl (s : State) (d : DeckCondition) (c : DeckCause) :
    (s.changeDeck d c).cl = s.cl := by
  unfold State.changeDeck
  extract_lets old src u
  rw [(State.notice_calm _ _ _ _).cl, (u.writeLocal_calm _ _).cl]

/-- The notice of a change of the deck condition (R43). -/
theorem State.changeDeck_tells (s : State) (d : DeckCondition) (c : DeckCause) (h : HasRoom s) :
    (s.changeDeck d c).tells (s.noticeFrame 0 d.code [s.dcc.deck.code, c.code])
      ∧ (s.changeDeck d c).bli.queue.length ≤ s.bli.queue.length + 1
      ∧ ∀ f : Frame, f.cls = .reply → s.tells f → (s.changeDeck d c).tells f := by
  unfold State.changeDeck
  extract_lets old src u
  have hb : (u.writeLocal 0 d.code).bli = s.bli := u.writeLocal_bli _ _
  have hn : (u.writeLocal 0 d.code).node = s.node := (u.writeLocal_calm _ _).node
  have k := (u.writeLocal 0 d.code).place_tells
    ⟨(u.writeLocal 0 d.code).noticeFrame 0 d.code [old.code, c.code], false⟩
    (by unfold HasRoom; rw [hb]; exact h)
  refine ⟨?_, by rw [← hb]; exact k.2.1, fun f hf ht => k.2.2 f ?_ (State.tells_of_bli hb f ht)⟩
  · have : s.noticeFrame 0 d.code [s.dcc.deck.code, c.code]
        = (u.writeLocal 0 d.code).noticeFrame 0 d.code [old.code, c.code] := by
      unfold State.noticeFrame
      rw [hn]
    rw [this]
    exact k.1
  · simp [sameKey, hf]

/-- A REPLY queued while there is room is told (R76). -/
theorem State.replied_tells (s : State) (q : Request) (o : Byte) (c : Result) (p : List Byte)
    (h : HasRoom s) :
    (s.replied q o c p).tells (s.replyFrame q.source o c p)
      ∧ (s.replied q o c p).bli.queue.length ≤ s.bli.queue.length + 1 := by
  have k := s.place_tells ⟨s.replyFrame q.source o c p, false⟩ h
  rw [show s.place ⟨s.replyFrame q.source o c p, false⟩ = s.replied q o c p from
    s.reply_replied q o c p h] at k
  exact ⟨k.1, k.2.1⟩

/-- No flag is cleared by placing a frame (R187 alone clears). -/
theorem State.place_keeps_flag (s : State) (r : BridgeRec) (f : Flag) (h : s.hasFlag f) :
    (s.place r).hasFlag f := by
  have e : (s.placeRaw r).1.fc = s.fc := s.placeRaw_fc r
  have k : (s.placeRaw r).1.hasFlag f := by
    unfold State.hasFlag
    rw [e]
    exact h
  unfold State.place
  split <;> rename_i t heq <;> rw [heq] at k
  · exact k
  · exact State.raiseFlag_keeps_flag _ _ _ k
  · dsimp only
    have k' := State.raiseFlag_keeps_flag t .bridgeQueueOverrun f k
    split
    · unfold State.hasFlag at *
      rw [State.push_fc]
      exact k'
    · exact k'

/-! ### A channel that enters a state -/

/-- An aborted proof test can set two counts of a channel's record to 0 and changes nothing else of it
(R192, R195). -/
theorem State.abortTestOn_record (s : State) (ch : Channel) :
    ∃ o v, (o = (s.ramp ch).overspeed ∨ o = 0) ∧ (v = (s.ramp ch).overload ∨ v = 0)
      ∧ (s.abortTestOn ch).ramp ch = { s.ramp ch with overspeed := o, overload := v } := by
  unfold State.abortTestOn
  split
  · unfold State.endTest
    split
    · exact ⟨_, _, .inl rfl, .inl rfl, rfl⟩
    · rename_i t _
      have hc : ∀ (u : State) o v p, (u.notice o v p).ramp ch = u.ramp ch := by
        intro u o v p
        unfold State.ramp
        rw [(u.notice_calm o v p).ramps]
      dsimp only
      rw [hc]
      show ∃ o v, _ ∧ _ ∧ (s.zeroTestCount t.id).ramp ch = _
      unfold State.zeroTestCount
      split
      · rename_i c _
        cases c <;> cases ch <;>
          first | exact ⟨_, _, .inl rfl, .inl rfl, rfl⟩ | exact ⟨0, _, .inr rfl, .inl rfl, rfl⟩
      · rename_i c _
        cases c <;> cases ch <;>
          first | exact ⟨_, _, .inl rfl, .inl rfl, rfl⟩ | exact ⟨_, 0, .inl rfl, .inr rfl, rfl⟩
      · exact ⟨_, _, .inl rfl, .inl rfl, rfl⟩
      · exact ⟨_, _, .inl rfl, .inl rfl, rfl⟩
  · exact ⟨_, _, .inl rfl, .inl rfl, rfl⟩

/-- A channel without a proof test has none to abort. -/
theorem State.abortTestOn_none (s : State) (ch : Channel) (h : s.testingOn ch = false) :
    s.abortTestOn ch = s := by
  unfold State.abortTestOn
  rw [h]
  rfl

/-- The record of a channel that has entered a state, but for the counts an aborted proof test sets. -/
theorem State.enterRamp_record (s : State) (ch : Channel) (st : RampState) :
    ∃ o v, (o = (s.ramp ch).overspeed ∨ o = 0) ∧ (v = (s.ramp ch).overload ∨ v = 0)
      ∧ (s.enterRamp ch st).ramp ch = { (s.ramp ch).enter st with overspeed := o, overload := v } := by
  unfold State.enterRamp
  extract_lets s1 s2 s3 s4
  have h1 : s1.ramp ch = (s.ramp ch).enter st := by simp [s1]
  have h2 : s2.ramp ch = (s.ramp ch).enter st := by
    rw [← h1]; simp only [s2]; rw [State.writeLocal_ramp]
  have h3 : ∃ o v, (o = (s.ramp ch).overspeed ∨ o = 0) ∧ (v = (s.ramp ch).overload ∨ v = 0)
      ∧ s3.ramp ch = { (s.ramp ch).enter st with overspeed := o, overload := v } := by
    simp only [s3]; split
    · rw [h2]; exact ⟨_, _, .inl rfl, .inl rfl, rfl⟩
    · obtain ⟨o, v, ho, hv, e⟩ := s2.abortTestOn_record ch
      rw [h2] at ho hv e
      exact ⟨o, v, ho, hv, e⟩
  have h4 : s4.ramp ch = s3.ramp ch := by
    simp only [s4]
    split
    · rw [((CallsOnly.refl _).removeEntry _).ramp]
    · split
      · rw [((CallsOnly.refl _).placeEntry _ _).ramp]
      · rfl
  rw [((CallsOnly.refl s4).formBeacons).ramp, h4]; exact h3

/-- Entering a state with no proof test on the channel: the record is exactly the entered one, and no
frame and no flag comes of it. -/
theorem State.enterRamp_quiet (s : State) (ch : Channel) (st : RampState) (h : s.testingOn ch = false) :
    (s.enterRamp ch st).ramp ch = (s.ramp ch).enter st ∧ Silent s (s.enterRamp ch st) := by
  unfold State.enterRamp
  extract_lets s1 s2 s3 s4
  have e2 : s2.fc = s.fc := State.writeLocal_fc _ _ _
  have b2 : s2.bli = s.bli := State.writeLocal_bli _ _ _
  have e3 : s3 = s2 := by
    simp only [s3]; split
    · rfl
    · exact s2.abortTestOn_none ch (by unfold State.testingOn at *; rw [e2]; exact h)
  have h2 : s2.ramp ch = (s.ramp ch).enter st := by
    have : s1.ramp ch = (s.ramp ch).enter st := by simp [s1]
    rw [← this]; simp only [s2]; rw [State.writeLocal_ramp]
  have h4 : s4.ramp ch = s3.ramp ch ∧ Silent s3 s4 := by
    simp only [s4]
    split
    · exact ⟨by rw [((CallsOnly.refl _).removeEntry _).ramp], (Silent.refl _).removeEntry _⟩
    · split
      · exact ⟨by rw [((CallsOnly.refl _).placeEntry _ _).ramp], (Silent.refl _).placeEntry _ _⟩
      · exact ⟨rfl, Silent.refl _⟩
  refine ⟨by rw [((CallsOnly.refl s4).formBeacons).ramp, h4.1, e3, h2], ?_⟩
  rw [e3] at h4
  exact (Silent.trans ⟨b2, e2⟩ h4.2).formBeacons

/-- Entering a state publishes it and moves neither the clock nor the pins (R80). -/
theorem State.enterRamp_published (s : State) (ch : Channel) (st : RampState) :
    (s.enterRamp ch st).img.locals.at ch.stateEntry = st.code ∧ (s.enterRamp ch st).now = s.now
      ∧ (s.enterRamp ch st).pins = s.pins := by
  unfold State.enterRamp
  extract_lets s1 s2 s3 s4
  have h2 : s2.img.locals.at ch.stateEntry = st.code ∧ s2.now = s.now ∧ s2.pins = s.pins := by
    refine ⟨?_, (s1.writeLocal_calm _ _).now, (s1.writeLocal_calm _ _).pins⟩
    simp only [s2]
    rw [State.writeLocal_locals]
    exact Tab.at_put_self _ _ _
  have h3 : s3.img.locals.at ch.stateEntry = st.code ∧ s3.now = s.now ∧ s3.pins = s.pins := by
    simp only [s3]
    split
    · exact h2
    · unfold State.abortTestOn
      split
      · unfold State.endTest
        split
        · exact h2
        · rename_i t _
          dsimp only
          have hz : ∀ u : State, (u.zeroTestCount t.id).img = u.img ∧ (u.zeroTestCount t.id).now = u.now
              ∧ (u.zeroTestCount t.id).pins = u.pins := by
            intro u
            unfold State.zeroTestCount
            split <;> exact ⟨rfl, rfl, rfl⟩
          obtain ⟨z1, z2, z3⟩ := hz s2
          refine ⟨?_, (State.notice_calm _ _ _ _).now.trans (z2.trans h2.2.1),
            (State.notice_calm _ _ _ _).pins.trans (z3.trans h2.2.2)⟩
          unfold State.notice
          rw [State.place_locals _ _ _ (by cases ch <;> decide)]
          show (s2.zeroTestCount t.id).img.locals.at _ = _
          rw [z1]
          exact h2.1
      · exact h2
  have k4 : CallsOnly s3 s4 := by
    simp only [s4]
    split
    · exact (CallsOnly.refl _).removeEntry _
    · split
      · exact (CallsOnly.refl _).placeEntry _ _
      · exact CallsOnly.refl _
  have k := k4.formBeacons
  exact ⟨(k.locals _ (.inl (by cases ch <;> decide))).trans h3.1, k.now.trans h3.2.1, k.pins.trans h3.2.2⟩

/-- The call that announces a channel: listed in STARTING and JOG, absent in the rest states (R81). -/
theorem State.enterRamp_call (s : State) (ch : Channel) (st : RampState) :
    (st.isRest = true → (s.enterRamp ch st).cl.calls.at ch.callEntry = none)
      ∧ ((st = .starting ∨ st = .jog) →
        ∃ x, (s.enterRamp ch st).cl.calls.at ch.callEntry = some x
          ∧ x.key = (.ramp ch, (s.ramp ch).params.zones, (s.ramp ch).params.message, .safety, 0,
              (s.ramp ch).params.pattern)) := by
  unfold State.enterRamp
  extract_lets s1 s2 s3 s4
  constructor
  · intro h
    refine (Kept.formBeacons (Kept.refl _ s4)).1 ?_
    simp only [s4, if_pos h]
    exact State.removeEntry_absent _ _
  · intro h
    have hr : ¬ st.isRest = true := by rcases h with rfl | rfl <;> decide
    have hp : (s3.ramp ch).params = (s.ramp ch).params := by
      have e1 : (s1.ramp ch).params = (s.ramp ch).params := by simp [s1, Ramp.enter]
      have e2 : (s2.ramp ch).params = (s.ramp ch).params := by
        simp only [s2]; rw [State.writeLocal_ramp]; exact e1
      simp only [s3]
      split
      · exact e2
      · obtain ⟨o, v, _, _, e⟩ := s2.abortTestOn_record ch
        rw [e]
        exact e2
    have hs4 : s4 = s3.placeEntry ch.callEntry (s3.rampCall ch) := by
      simp only [s4, if_neg hr, if_pos h]
    obtain ⟨x, hx, hk⟩ := s3.placeEntry_listed ch.callEntry (s3.rampCall ch) rfl
    rw [← hs4] at hx
    obtain ⟨y, hy, ky⟩ := (Kept.formBeacons (Kept.refl _ s4)).2 x hx ((Call.key_reps hk).trans rfl)
    refine ⟨y, hy, ky.trans (hk.trans ?_)⟩
    unfold State.rampCall State.newCall Call.key
    dsimp only
    rw [hp]

/-- No flag is cleared by entering a state. -/
theorem State.enterRamp_keeps_flag (s : State) (ch : Channel) (st : RampState) (f : Flag)
    (h : s.hasFlag f) : (s.enterRamp ch st).hasFlag f := by
  unfold State.enterRamp
  extract_lets s1 s2 s3 s4
  have h2 : s2.hasFlag f := by
    unfold State.hasFlag
    rw [show s2.fc = s.fc from State.writeLocal_fc _ _ _]
    exact h
  have h3 : s3.hasFlag f := by
    simp only [s3]
    split
    · exact h2
    · unfold State.abortTestOn
      split
      · unfold State.endTest
        split
        · exact h2
        · rename_i t _
          dsimp only
          refine State.place_keeps_flag _ _ _ ?_
          have hz : ∀ u : State, (u.zeroTestCount t.id).fc = u.fc := by
            intro u
            unfold State.zeroTestCount
            split <;> rfl
          show (s2.zeroTestCount t.id).fc.flags ||| _ = (s2.zeroTestCount t.id).fc.flags
          rw [hz]
          exact h2
      · exact h2
  have k4 : Silent s3 s4 := by
    simp only [s4]
    split
    · exact (Silent.refl _).removeEntry _
    · split
      · exact (Silent.refl _).placeEntry _ _
      · exact Silent.refl _
  unfold State.hasFlag
  rw [(k4.formBeacons).2]
  exact h3

end Sys2Proof.Machine
end

