-- ==== Sys2Proof/Laws/PerInstr.lean ====
section
/-! SUPPORT. Statements made for every command, one lemma for each constructor. -/

namespace Sys2Proof.Laws.Wf

open Sys2Proof

/-- A command is well formed exactly when the request it carries, if it carries one, comes from a node
0..62 in a payload of at most 12 bytes (R1, R7). -/
def Statement (i : Instr) : Prop :=
  i.wf = true ↔ ∀ q, i.request? = some q → q.source ≠ 63 ∧ q.payload.length ≤ 12

theorem carries (i : Instr) (q : Request) (h : i.request? = some q) : Statement i := by
  unfold Statement Instr.wf
  rw [h]
  simp [Request.wf]

theorem carriesNone (i : Instr) (h : i.request? = none) : Statement i := by
  unfold Statement Instr.wf
  rw [h]
  simp

theorem fullReset (straps : BitVec 6) : Statement (.fullReset straps) :=
  carriesNone _ rfl

theorem bridgeFrameEnd (chars : List RxChar) : Statement (.bridgeFrameEnd chars) :=
  carriesNone _ rfl

theorem bridgeFrameSent : Statement (.bridgeFrameSent) :=
  carriesNone _ rfl

theorem bridgeSilenceExpiry : Statement (.bridgeSilenceExpiry) :=
  carriesNone _ rfl

theorem load (q : Request) : Statement (.load q) :=
  carries _ q rfl

theorem commit (q : Request) : Statement (.commit q) :=
  carries _ q rfl

theorem abort (q : Request) : Statement (.abort q) :=
  carries _ q rfl

theorem readTable (q : Request) : Statement (.readTable q) :=
  carries _ q rfl

theorem readImage (q : Request) : Statement (.readImage q) :=
  carries _ q rfl

theorem readState (q : Request) : Statement (.readState q) :=
  carries _ q rfl

theorem readFlags (q : Request) : Statement (.readFlags q) :=
  carries _ q rfl

theorem clearFlags (q : Request) : Statement (.clearFlags q) :=
  carries _ q rfl

theorem proofTest (q : Request) : Statement (.proofTest q) :=
  carries _ q rfl

theorem restart (q : Request) : Statement (.restart q) :=
  carries _ q rfl

theorem identify (q : Request) : Statement (.identify q) :=
  carries _ q rfl

theorem restartTakesEffect : Statement (.restartTakesEffect) :=
  carriesNone _ rfl

theorem setCondition (q : Request) : Statement (.setCondition q) :=
  carries _ q rfl

theorem acceptIncomplete (q : Request) : Statement (.acceptIncomplete q) :=
  carries _ q rfl

theorem recover (q : Request) : Statement (.recover q) :=
  carries _ q rfl

theorem fireAlarmAccepted (active : Bool) : Statement (.fireAlarmAccepted active) :=
  carriesNone _ rfl

theorem heldRecordExpiry : Statement (.heldRecordExpiry) :=
  carriesNone _ rfl

theorem deckFrameSent : Statement (.deckFrameSent) :=
  carriesNone _ rfl

theorem replyWindowExpiry : Statement (.replyWindowExpiry) :=
  carriesNone _ rfl

theorem settlingEnd : Statement (.settlingEnd) :=
  carriesNone _ rfl

theorem deckFrameEnd (chars : List RxChar) : Statement (.deckFrameEnd chars) :=
  carriesNone _ rfl

theorem freshnessExpiry (d : Fin 96) : Statement (.freshnessExpiry d) :=
  carriesNone _ rfl

theorem lower (ch : Channel) (q : Request) : Statement (.lower ch q) :=
  carries _ q rfl

theorem raise (ch : Channel) (q : Request) : Statement (.raise ch q) :=
  carries _ q rfl

theorem rampStop (ch : Channel) (q : Request) : Statement (.rampStop ch q) :=
  carries _ q rfl

theorem jog (ch : Channel) (q : Request) : Statement (.jog ch q) :=
  carries _ q rfl

theorem resetFault (ch : Channel) (q : Request) : Statement (.resetFault ch q) :=
  carries _ q rfl

theorem rampSwitchAccepted (ch : Channel) (sw : Switch) (active : Bool) : Statement (.rampSwitchAccepted ch sw active) :=
  carriesNone _ rfl

theorem estopAccepted (active : Bool) : Statement (.estopAccepted active) :=
  carriesNone _ rfl

theorem pinTimerExpiry (ch : Channel) : Statement (.pinTimerExpiry ch) :=
  carriesNone _ rfl

theorem rampWarningExpiry (ch : Channel) : Statement (.rampWarningExpiry ch) :=
  carriesNone _ rfl

theorem deadManExpiry (ch : Channel) : Statement (.deadManExpiry ch) :=
  carriesNone _ rfl

theorem periodEnd (ch : Channel) : Statement (.periodEnd ch) :=
  carriesNone _ rfl

theorem encoderTransition (ch : Channel) (levelA levelB : Bool) : Statement (.encoderTransition ch levelA levelB) :=
  carriesNone _ rfl

theorem recentTimerExpiry (ch : Channel) : Statement (.recentTimerExpiry ch) :=
  carriesNone _ rfl

theorem pwmPeriodStart (ch : Channel) : Statement (.pwmPeriodStart ch) :=
  carriesNone _ rfl

theorem pwmCentre (ch : Channel) : Statement (.pwmCentre ch) :=
  carriesNone _ rfl

theorem pressureConversionDone (ch : Channel) (sample : BitVec 12) : Statement (.pressureConversionDone ch sample) :=
  carriesNone _ rfl

theorem close (g : Fin 4) (q : Request) : Statement (.close g q) :=
  carries _ q rfl

theorem openDoors (g : Fin 4) (q : Request) : Statement (.openDoors g q) :=
  carries _ q rfl

theorem groupStop (g : Fin 4) (q : Request) : Statement (.groupStop g q) :=
  carries _ q rfl

theorem groupWarningExpiry (g : Fin 4) : Statement (.groupWarningExpiry g) :=
  carriesNone _ rfl

theorem spacingExpiry (g : Fin 4) : Statement (.spacingExpiry g) :=
  carriesNone _ rfl

theorem travelExpiry (g : Fin 4) (k : Fin 8) : Statement (.travelExpiry g k) :=
  carriesNone _ rfl

theorem retryExpiry (g : Fin 4) (k : Fin 8) : Statement (.retryExpiry g k) :=
  carriesNone _ rfl

theorem place (q : Request) : Statement (.place q) :=
  carries _ q rfl

theorem cancel (q : Request) : Statement (.cancel q) :=
  carries _ q rfl

theorem waitTimerExpiry (e : Fin 16) : Statement (.waitTimerExpiry e) :=
  carriesNone _ rfl

theorem beaconStepExpiry (b : Fin 8) : Statement (.beaconStepExpiry b) :=
  carriesNone _ rfl

theorem commitExpiry : Statement (.commitExpiry) :=
  carriesNone _ rfl

theorem copyComplete : Statement (.copyComplete) :=
  carriesNone _ rfl

theorem scrubSlotEnd : Statement (.scrubSlotEnd) :=
  carriesNone _ rfl

theorem deckLineStartBit : Statement (.deckLineStartBit) :=
  carriesNone _ rfl

end Sys2Proof.Laws.Wf
end

