-- ==== Sys2Proof/Tests/Slice0.lean ====
section
/-! SUPPORT. The model's own tests: ill-formed commands, one or two steps of each command on a small
state, and for each statement with hypotheses a state that meets them. -/

namespace Sys2Proof.Tests

set_option Elab.async false

open Sys2Proof Sys2Proof.Machine

/-! ### Helpers -/

/-- The next state of a command; no command stops. -/
def after (c : Instr) (s : State) : State :=
  match exec c s with
  | .next t => t
  | .fault _ => s
  | .refused _ => s

/-- A request from node 5. -/
def ask (p : List Byte) : Request := { source := 5, payload := p }

/-- Object, verb and payload of the frames the part has for the bridge, in transmission or queued. -/
def told (s : State) : List (Byte × Byte × List Byte) :=
  ((s.bli.tx.map (·.frame)).toList ++ s.bli.queue.map (·.frame)).map fun f => (f.object, f.verb, f.payload)

/-- A frame from node 5. -/
def sent (dest : NodeNo) (cls : FrameClass) (object verb : Byte) (p : List Byte := []) : Frame :=
  { dest := dest, urgent := false, src := 5, cls := cls, object := object, verb := verb, payload := p }

/-- Its characters on a line. -/
def onLine (f : Frame) : List RxChar := f.bytes.map charOf

/-- Full reset with channel A's record changed. -/
def ramped (f : Ramp → Ramp) : State := State.reset.setRamp .a (f Ramp.reset)

/-- Full reset with channel A in a state that local entry 1 shows. -/
def rampIn (x : RampState) : State :=
  (ramped fun r => { r with state := x }).published 1 x.code

/-- A group of one door, remote entry 0. -/
def oneDoor : GroupDef := { GroupDef.reset with doors := [0], tTravel := 10, tSpace := 1, tRetry := 2, tWarn := 3 }

/-- Remote entry 0 is a door at node 3, object 4, and group 0 closes it. -/
def doored (x : GroupState) : State :=
  let s := State.reset.setGroup 0 { Group.reset with state := x, defn := oneDoor }
  ({ s with img := { s.img with
    defs := s.img.defs.put 0 { kind := .door, nodeByte := 3, object := 4, poll := .fast, limit := 100 } } }).published
      5 x.code

/-- Group 0 with its first step commanded under a timer. -/
def moving (x : GroupState) (travel retry : Timer) : State :=
  let s := doored x
  s.setStep 0 0 { Step.reset with state := .commanded, travel := travel, retry := retry }

/-- Full reset in a deck condition. -/
def deckIn (d : DeckCondition) : State :=
  ({ State.reset with dcc := { State.reset.dcc with deck := d } }).published 0 d.code

/-- Full reset with a section's ACTIVE copy VALID and holding some bytes. -/
def loaded (i : Fin 8) (m : Memory) : State :=
  State.reset.setSec i { Sec.reset with active := m, status := .valid }

/-- PASSAGE with one entry of an action code, for every frame in either direction. -/
def passing (action : Byte) (cond : Byte := 0) : State :=
  loaded 2 ([(2, action ||| 0x20), (3, 7), (5, 63), (7, 255), (9, 255)]
    ++ if cond = 0 then [] else [(10, cond)])

/-- A deck line on which a frame was sent as a transaction, its reply window open until tick 100. -/
def windowed (x : Transaction) : State :=
  { State.reset with dls := { State.reset.dls with line := .window 100, tx := some x } }

/-- A COMMAND forwarded for node 5 and waiting for its reply. -/
def fromBridge : Transaction :=
  { kind := .command, node := 7, object := 4, origin := .owner (.bridge 5), discard := false }

/-- Full reset with SETTINGS that would be consistent in the STANDBY copy. -/
def ready : State :=
  State.reset.setSec 7 { Sec.reset with standby := [(8, 5), (12, 1)], standbyValid := true }

/-- A COMMIT of SETTINGS with the code of its STANDBY copy. -/
def commitReady : Request :=
  let c := (ready.standbyCode 128).toNat
  ask [128, BitVec.ofNat 8 (c / 256), BitVec.ofNat 8 c]

/-- A general call of the bridge. -/
def aCall (src : NodeNo) (p : Priority) : Call :=
  { origin := .bridge src, zones := 1, message := 9, priority := p, reps := 0, pattern := 0,
    ready := some 0, wait := none, marks := .fill 12 .none }

/-- A state between two commands, checked. -/
theorem between (s : State)
    (h : (s.node != 63 && s.agenda == [] && !s.fc.owed && !s.dls.choose && !s.bli.restarting
      && decide (s.bli.queue.length < 32)) = true) : Settled s ∧ HasRoom s := by
  simp only [Bool.and_eq_true, bne_iff_ne, ne_eq, beq_iff_eq, Bool.not_eq_true', decide_eq_true_eq] at h
  exact ⟨⟨h.1.1.1.1.1, h.1.1.1.1.2, h.1.1.1.2, h.1.1.2, h.1.2⟩, h.2⟩

/-! ### Well-formedness -/

theorem test_wf_refuses_source_63 : (Instr.identify { source := 63, payload := [] }).wf = false := by decide
theorem test_wf_refuses_13_bytes : (Instr.load (ask (List.replicate 13 0))).wf = false := by decide
theorem test_wf_takes_12_bytes : (Instr.load { source := 62, payload := List.replicate 12 0 }).wf = true := by
  decide

/-! ### Frames -/

theorem test_check_code : checkCode [49, 50, 51, 52, 53, 54, 55, 56, 57] = 44775 := by decide +kernel

theorem test_frame_bytes : (sent 7 .command 1 2 [3]).body = [7, 5, 0x41, 1, 2, 3] := by decide +kernel

theorem test_parity_error : receive ((onLine (sent 0 .manage 11 0)).map fun c => { c with parity := !c.parity })
    = none := by decide +kernel

/-! ### The commands -/

theorem test_fullReset : after (.fullReset 9) (rampIn .fault)
    = { State.reset with straps := 9, node := 9 } := by decide +kernel

theorem test_bridgeFrameEnd : told (after (.bridgeFrameEnd (onLine (sent 0 .manage 11 0))) State.reset)
    = [(11, 0, [16, 184, 1, 0])] := by decide +kernel

theorem test_bridgeFrameEnd_bad : (after (.bridgeFrameEnd []) State.reset).fc.flags = 0x100000001 := by
  decide +kernel

theorem test_bridgeFrameSent :
    (after .bridgeFrameSent (after (.identify (ask [])) State.reset)).bli.tx = none := by decide +kernel

theorem test_bridgeSilenceExpiry :
    (after .bridgeSilenceExpiry { State.reset with bli := { State.reset.bli with silence := .running 8 } }).bli.silence
      = .expired := by decide +kernel

theorem test_load : ((after (.load (ask [3, 0, 1, 7, 0, 8])) State.reset).sec 3).standby = [(1, 7), (3, 8)] := by
  decide +kernel

theorem test_commit_bad_code : told (after (.commit (ask [128, 0, 0])) ready) = [(2, 9, [])] := by
  decide +kernel

theorem test_commit :
    let t := after (.commit commitReady) ready
    told t = [(2, 1, []), (30, 1, [128])] ∧ (t.sec 7).status = .valid ∧ t.ts.copy = some ⟨128, 0⟩
      ∧ t.settings.tWarnwait = 5 := by decide +kernel

theorem test_abort : told (after (.abort (ask []))
      { State.reset with ts := { State.reset.ts with commit := some ⟨2, 9⟩ } })
    = [(3, 0, []), (30, 3, [2])] := by decide +kernel

theorem test_readTable : told (after (.readTable (ask [0, 3, 0, 1, 3])) (loaded 3 [(1, 7), (3, 8)]))
    = [(4, 0, [7, 0, 8])] := by decide +kernel

theorem test_readImage : told (after (.readImage (ask [11])) State.reset)
    = [(5, 0, [64, 168, 0, 0, 0, 0, 0, 0, 0, 0, 0, 0])] := by decide +kernel

theorem test_readState : told (after (.readState (ask [0, 0])) (deckIn .sea)) = [(6, 0, [3, 0, 0])] := by
  decide +kernel

theorem test_readFlags : told (after (.readFlags (ask [])) State.reset) = [(7, 0, [0, 0, 0, 0, 1, 64, 144, 0, 0, 0])] := by
  decide +kernel

theorem test_clearFlags_condition_stays :
    told (after (.clearFlags (ask [255, 255, 255, 255, 7])) State.reset) = [(8, 0, [0, 0, 0, 0, 1])] := by
  decide +kernel

theorem test_proofTest :
    let t := after (.proofTest (ask [7, 2])) State.reset
    told t = [(9, 1, [])] ∧ t.ts.testArea.take 3 = [85, 170, 85] := by decide +kernel

theorem test_restart :
    let t := after (.restart (ask [])) State.reset
    told t = [(10, 0, [])] ∧ t.bli.restarting = true := by decide +kernel

theorem test_identify_while_restarting :
    told (after (.identify (ask [])) (after (.restart (ask [])) State.reset)) = [(10, 0, [])] := by
  decide +kernel

theorem test_restartTakesEffect :
    (after .restartTakesEffect (after (.restart (ask [])) State.reset)).bli.restarting = false := by
  decide +kernel

theorem test_setCondition :
    let t := after (.setCondition (ask [1])) State.reset
    told t = [(0, 0, []), (0, 1, [0, 1])] ∧ t.dcc.deck = .loading ∧ t.img.locals.at 0 = 1 := by decide +kernel

theorem test_acceptIncomplete_in_harbour :
    told (after (.acceptIncomplete (ask [])) State.reset) = [(0, 2, [2, 0, 0])] := by decide +kernel

theorem test_recover : (after (.recover (ask [])) (deckIn .emergency)).dcc.deck = .harbour := by decide +kernel

theorem test_fireAlarmAccepted :
    (after (.fireAlarmAccepted true)
      { State.reset with dcc := { State.reset.dcc with fire := { InputFilter.reset with seen := true } }
                         settings := { State.reset.settings with fireEnable := true } }).dcc.deck
      = .emergency := by decide +kernel

theorem test_heldRecordExpiry :
    let t := after .heldRecordExpiry { State.reset with
      held := [{ frame := sent 7 .command 4 1, cond := 1, urgent := false, expiry := 30 }] }
    told t = [(4, 5, [])] ∧ t.held = [] ∧ t.now = 30 := by decide +kernel

theorem test_deckFrameSent :
    (after .deckFrameSent
      { State.reset with dls := { State.reset.dls with line := .sending (sent 7 .command 4 1) 50 } }).dls.line
      = .window 4050 := by decide +kernel

theorem test_deckFrameSent_broadcast :
    (after .deckFrameSent
      { State.reset with dls := { State.reset.dls with line := .sending (sent 63 .command 4 1) 50 } }).dls.line
      = .settling 226 := by decide +kernel

theorem test_replyWindowExpiry :
    let t := after .replyWindowExpiry (windowed fromBridge)
    told t = [(4, 6, []), (31, 65, [1])] ∧ t.dls.line = .free ∧ t.hasFlag .dlNoAnswer := by
  unfold State.hasFlag; decide +kernel

theorem test_settlingEnd :
    (after .settlingEnd { State.reset with dls := { State.reset.dls with line := .settling 9 } }).dls.line
      = .free := by decide +kernel

theorem test_deckLineStartBit :
    (after .deckLineStartBit { State.reset with dls := { State.reset.dls with line := .window 9 } }).dls.line
      = .receiving true := by decide +kernel

theorem test_deckFrameEnd_stray : (after (.deckFrameEnd [])
      { State.reset with dls := { State.reset.dls with line := .receiving false } }).fc.flags
    = 0x100000002 := by decide +kernel

theorem test_deckFrameEnd_status :
    let f : Frame := { dest := 0, urgent := false, src := 3, cls := .status, object := 4, verb := 2, payload := [1] }
    let s := doored .idle
    let t := after (.deckFrameEnd (onLine f)) { s with dls := { s.dls with
      line := .receiving true
      tx := some { kind := .poll, node := 3, object := 4, origin := .entry 0, discard := false } } }
    t.img.remotes.at 0 = ⟨2, [1], .valid, 0⟩ := by decide +kernel

theorem test_freshnessExpiry :
    (after (.freshnessExpiry 0) (doored .idle)).img.remotes.at 0 = ⟨255, [], .stale, 0⟩ := by decide +kernel

theorem test_lower :
    let t := after (.lower .a (ask [])) (rampIn .stowedLocked)
    (told t).head? = some (1, 11, []) ∧ (t.ramp .a).state = .stowedLocked := by decide +kernel

theorem test_lower_starts :
    let s := (ramped fun r => { r with state := .stowedLocked, referenced := true }).published 1 1
    let t := after (.lower .a (ask [])) s
    (told t).head? = some (1, 1, []) ∧ (t.ramp .a).state = .starting ∧ (t.ramp .a).pinOut = true := by
  decide +kernel

theorem test_raise_in_halted :
    let s := (ramped fun r => { r with state := .halted, referenced := true }).published 1 10
    (((after (.raise .a (ask [])) s).ramp .a).state, ((after (.raise .a (ask [])) s).ramp .a).dir)
      = (.starting, .raise) := by decide +kernel

theorem test_rampStop : ((after (.rampStop .a (ask [])) (rampIn .lowering)).ramp .a).state = .halting := by
  decide +kernel

theorem test_jog_disabled : told (after (.jog .b (ask [0, 0, 9])) State.reset) = [(2, 2, [5, 0, 0])] := by
  decide +kernel

theorem test_jog :
    let s := (ramped fun r => { r with state := .halted, pinsOut := ⟨true, true, true, 5⟩ }).published 1 10
    let t := after (.jog .a (ask [1, 0, 9])) s
    (t.ramp .a).state = .jog ∧ (t.ramp .a).deadTimer = some 1200000 := by decide +kernel

theorem test_resetFault : ((after (.resetFault .a (ask [])) (rampIn .fault)).ramp .a).state = .halted := by
  decide +kernel

theorem test_rampSwitchAccepted :
    ((after (.rampSwitchAccepted .b .stow true) State.reset).ramp .b).stow = ⟨true, true, true, 0⟩ := by
  decide +kernel

theorem test_estopAccepted :
    let s := rampIn .lowering
    let t := after (.estopAccepted true) { s with estop := { InputFilter.reset with seen := true } }
    (t.ramp .a).state = .halted ∧ t.fc.flags.getLsbD 15 = true := by decide +kernel

theorem test_pinTimerExpiry :
    let t := after (.pinTimerExpiry .a)
      ((ramped fun r => { r with state := .locking, pinTimer := some 9 }).published 1 8)
    (t.ramp .a).state = .fault ∧ (t.ramp .a).cause = .pinTimeout ∧ t.fc.flags.getLsbD 11 = true := by
  decide +kernel

theorem test_rampWarningExpiry :
    ((after (.rampWarningExpiry .a) ((ramped fun r => { r with
      state := .starting, dir := .lower, warnTimer := some 9
      pinsOut := ⟨true, true, true, 0⟩ }).published 1 2)).ramp .a).state = .lowering := by decide +kernel

theorem test_deadManExpiry :
    ((after (.deadManExpiry .a) ((ramped fun r => { r with state := .jog, deadTimer := some 9 }).published 1
      11)).ramp .a).state = .halting := by decide +kernel

theorem test_periodEnd :
    let t := after (.periodEnd .a) ((ramped fun r => { r with
      state := .lowering, params := { r.params with deployPos := 1000, vMax := 100, vCreep := 10, accel := 4, tMotion := 60, nStall := 5, wOver := 10 } }).published 1 3)
    (t.ramp .a).vTarget = 10 ∧ (t.ramp .a).vCmd = 4 ∧ (t.ramp .a).motionTime = 10 ∧ t.now = 40000 := by
  decide +kernel

theorem test_encoderTransition :
    let t := after (.encoderTransition .a true false) (rampIn .lowering)
    (t.ramp .a).x = 1 ∧ (t.ramp .a).lastDir = .lower ∧ (t.ramp .a).recent = some 1000000 := by decide +kernel

theorem test_encoderTransition_illegal :
    ((after (.encoderTransition .a true true) (rampIn .lowering)).ramp .a).cause = .encoder := by decide +kernel

theorem test_recentTimerExpiry :
    ((after (.recentTimerExpiry .a) (ramped fun r => { r with recent := some 7 })).ramp .a).recent = none := by
  decide +kernel

theorem test_pwmPeriodStart :
    ((after (.pwmPeriodStart .a) (ramped fun r => { r with
      pwmZero := some 0, buffered := ⟨5, .lower⟩, params := { r.params with pwmN := 100 } })).ramp .a).active
      = ⟨5, .lower⟩ := by decide +kernel

theorem test_pwmCentre :
    ((after (.pwmCentre .a) (ramped fun r => { r with
      pwmZero := some 0, params := { r.params with pwmN := 100 } })).ramp .a).conversion = some 124 := by
  decide +kernel

theorem test_pressureConversionDone :
    ((after (.pressureConversionDone .a 77) (ramped fun r => { r with
      state := .halted, conversion := some 7, params := { r.params with pMax := 100 } })).ramp .a).lastSample
      = 77 := by decide +kernel

theorem test_close :
    let t := after (.close 0 (ask [])) (doored .idle)
    (told t).head? = some (4, 1, []) ∧ (t.group 0).state = .warning := by decide +kernel

theorem test_openDoors :
    let t := after (.openDoors 0 (ask [])) (doored .closed)
    (t.group 0).state = .opening ∧ ((t.group 0).steps.at 0).state = .commanded := by decide +kernel

theorem test_groupStop : ((after (.groupStop 0 (ask [])) (moving .closing (some 9) none)).group 0).state
    = .stopped := by decide +kernel

theorem test_groupWarningExpiry :
    let s := doored .warning
    ((after (.groupWarningExpiry 0) (s.setGroup 0 { s.group 0 with warnTimer := some 9 })).group 0).state
      = .closing := by decide +kernel

theorem test_spacingExpiry :
    let s := doored .closing
    (((after (.spacingExpiry 0) (s.setGroup 0 { s.group 0 with spacing := some 9 })).group 0).steps.at 0).state
      = .commanded := by decide +kernel

theorem test_travelExpiry :
    let t := after (.travelExpiry 0 0) (moving .closing (some 9) none)
    (t.group 0).state = .incomplete ∧ ((t.group 0).steps.at 0).cause = .timeout
      ∧ t.fc.flags.getLsbD 26 = true ∧ t.fc.flags.getLsbD 28 = true := by decide +kernel

theorem test_retryExpiry :
    let t := after (.retryExpiry 0 0) (moving .closing none (some 9))
    ((t.group 0).steps.at 0).issue = 1 ∧ ((t.group 0).steps.at 0).retry = none := by decide +kernel

theorem test_place :
    let t := after (.place (ask [0, 1, 9, 2, 0, 3])) State.reset
    told t = [(16, 1, [])] ∧ ((t.cl.calls.at 7).map (·.message)) = some 9 := by decide +kernel

theorem test_cancel :
    (after (.cancel (ask [9])) (after (.place (ask [0, 1, 9, 2, 0, 3])) State.reset)).cl.calls.at 7 = none := by
  decide +kernel

theorem test_waitTimerExpiry :
    (after (.waitTimerExpiry 7) (State.reset.setCall 7 (some { aCall 5 .safety with
      ready := none, wait := some 9 }))).fc.flags.getLsbD 30 = true := by decide +kernel

theorem test_beaconStepExpiry :
    ((after (.beaconStepExpiry 2) (State.reset.setShown 2 ⟨1, 15, some 9, 0⟩)).bd.shown.at 2).step = 0 := by
  decide +kernel

theorem test_commitExpiry :
    let t := after .commitExpiry { State.reset with ts := { State.reset.ts with commit := some ⟨2, 9⟩ } }
    told t = [(30, 2, [2])] ∧ t.ts.commit = none ∧ t.fc.flags.getLsbD 34 = true := by decide +kernel

theorem test_copyComplete :
    ((after .copyComplete (let s := loaded 6 [(3, 4)]
      { s with ts := { s.ts with copy := some ⟨64, 0⟩ } })).sec 6).standby = [(3, 4)] := by decide +kernel

theorem test_scrubSlotEnd :
    ((after .scrubSlotEnd (loaded 0 [(3, 4)])).sec 0).status = .corrupt := by decide +kernel

theorem test_idle_step : step State.reset = .next State.reset.tick ∧ State.reset.tick.now = 1 := by
  exact ⟨rfl, by decide +kernel⟩

/-! ### States that meet the hypotheses of the statements -/

theorem forChannels (P : Channel → Prop) : (∀ ch, P ch) ↔ P .a ∧ P .b :=
  ⟨fun h => ⟨h .a, h .b⟩, fun h ch => by cases ch; exacts [h.1, h.2]⟩

theorem someChannel (P : Channel → Prop) : (∃ ch, P ch) ↔ P .a ∨ P .b :=
  ⟨fun ⟨ch, h⟩ => by cases ch; exacts [Or.inl h, Or.inr h], fun h => h.elim (⟨.a, ·⟩) (⟨.b, ·⟩)⟩

/-- The empty request. -/
def bare : Request := ask []

/-- The states of a channel. -/
def rampStates : List RampState :=
  [.disabled, .stowedLocked, .starting, .lowering, .landing, .landed, .raising, .stowing, .locking, .halting,
    .halted, .jog, .fault]

/-- Channel A referenced, in a state that local entry 1 shows. -/
def rampAt (x : RampState) : State :=
  (ramped fun r => { r with state := x, referenced := true }).published 1 x.code

/-- A filter at a level it has accepted. -/
def settledAt (level : Bool) : InputFilter := { level := level, seen := true, sampled := level, run := 0 }

/-- Full reset with other Table Store, Fault Collector or deck line records. -/
def withTs (f : Ts → Ts) : State := { State.reset with ts := f State.reset.ts }
def withFc (f : Fc → Fc) : State := { State.reset with fc := f State.reset.fc }
def withDls (f : Dls → Dls) : State := { State.reset with dls := f State.reset.dls }

/-- A section CORRUPT. -/
def corrupt (i : Fin 8) : State := State.reset.setSec i { Sec.reset with status := .corrupt }

/-- A frame of the bridge in the deck transmit queue. -/
def deckRec (urgent : Bool) (cond : Option Byte := none) : DeckRec :=
  { frame := sent 7 .command 4 1, urgent := urgent, cond := cond, origin := .bridge 5 }

theorem test_meets_StepRunsFrontCommand :
    ({ State.reset with pending := [.settlingEnd] } : State).pending = .settlingEnd :: [] := rfl

theorem test_meets_EmptyQueueIsOneTick :
    State.reset.pending = [] ∧ Settled State.reset
      ∧ ({ State.reset with node := 63 } : State).pending = [] ∧ ({ State.reset with node := 63 } : State).node = 63 := by
  simp only [Settled]; decide +kernel

theorem test_meets_HeldStartUp :
    ({ State.reset with node := 63 } : State).node = 63 ∧ (∀ x, Instr.settlingEnd ≠ .fullReset x)
      ∧ exec (.fullReset 63) State.reset = .next (after (.fullReset 63) State.reset) :=
  ⟨rfl, nofun, rfl⟩

theorem test_meets_FramesOnTheLine :
    ∀ f ∈ [{ sent 63 .call 255 255 (List.replicate 12 255) with src := 62, urgent := true }, sent 0 .poll 0 0],
      f.src ≠ 63 ∧ f.payload.length ≤ 12 ∧ receive (onLine f) = some f := by decide +kernel

theorem test_meets_BridgeFrameGoesNoFurther :
    Settled State.reset ∧ receive [] = none ∧ State.reset.bli.silence ≠ .expired
      ∧ ∀ f ∈ [{ sent 7 .command 4 1 with src := 0 }, sent 0 .poll 4 0, sent 0 .status 4 0, sent 0 .reply 4 0,
          sent 7 .manage 11 0],
        receive (onLine f) = some f ∧ (f.src = State.reset.node ∨ f.cls = .poll ∨ f.cls = .status ∨ f.cls = .reply
          ∨ (f.cls = .manage ∧ f.dest ≠ State.reset.node)) := by
  simp only [Settled]; decide +kernel

theorem test_meets_BridgeFrameIsItsCommand_manage :
    Settled State.reset ∧ HasRoom State.reset ∧ State.reset.bli.silence ≠ .expired
      ∧ ∀ f ∈ ([0, 1, 2, 3, 4, 5, 6, 7, 8, 9, 10, 11, 12, 255] : List Byte).map (sent 0 .manage · 0)
          ++ [sent 0 .manage 11 1, sent 0 .manage 1 255],
        receive (onLine f) = some f ∧ f.src ≠ State.reset.node ∧ f.cls = .manage ∧ f.dest = State.reset.node := by
  simp only [Settled, HasRoom]; decide +kernel

theorem test_meets_BridgeFrameIsItsCommand_owned :
    ∀ s ∈ [(passing 1, Action.pass), (passing 4, Action.take)],
      Settled s.1 ∧ HasRoom s.1 ∧ s.1.bli.silence ≠ .expired ∧ (s.1.sec 2).status ≠ .corrupt
        ∧ ∀ f ∈ [sent 0 .command 0 1, sent 0 .command 0 3, sent 0 .command 1 1, sent 0 .command 2 5,
            sent 0 .command 4 1, sent 0 .command 7 3, sent 0 .command 3 1, sent 0 .command 8 1, sent 0 .call 16 1,
            sent 0 .call 16 2, sent 0 .call 15 1],
          receive (onLine f) = some f ∧ f.src ≠ s.1.node ∧ f.dest = s.1.node
            ∧ (s.1.firstMatch true f).map (·.action) = some s.2 := by
  simp only [Settled, HasRoom]; decide +kernel

/-- The bridge silence timer running. -/
def listening : State := { State.reset with bli := { State.reset.bli with silence := .running 8 } }

theorem test_meets_SilenceBegins : listening.node ≠ 63 ∧ listening.bli.silence = .running 8 := by decide +kernel

theorem test_meets_BridgeTransmitterGoesOn :
    let s := after (.identify bare) State.reset
    let t := after (.identify bare) s
    Settled s ∧ s.bli.tx.isSome = true ∧ s.bli.queue = [] ∧ Settled t ∧ t.bli.tx.isSome = true
      ∧ t.bli.queue.length = 1 := by
  simp only [Settled]; decide +kernel

theorem test_meets_PassageDecides :
    ((corrupt 2).sec 2).status = .corrupt
      ∧ ((State.reset.sec 2).status ≠ .corrupt ∧ State.reset.firstMatch false (sent 0 .status 4 1) = none)
      ∧ ∀ x ∈ [(1, Action.pass), (2, .drop), (3, .refuse), (4, .take), (5, .guard), (6, .hold)],
        ((passing x.1).sec 2).status ≠ .corrupt
          ∧ ((passing x.1).firstMatch false (sent 0 .status 4 1)).map (·.action) = some x.2 := by
  decide +kernel

/-- A COMMAND for a deck node. -/
def toDeck : Frame := sent 7 .command 4 1

theorem test_meets_PassageToTheDeck :
    (∀ s ∈ [State.reset, loaded 2 [(0, 1)], passing 1, passing 2, passing 3, passing 4, passing 5, passing 6,
        passing 5 1, passing 6 1,
        { passing 1 with dls := { State.reset.dls with normal := List.replicate 16 (deckRec false) } },
        { passing 6 1 with held := List.replicate 7 ⟨toDeck, 1, false, 9⟩ },
        { passing 6 1 with held := List.replicate 8 ⟨toDeck, 1, false, 9⟩ }],
      Settled s ∧ HasRoom s ∧ s.bli.silence ≠ .expired ∧ toDeck.src ≠ s.node ∧ toDeck.dest ≠ s.node
        ∧ (s.sec 2).status ≠ .corrupt)
    ∧ receive (onLine toDeck) = some toDeck
    ∧ receive (onLine (sent 63 .call 16 1)) = some (sent 63 .call 16 1)
    ∧ (State.reset.firstMatch true toDeck = none ∧ (State.reset.sec 2).active.read 0 = 0)
    ∧ ((loaded 2 [(0, 1)]).firstMatch true toDeck = none ∧ ((loaded 2 [(0, 1)]).sec 2).active.read 0 ≠ 0)
    ∧ (∀ x ∈ [(1, Action.pass), (2, .drop), (3, .refuse), (4, .take), (5, .guard), (6, .hold)],
        ((passing x.1).firstMatch true toDeck).map (·.action) = some x.2 ∧ (passing x.1).condition 0 = true)
    ∧ (∀ x ∈ [(5, Action.guard), (6, .hold)],
        ((passing x.1 1).firstMatch true toDeck).map (fun p => (p.action, p.cond)) = some (x.2, 1)
          ∧ (passing x.1 1).condition 1 = false)
    ∧ Dls.hasPlace { State.reset.dls with normal := List.replicate 16 (deckRec false) } false = false
    ∧ State.reset.dls.hasPlace false = true := by
  simp only [Settled, HasRoom]; decide +kernel

/-- Three held records, the second the first to expire. -/
def holding : State :=
  { State.reset with held := [⟨toDeck, 1, false, 31⟩, ⟨toDeck, 1, false, 30⟩, ⟨toDeck, 1, false, 30⟩] }

theorem test_meets_HeldRecordExpires :
    Settled holding ∧ HasRoom holding
      ∧ holding.held = [⟨toDeck, 1, false, 31⟩] ++ ⟨toDeck, 1, false, 30⟩ :: [⟨toDeck, 1, false, 30⟩]
      ∧ (∀ x ∈ [(⟨toDeck, 1, false, 31⟩ : HeldRec)], 30 < x.expiry)
      ∧ ∀ x ∈ [(⟨toDeck, 1, false, 30⟩ : HeldRec)], 30 ≤ x.expiry := by
  simp only [Settled, HasRoom]; decide +kernel

theorem test_meets_ConditionsFailSafe :
    State.reset.value (12 : Byte).toNat = 255 ∧ State.reset.value (127 : Byte).toNat = 255
      ∧ State.reset.value (0 : Byte).toNat ≠ 255
      ∧ ((1 : Byte) ≠ 0 ∧ (State.reset.sec 1).status ≠ .valid) ∧ ((corrupt 1).sec 1).status ≠ .valid
      ∧ (∀ x ∈ [((1 : Byte), loaded 1 [(0, 1)], 0#4), (31, loaded 1 [(390, 1)], 0), (1, loaded 1 [(0, 0x11)], 1),
          (31, loaded 1 [(390, 0x11)], 1)],
        (x.2.1.sec 1).status = .valid
          ∧ ((x.2.1.sec 1).active.read (13 * (x.1.toNat - 1))).extractLsb' 4 4 = x.2.2
          ∧ (x.2.1.evalTerms x.1.toNat).length = 1) := by decide +kernel

/-- A queued reply and a queued STATUS. -/
def aReply : BridgeRec := { frame := sent 0 .reply 4 0, restartReply := false }
def aStatus (o : Byte) : BridgeRec := { frame := sent 0 .status o 0, restartReply := false }

theorem test_meets_QueuesTakeFrames_bridge :
    (∀ q ∈ [[aStatus 1], [], List.replicate 31 aReply ++ [aStatus 1], List.replicate 32 aReply],
      q.length ≤ 32 ∧ q.Pairwise fun x y => sameKey x.frame y.frame = false)
    ∧ ([aStatus 1] = [] ++ aStatus 1 :: [] ∧ sameKey (aStatus 1).frame (aStatus 1).frame = true)
    ∧ ((List.replicate 31 aReply ++ [aStatus 1]).length = 32
        ∧ (∀ x ∈ List.replicate 31 aReply ++ [aStatus 1], sameKey x.frame (aStatus 2).frame = false)
        ∧ (aStatus 1).frame.cls = .status ∧ ∀ y ∈ List.replicate 31 aReply, y.frame.cls ≠ .status)
    ∧ (∀ x ∈ List.replicate 32 aReply, x.frame.cls ≠ .status) := by decide +kernel

theorem test_meets_QueuesTakeFrames_deck :
    ∀ x ∈ [(0, 15, false, true), (0, 16, false, false), (7, 16, true, true), (8, 16, true, false), (23, 0, false, true),
        (24, 0, false, false)],
      let d : Dls := { State.reset.dls with
        urgent := List.replicate x.1 (deckRec true), normal := List.replicate x.2.1 (deckRec false) }
      decide (d.urgent.length + d.normal.length < 24 ∧ (x.2.2.1 = false → d.normal.length < 16)) = x.2.2.2 := by
  decide +kernel

theorem test_meets_FlagsAndAlarm : SummaryOk State.reset := by simp only [SummaryOk]; decide +kernel

theorem test_meets_BadFormIsAnswered :
    Settled State.reset ∧ HasRoom State.reset
      ∧ (∀ p ∈ ([[], [0, 0, 0], List.replicate 13 0, [8, 0, 0, 1]] : List (List Byte)),
          p.length < 4 ∨ 12 < p.length ∨ ∃ b, p.head? = some b ∧ 8 ≤ b.toNat)
      ∧ (∀ p ∈ ([[2, 0, 0, 0, 1], [0, 0, 0, 1]] : List (List Byte)),
          p.length ≠ 5 ∨ ∃ b r, p = b :: r ∧ 2 ≤ b.toNat)
      ∧ (∃ i : Byte, [128#8] = [i] ∧ 128 ≤ i.toNat) ∧ (∃ d : Byte, [5#8] = [d] ∧ 5 ≤ d.toNat)
      ∧ (∃ m : Byte, [64#8] = [m] ∧ 64 ≤ m.toNat)
      ∧ 8000 < word16 0x1F 0x41 ∧ word16 0 0 = 0 := by
  refine ⟨(between _ (by decide +kernel)).1, (between _ (by decide +kernel)).2, ?_, ?_, ⟨_, rfl, by decide⟩,
    ⟨_, rfl, by decide⟩, ⟨_, rfl, by decide⟩, by decide, by decide⟩
  · simp
  · simp

theorem test_meets_LoadWritesStandby :
    (∀ s ∈ [State.reset, withTs fun x => { x with commit := some ⟨2, 9⟩ },
        withTs fun x => { x with copy := some ⟨2, 9⟩ }], Settled s ∧ HasRoom s)
      ∧ TablesOk State.reset ∧ (7 : Byte).toNat = (7 : Fin 8).val
      ∧ 16 < word16 0 16 + [(1 : Byte)].length ∧ word16 0 15 + [(1 : Byte)].length ≤ 16 ∧ secSize 7 = 16
      ∧ word16 0 7 + (List.replicate 9 (1 : Byte)).length ≤ 16
      ∧ State.reset.ts.commit = none ∧ State.reset.ts.copy = none := by
  simp only [Settled, HasRoom, TablesOk]; decide +kernel

theorem test_meets_ReadingChangesNothing :
    Settled State.reset ∧ HasRoom State.reset ∧ (1 : Byte).toNat ≤ 1 ∧ (10 : Byte).toNat ≤ 10
      ∧ secSize 7 < word16 0 7 + (10 : Byte).toNat ∧ word16 0 6 + (10 : Byte).toNat ≤ secSize 7
      ∧ (State.reset.objectState 16 15).isSome = true ∧ State.reset.objectState 16 16 = none := by
  simp only [Settled, HasRoom]; decide +kernel

theorem test_meets_ClearFlagsClears :
    Settled State.reset ∧ HasRoom State.reset ∧ (7 : Byte).toNat < 8 := by
  simp only [Settled, HasRoom]; decide +kernel

theorem test_meets_ProofTestJudged :
    (∀ s ∈ [withFc fun x => { x with test := some ⟨.scrub, 1, 0⟩ }, deckIn .emergency, State.reset,
        rampIn .stowedLocked], Settled s ∧ HasRoom s)
      ∧ (TestId.scrub = .scrub ∧ 1 ≤ (3 : Byte).toNat ∧ (3 : Byte).toNat ≤ 3) ∧ TestId.overspeed .a ≠ .scrub
      ∧ (deckIn .emergency).fc.test = none ∧ (deckIn .emergency).dcc.deck = .emergency
      ∧ State.reset.dcc.deck ≠ .emergency ∧ (State.reset.ramp .a).state ≠ .stowedLocked
      ∧ ((rampIn .stowedLocked).ramp .a).state = .stowedLocked ∧ TestId.scrub.channel? = none := by
  simp only [Settled, HasRoom]; decide +kernel

theorem test_meets_CommitJudged :
    let coded := fun s : State => (s.standbyCode 128).toNat
      = word16 (BitVec.ofNat 8 ((s.standbyCode 128).toNat / 256)) (BitVec.ofNat 8 (s.standbyCode 128).toNat)
    (∀ s ∈ [ready, withTs fun x => { x with commit := some ⟨2, 9⟩ }, withTs fun x => { x with copy := some ⟨2, 9⟩ },
        { deckIn .emergency with ts := ready.ts }, { rampIn .lowering with ts := ready.ts }],
      Settled s ∧ HasRoom s)
    ∧ ready.ts.commit = none ∧ ready.ts.copy = none ∧ (ready.standbyCode 128).toNat ≠ word16 0 0 ∧ coded ready
    ∧ coded { deckIn .emergency with ts := ready.ts } ∧ coded State.reset
    ∧ State.reset.inconsistency 128 = some (7, 255) ∧ ready.inconsistency 128 = none
    ∧ (∀ ch : Channel,
        ready.img.locals.at ch.stateEntry ∉ ([2, 3, 4, 6, 7, 8, 9, 11] : List Byte))
    ∧ (∀ g : Fin 4, ready.img.locals.at (groupEntry g) ∉ ([1, 2, 3, 6] : List Byte))
    ∧ (rampIn .lowering).img.locals.at Channel.a.stateEntry ∈ ([2, 3, 4, 6, 7, 8, 9, 11] : List Byte)
    ∧ ({ rampIn .lowering with ts := ready.ts } : State).inconsistency 128 = none := by
  simp only [Settled, HasRoom, forChannels]; decide +kernel

theorem test_meets_SwapAndCopy :
    (withTs fun x => { x with commit := some ⟨2, 9⟩ }).ts.commit ≠ none
      ∧ Settled (withTs fun x => { x with copy := some ⟨255, 9⟩ })
      ∧ (withTs fun x => { x with copy := some ⟨255, 9⟩ }).ts.copy = some ⟨255, 9⟩ := by
  simp only [Settled]; decide +kernel

theorem test_meets_PendingCommitEnds :
    Settled State.reset ∧ HasRoom State.reset ∧ State.reset.ts.commit = none
      ∧ ∃ s : State, Settled s ∧ HasRoom s ∧ s.ts.commit = some ⟨2, 9⟩ ∧ s.bli.queue.length ≤ 24 := by
  refine ⟨(between _ (by decide +kernel)).1, (between _ (by decide +kernel)).2, rfl,
    withTs fun x => { x with commit := some ⟨2, 9⟩ }, ?_⟩
  simp only [Settled, HasRoom]; decide +kernel

theorem test_meets_ScrubSlotEnds :
    State.reset.node ≠ 63
      ∧ (let s := loaded 0 []
         (s.sec s.ts.slot).status = .valid ∧ s.ts.slotSwapped = false ∧ (s.sec s.ts.slot).code = none)
      ∧ (let s := { loaded 3 [] with ts := { (loaded 3 []).ts with slot := 3 } }
         s.ts.slot = 3 ∧ (s.sec 3).status = .valid ∧ (s.sec 3).code = none)
      ∧ (withFc fun x => { x with test := some ⟨.scrub, 1, 0⟩ }).fc.test = some ⟨.scrub, 1, 0⟩ := by
  decide +kernel

theorem test_meets_Restart_refused :
    ∀ s ∈ [rampIn .starting, moving .closing none none, withTs fun x => { x with commit := some ⟨2, 9⟩ },
        withTs fun x => { x with copy := some ⟨2, 9⟩ }, holding,
        withFc fun x => { x with test := some ⟨.scrub, 1, 0⟩ }],
      Settled s ∧ HasRoom s ∧ (((s.ramp .a).state.isRest = false ∨ (s.ramp .b).state.isRest = false)
        ∨ (∃ g : Fin 4, (s.group g).state.isSequence = true) ∨ s.ts.commit ≠ none ∨ s.ts.copy ≠ none
        ∨ s.held ≠ [] ∨ s.fc.test ≠ none) := by
  simp only [Settled, HasRoom]; decide +kernel

/-- A restart pending whose reply is in transmission. -/
def restarting : State := after (.restart bare) State.reset

theorem test_meets_Restart_summary : SummaryOk restarting := by simp only [SummaryOk]; decide +kernel

theorem test_meets_Restart :
    ((State.reset.ramp .a).state.isRest = true ∧ (State.reset.ramp .b).state.isRest = true
        ∧ (∀ g : Fin 4, (State.reset.group g).state.isSequence = false) ∧ State.reset.held = [])
      ∧ restarting.node ≠ 63 ∧ restarting.bli.restarting = true
      ∧ (∀ r ∈ restarting.bli.queue, r.restartReply = false)
      ∧ ((restarting.setRamp .a { Ramp.reset with state := .starting }).ramp .a).state.isRest = false
      ∧ (∀ r ∈ (restarting.setRamp .a { Ramp.reset with state := .starting }).bli.queue, r.restartReply = false) := by
  decide +kernel

/-! The deck condition. -/

theorem test_meets_DeckConditionChanges :
    PublishedOk (deckIn .closingUp) ∧ (deckIn .closingUp).dcc.deck = .closingUp
      ∧ (∀ g : Fin 4, ((deckIn .closingUp).group g).defn.sea = true → ((deckIn .closingUp).group g).state = .closed)
      ∧ (∀ ch, ((deckIn .closingUp).ramp ch).state = .disabled ∨ ((deckIn .closingUp).ramp ch).state = .stowedLocked)
      ∧ State.reset.bli.queue.length ≤ 24 := by
  simp only [PublishedOk, forChannels]; decide +kernel

/-- A ramp moving, in LOADING. -/
def loadingMoving : State :=
  (deckIn .loading).setRamp .a { Ramp.reset with state := .lowering } |>.published 1 3

/-- LOADING under condition 1 while CONDITIONS is EMPTY. -/
def noPermit : State := { State.reset with settings := { State.reset.settings with loadingPermit := 1 } }

theorem test_meets_SetConditionJudged :
    (∀ s ∈ [deckIn .harbour, deckIn .loading, deckIn .closingUp, deckIn .sea, deckIn .emergency, noPermit,
        loadingMoving], Settled s ∧ HasRoom s ∧ PublishedOk s)
      ∧ State.reset.condition State.reset.settings.loadingPermit = true
      ∧ noPermit.condition noPermit.settings.loadingPermit = false
      ∧ (loadingMoving.ramp .a).state.isMotion = true := by
  simp only [Settled, HasRoom, PublishedOk, forChannels]; decide +kernel

/-- CLOSING_UP with one SEA group INCOMPLETE, or in another state. -/
def seaGroup (x : GroupState) : State :=
  let s := deckIn .closingUp
  (s.setGroup 0 { Group.reset with state := x, defn := { oneDoor with sea := true } }).published 5 x.code

theorem test_meets_AcceptIncomplete :
    (∀ s ∈ [State.reset, seaGroup .incomplete, seaGroup .closing], Settled s ∧ HasRoom s ∧ PublishedOk s)
      ∧ State.reset.dcc.deck ≠ .closingUp ∧ (seaGroup .closing).dcc.deck = .closingUp
      ∧ (seaGroup .incomplete).dcc.deck = .closingUp
      ∧ (∀ g : Fin 4, ((seaGroup .incomplete).group g).defn.sea = true →
          ((seaGroup .incomplete).group g).state ≠ .warning ∧ ((seaGroup .incomplete).group g).state ≠ .waitPermit
            ∧ ((seaGroup .incomplete).group g).state ≠ .closing)
      ∧ (∃ g : Fin 4, ((seaGroup .incomplete).group g).defn.sea = true
          ∧ ((seaGroup .incomplete).group g).state = .incomplete)
      ∧ (∀ ch, ((seaGroup .incomplete).ramp ch).state = .disabled
          ∨ ((seaGroup .incomplete).ramp ch).state = .stowedLocked) := by
  simp only [Settled, HasRoom, PublishedOk, forChannels]; decide +kernel

/-- The fire-alarm level active, the enable set. -/
def fire (d : DeckCondition) (level enable : Bool) : State :=
  { deckIn d with dcc := { deck := d, fire := settledAt level }
                  settings := { State.reset.settings with fireEnable := enable } }

theorem test_meets_RecoverReturnsToHarbour :
    (∀ s ∈ [State.reset, fire .emergency true true, fire .emergency false true], Settled s ∧ HasRoom s)
      ∧ State.reset.dcc.deck ≠ .emergency
      ∧ ((fire .emergency true true).dcc.deck = .emergency ∧ (fire .emergency true true).dcc.fire.level = true)
      ∧ ((fire .emergency false true).dcc.deck = .emergency ∧ (fire .emergency false true).dcc.fire.level = false) := by
  simp only [Settled, HasRoom]; decide +kernel

theorem test_meets_FireAlarmAccepted :
    (∀ s ∈ [State.reset, fire .harbour true true, fire .harbour false true, fire .harbour false false], Settled s)
      ∧ State.reset.dcc.fire.seen = false
      ∧ ((fire .harbour true true).dcc.fire.seen = true ∧ (fire .harbour true true).dcc.fire.level = true)
      ∧ ((fire .harbour false true).dcc.fire.level ≠ true ∧ (fire .harbour false true).settings.fireEnable = true
        ∧ (fire .harbour false true).dcc.deck ≠ .emergency)
      ∧ (fire .harbour false false).settings.fireEnable = false := by
  simp only [Settled]; decide +kernel

theorem test_meets_EmergencyEntered :
    (∀ x ∈ [GroupState.idle, .warning, .waitPermit, .closing, .closed, .incomplete, .opening, .stopped],
      (((State.reset.setGroup 0 { Group.reset with
        state := x, defn := { oneDoor with fire := true } }).group 0).defn.fire, x.code) = (true, x.code))
      ∧ (State.reset.group 0).defn.fire = false
      ∧ (withTs fun x => { x with commit := some ⟨2, 9⟩ }).ts.commit ≠ none
      ∧ (withFc fun x => { x with test := some ⟨.scrub, 1, 0⟩ }).fc.test = some ⟨.scrub, 1, 0⟩ := by
  decide +kernel

/-! The deck line. -/

theorem test_meets_DeckLineMoves :
    (∀ l ∈ [Line.sending toDeck 50, .sending (sent 63 .command 4 1) 50, .window 100, .free, .settling 9,
        .receiving true], Settled (withDls fun x => { x with line := l }))
      ∧ (∀ o ∈ [TxOrigin.owner (.bridge 5), .owner (.door 0 0 0 .close 0), .owner (.zone 0 0 true), .entry 0],
        ∀ b ∈ [true, false],
        let s := windowed { fromBridge with origin := o, discard := b }
        Settled s ∧ HasRoom s ∧ s.dls.line = .window 100
          ∧ s.dls.tx = some { fromBridge with origin := o, discard := b }) := by
  simp only [Settled, HasRoom]; decide +kernel

theorem test_meets_DeckFrameEnds :
    let f : Frame := { sent 0 .reply 4 1 with src := 7 }
    let g : Frame := { sent 0 .status 4 1 with src := 7 }
    (∀ b ∈ [true, false], ∀ o ∈ [TxOrigin.owner (.bridge 5), .owner (.door 0 0 0 .close 0), .owner (.zone 0 0 true)],
      let s := { windowed { fromBridge with origin := o, discard := b } with
        dls := { (windowed { fromBridge with origin := o, discard := b }).dls with line := .receiving true } }
      Settled s ∧ HasRoom s ∧ s.dls.line = .receiving true)
      ∧ (Settled (withDls fun x => { x with line := .receiving false }) ∧ receive [] = none)
      ∧ receive (onLine f) = some f ∧ receive (onLine g) = some g
      ∧ (f.cls = .reply ∧ fromBridge.kind ≠ .poll ∧ f.src = fromBridge.node ∧ f.dest = State.reset.node
        ∧ f.object = fromBridge.object)
      ∧ (g.cls = .status ∧ g.src = fromBridge.node ∧ g.object = fromBridge.object) := by
  simp only [Settled, HasRoom]; decide +kernel

/-- Remote entries to poll: 0 fast and 95 slow, the rotation at an entry. -/
def polled (pointer : Fin 96) (pass : Fin 8) : State :=
  { State.reset with img := { State.reset.img with
      pointer := pointer
      pass := pass
      defs := (State.reset.img.defs.put 0 ⟨.door, 3, 4, .fast, 100⟩).put 95 ⟨.zone, 3, 5, .slow, 100⟩ } }

theorem test_meets_DuePollIsFirstEligible :
    State.reset.duePoll = none ∧ (polled 0 0).duePoll = some (0, 0) ∧ (polled 1 0).duePoll = some (95, 0)
      ∧ (polled 1 3).duePoll = some (0, 4) ∧ (polled 95 7).duePoll = some (0, 0) := by decide +kernel

theorem test_meets_ArbiterChooses :
    ({ polled 0 0 with dls := { State.reset.dls with urgent := [deckRec true], normal := [deckRec false] } } : State).choice
        = .frame (deckRec true)
      ∧ ({ polled 0 0 with dls := { State.reset.dls with normal := [deckRec false] } } : State).choice = .poll 0 0
      ∧ ({ polled 0 0 with dls := { State.reset.dls with normal := [deckRec false], alternation := .poll } } : State).choice
        = .frame (deckRec false)
      ∧ (withDls fun x => { x with normal := [deckRec false (some 1)] }).choice = .frame (deckRec false (some 1))
      ∧ State.reset.condition 1 = false ∧ (polled 0 0).choice = .poll 0 0 ∧ State.reset.choice = .nothing := by
  decide +kernel

theorem test_meets_ImageChanges :
    State.reset.img.locals.at 10 = 0 ∧ State.reset.img.locals.at 10 ≠ 1
      ∧ (State.reset.img.remotes.at 95).value = 255 ∧ (State.reset.img.remotes.at 95).value ≠ 1
      ∧ (polled 0 0).node ≠ 63 ∧ ((polled 0 0).img.defs.at 95).kind ≠ .none
      ∧ ((polled 0 0).img.remotes.at 95).standing ≠ .stale := by decide +kernel

theorem test_meets_PollBegins :
    Settled (polled 0 0) ∧ (polled 0 0).dls.line = .free ∧ (polled 0 0).choice = .poll 0 0
      ∧ Settled (polled 1 0) ∧ (polled 1 0).dls.line = .free ∧ (polled 1 0).choice = .poll 95 0
      ∧ ((polled 1 0).img.defs.at 95).node ≠ 63 := by
  simp only [Settled]; decide +kernel

/-! Ramp channels. -/

/-- The seven checks of LOWER, each by whether it fails. -/
def failing (s : State) (d : Dir) : List Bool :=
  let r := s.ramp .a
  [s.dcc.deck == .closingUp || s.dcc.deck == .sea || s.dcc.deck == .emergency, s.estop.level,
    s.fc.test.any fun p => p.id.channel? == some .a, (s.sec 3).status == .corrupt,
    !r.referenced && r.state != .disabled,
    !s.condition (if d = .raise then r.params.raisePermit else r.params.lowerPermit), r.silence]

theorem test_meets_RampChecksInOrder :
    let s := rampAt .stowedLocked
    failing (deckIn .sea) .lower = [true, false, false, false, false, false, false]
      ∧ failing { s with estop := settledAt true } .lower = [false, true, false, false, false, false, false]
      ∧ failing (withFc fun x => { x with test := some ⟨.overload .a, 0, 0⟩ }) .lower
        = [false, false, true, false, false, false, false]
      ∧ failing (corrupt 3) .lower = [false, false, false, true, false, false, false]
      ∧ failing (rampIn .halted) .lower = [false, false, false, false, true, false, false]
      ∧ failing (ramped fun r => { r with params := { r.params with lowerPermit := 1 } }) .lower
        = [false, false, false, false, false, true, false]
      ∧ failing (ramped fun r => { r with silence := true }) .raise
        = [false, false, false, false, false, false, true]
      ∧ failing s .lower = [false, false, false, false, false, false, false] := by decide +kernel

theorem test_meets_MoveJudged :
    (∀ x ∈ rampStates, Settled (rampAt x) ∧ HasRoom (rampAt x)
        ∧ ((rampAt x).markSilence .a).rampChecks .a .lower false = none
        ∧ ((rampAt x).markSilence .a).rampChecks .a .raise false = none
        ∧ (((rampAt x).markSilence .a).replied bare 1 .accepted |>.ramp .a).state = x)
      ∧ (Settled (rampIn .halted) ∧ HasRoom (rampIn .halted)
        ∧ ((rampIn .halted).markSilence .a).rampChecks .a .lower false = some (.code .notReferenced))
      ∧ (Settled (deckIn .sea) ∧ HasRoom (deckIn .sea)
        ∧ ((deckIn .sea).markSilence .a).rampChecks .a .lower false = some (.refuse .deckCondition)) := by
  simp only [Settled, HasRoom]; decide +kernel

/-- A proof test of channel A running. -/
def testing : State := withFc fun x => { x with test := some ⟨.overload .a, 0, 0⟩ }

theorem test_meets_StopAndResetFault :
    (∀ x ∈ rampStates, Settled (rampAt x) ∧ HasRoom (rampAt x) ∧ (rampAt x).testingOn .a = false
        ∧ (((rampAt x).markSilence .a).replied bare 1 .done |>.ramp .a).state = x)
      ∧ Settled testing ∧ HasRoom testing ∧ testing.testingOn .a = true
      ∧ (let s := { rampAt .fault with estop := settledAt true }
         Settled s ∧ HasRoom s ∧ s.testingOn .a = false ∧ (s.ramp .a).state = .fault ∧ s.estop.level = true)
      ∧ ¬ (((rampAt .fault).ramp .a).params.pMax < ((rampAt .fault).ramp .a).lastSample.toNat
        ∨ (rampAt .fault).estop.level = true) := by
  simp only [Settled, HasRoom]; decide +kernel

/-- Channel A with its pins out. -/
def pinsOutAt (x : RampState) : State :=
  (ramped fun r => { r with state := x, pinsOut := settledAt true }).published 1 x.code

theorem test_meets_JogJudged :
    word16 0 1 = 1 ∧ word16 0x1F 0x40 = 8000
      ∧ (∀ x ∈ rampStates, Settled (rampAt x) ∧ HasRoom (rampAt x)
        ∧ ((rampAt x).markSilence .a).rampChecks .a .lower true = none
        ∧ ((rampAt x).ramp .a).pinsOut.level = false)
      ∧ (∀ x ∈ [RampState.halted, .landed], Settled (pinsOutAt x) ∧ HasRoom (pinsOutAt x)
        ∧ ((pinsOutAt x).markSilence .a).rampChecks .a .raise true = none
        ∧ ((pinsOutAt x).ramp .a).pinsOut.level = true)
      ∧ ((deckIn .sea).markSilence .a).rampChecks .a .lower true = some (.refuse .deckCondition)
      ∧ (testing.markSilence .a).rampChecks .a .lower true = some (.code .testing) := by
  simp only [Settled, HasRoom]; decide +kernel

/-- Channel A with its pin switches at accepted levels. -/
def pinned (x : RampState) (level : Bool) : State :=
  (ramped fun r => { r with state := x, pinsOut := settledAt level, pinsIn := settledAt level }).published 1 x.code

theorem test_meets_SwitchAccepted :
    (∀ x ∈ [RampState.starting, .locking, .halted], ∀ b ∈ [true, false], Settled (pinned x b)
        ∧ ((pinned x b).ramp .a).pinsOut.seen = true ∧ ((pinned x b).ramp .a).pinsIn.seen = true
        ∧ ((pinned x b).ramp .a).pinsOut.level ≠ !b ∧ ((pinned x b).ramp .a).pinsIn.level ≠ !b
        ∧ ((pinned x b).ramp .a).state = x ∧ ((pinned x b).ramp .a).warned = false)
      ∧ Settled State.reset ∧ ((State.reset.ramp .a).filterOf .stow).seen = false := by
  simp only [Settled]; decide +kernel

/-- Channel A starting, its warning about to end. -/
def starting (d : Dir) (out stow pinsIn : Bool) (permit : Byte) : State :=
  (ramped fun r => { r with
    state := .starting, dir := d, warnTimer := some 9, pinsOut := settledAt out, stow := settledAt stow
    pinsIn := settledAt pinsIn
    params := { r.params with lowerPermit := permit, raisePermit := permit } }).published 1 2

theorem test_meets_StartingLeft :
    ∀ s ∈ [(starting .lower false false false 0, true), (starting .lower true false false 1, false),
        (starting .lower true false false 0, true), (starting .raise true false false 0, true),
        (starting .raise true true false 0, true), (starting .raise true true true 0, true)],
      s.1.node ≠ 63 ∧ (s.1.ramp .a).warnTimer = some 9 ∧ (s.1.ramp .a).state = .starting
        ∧ (s.1.ramp .a).dir ≠ .none
        ∧ s.1.condition (if (s.1.ramp .a).dir = .raise then (s.1.ramp .a).params.raisePermit
            else (s.1.ramp .a).params.lowerPermit) = s.2 := by decide +kernel

theorem test_meets_RampTimersExpire :
    let s := ramped fun r => { r with state := .starting, pinTimer := some 9 }
    let t := ramped fun r => { r with state := .locking, pinTimer := some 9 }
    let u := ramped fun r => { r with state := .jog, deadTimer := some 9 }
    s.node ≠ 63 ∧ ((s.ramp .a).pinTimer = some 9 ∧ (s.ramp .a).state = .starting)
      ∧ ((t.ramp .a).pinTimer = some 9 ∧ (t.ramp .a).state = .locking)
      ∧ (u.ramp .a).deadTimer = some 9 ∧ (u.ramp .a).state = .jog := by decide +kernel

theorem test_meets_EstopHaltsChannels :
    Settled State.reset ∧ State.reset.estop.seen = false
      ∧ (∀ x ∈ rampStates, let s := { rampAt x with estop := settledAt false }
        Settled s ∧ s.estop.seen = true ∧ s.estop.level = false ∧ (s.ramp .a).state = x) := by
  simp only [Settled]; decide +kernel

theorem test_meets_EncoderEdges :
    Settled (rampAt .halted) ∧ ((rampAt .halted).ramp .a).state ≠ .disabled
      ∧ (((rampAt .halted).ramp .a).encA.level, ((rampAt .halted).ramp .a).encB.level) = (false, false)
      ∧ Settled (rampAt .fault) ∧ ((rampAt .fault).ramp .a).state = .fault := by
  simp only [Settled]; decide +kernel

theorem test_meets_ControlLaw :
    let edge := { Ramp.reset with recent := some 9, lastDir := .lower, x := 8388607 }
    let jog := { Ramp.reset with state := .jog, dir := .raise, jogSpeed := 9, referenced := true }
    (-8388608 ≤ edge.x ∧ edge.x ≤ 8388607 ∧ edge.recent = some 9 ∧ 9 ≤ 9 ∧ edge.lastDir = .lower)
      ∧ Ramp.reset.recent = none ∧ 9 < 10
      ∧ (({ Ramp.reset with x := 4 } : Ramp).delta = 4 ∧ ({ Ramp.reset with x := -3 } : Ramp).delta.natAbs ≤ 3)
      ∧ (({ Ramp.reset with x := 5000 } : Ramp).delta = 2047)
      ∧ (jog.state = .jog ∧ jog.referenced = true)
      ∧ (rampStates.filter RampState.isMotion = [.lowering, .landing, .raising, .stowing, .halting, .jog])
      ∧ ({ Ramp.reset with state := .lowering } : Ramp).sigma = 1
      ∧ ({ Ramp.reset with state := .raising } : Ramp).sigma = -1 := by decide +kernel

theorem test_meets_PeriodEnds :
    (rampAt .lowering).node ≠ 63 ∧ (∀ p, (rampAt .lowering).fc.test = some p → p.id ≠ .landInput .a)
      ∧ ((rampAt .lowering).ramp .a).state ≠ .disabled ∧ (State.reset.ramp .a).state = .disabled :=
  ⟨by decide +kernel, fun _ h => (Option.some_ne_none _ h.symm).elim, by decide +kernel, by decide +kernel⟩

/-- Channel A's checks at the edges of their ranges. -/
def checked (x : RampState) (pos : Int) (land stow : Bool) : State :=
  ramped fun r => { r with
    state := x, x := pos, land := settledAt land, stow := settledAt stow
    params := { r.params with stowPos := 100, deployPos := 200, wLand := 10, wStow := 10, wOver := 5, wUnder := 5
                              nSettle := 1, nStall := 1, tMotion := 1 } }

theorem test_meets_PeriodEndChecks :
    (∀ c ∈ [(checked .lowering 190 false false, RampState.lowering), (checked .lowering 189 false false, .lowering),
        (checked .raising 110 false false, .raising), (checked .raising 111 false false, .raising),
        (checked .landing 206 false false, .landing), (checked .landing 205 true false, .landing),
        (checked .landing 205 false false, .landing), (checked .stowing 94 false false, .stowing),
        (checked .stowing 95 false true, .stowing), (checked .stowing 95 false false, .stowing),
        (State.reset, .disabled)], (c.1.ramp .a).state = c.2)
      ∧ (State.reset.fc.test = none
        ∧ (let r := (ramped fun r => { r with overspeed := 2, s := 1 }).ramp .a
           r.params.vMax + r.params.vMargin < r.s.natAbs ∧ 3 ≤ r.overspeed + 1))
      ∧ (let r := (checked .lowering 0 false false).ramp .a
         r.params.vCreep ≤ r.vCmd.natAbs ∧ r.s = 0 ∧ r.params.nStall ≤ r.stall + 1)
      ∧ (let r := (ramped fun r => { r with state := .halting }).ramp .a
         r.params.tMotion * 1000 < r.motionTime + 10) := by decide +kernel

theorem test_meets_DriveTimes :
    (let s := ramped fun r => { r with recent := some 7, pwmZero := some 0 }
     Settled s ∧ (s.ramp .a).recent = some 7 ∧ (s.ramp .a).pwmZero = some 0 ∧ (s.ramp .a).pwmCentred = false)
      ∧ (∀ x ∈ [RampState.disabled, .fault, .halted], let s := ramped fun r => { r with
            state := x, conversion := some 7, params := { r.params with pMax := 100, nOver := 1 } }
        Settled s ∧ (s.ramp .a).conversion = some 7 ∧ s.fc.test = none ∧ (s.ramp .a).params.pMax < (101#12).toNat
          ∧ ¬ (s.ramp .a).params.pMax < (100#12).toNat ∧ (s.ramp .a).params.nOver ≤ (s.ramp .a).overload + 1) := by
  simp only [Settled]; decide +kernel

/-- Channel A with a valve, or a pin drive, on. -/
def driven : State :=
  ramped fun r => { r with state := .lowering, pwmZero := some 0, active := ⟨5, .lower⟩
                           params := { r.params with pwmN := 100 } }
def drivenOut : State := ramped fun r => { r with state := .starting, pinOut := true }
def drivenIn : State := ramped fun r => { r with state := .locking, pinIn := true }

theorem test_meets_OutputsOnlyInMotion :
    (RampsOk driven ∧ driven.valve .a .lower = true) ∧ (RampsOk drivenOut ∧ drivenOut.pinDriveOut .a = true)
      ∧ (RampsOk drivenIn ∧ drivenIn.pinDriveIn .a = true) := by
  refine ⟨⟨?_, by decide +kernel⟩, ⟨?_, by decide +kernel⟩, ?_, by decide +kernel⟩ <;>
    (simp only [RampsOk, RampQuiet]; decide +kernel)

/-! Door groups, calls and beacons. -/

/-- Group 0 in a state, with attribute FIRE, a close and open permit, in a deck condition. -/
def grouped (x : GroupState) (fire : Bool) (permit : Byte) (d : DeckCondition) : State :=
  let s := { doored x with dcc := { State.reset.dcc with deck := d } }
  s.setGroup 0 { s.group 0 with defn := { oneDoor with fire := fire, closePermit := permit, openPermit := permit } }

theorem test_meets_CloseJudged :
    (∀ x ∈ [GroupState.idle, .warning, .waitPermit, .closing, .closed, .incomplete, .opening, .stopped],
      ∀ b ∈ [true, false],
      let s := grouped x b (if b then 1 else 0) (if b then .emergency else .harbour)
      Settled s ∧ HasRoom s ∧ (s.group 0).defn.doors ≠ [] ∧ (s.group 0).state = x
        ∧ decide ((s.group 0).defn.fire = true ∧ s.dcc.deck = .emergency) = b)
      ∧ (State.reset.group 0).defn.doors = []
      ∧ (let s := grouped .idle false 1 .harbour
         (s.sec 4).status ≠ .corrupt ∧ s.condition (s.group 0).defn.closePermit = false)
      ∧ (let s := grouped .idle false 0 .harbour
         (s.sec 4).status ≠ .corrupt ∧ s.condition (s.group 0).defn.closePermit = true)
      ∧ (({ grouped .idle false 0 .harbour with ts := (corrupt 4).ts } : State).sec 4).status = .corrupt := by
  simp only [Settled, HasRoom]; decide +kernel

theorem test_meets_OpenAndStopJudged :
    (let s := grouped .closed true 0 .emergency
     Settled s ∧ HasRoom s ∧ (s.group 0).defn.doors ≠ [] ∧ (s.group 0).state ≠ .opening
       ∧ ((s.group 0).defn.fire = true ∧ s.dcc.deck = .emergency))
      ∧ (let s := grouped .closed false 0 .harbour
         Settled s ∧ HasRoom s ∧ (s.group 0).defn.doors ≠ [] ∧ (s.group 0).state ≠ .opening
           ∧ (s.group 0).defn.sea = false ∧ (s.sec 4).status ≠ .corrupt ∧ s.dls.hasPlace false = true
           ∧ s.condition (s.group 0).defn.openPermit = true ∧ s.bli.queue.length ≤ 24)
      ∧ (let s := grouped .closed false 1 .harbour
         (s.sec 4).status ≠ .corrupt ∧ s.condition (s.group 0).defn.openPermit = false)
      ∧ ((moving .closing (some 9) none).group 0).state = .closing
      ∧ (((moving .closing (some 9) none).group 0).steps.at 0).state = .commanded := by
  simp only [Settled, HasRoom]; decide +kernel

/-- Group 0 with its warning or spacing timer running. -/
def timed (x : GroupState) (mark : Bool) : State :=
  let s := doored x
  s.setGroup 0 { s.group 0 with warnTimer := some 9, spacing := some 9, mark := mark }

theorem test_meets_GroupTimersExpire :
    (∀ b ∈ [true, false], (timed .warning b).node ≠ 63 ∧ ((timed .warning b).group 0).warnTimer = some 9
        ∧ ((timed .warning b).group 0).mark = b)
      ∧ (∀ x ∈ [GroupState.closing, .opening], ((timed x false).group 0).spacing = some 9
        ∧ ((timed x false).group 0).state = x ∧ (((timed x false).group 0).steps.at 0).state = .waiting
        ∧ (0 : Fin 8).val < ((timed x false).group 0).defn.doors.length)
      ∧ (∀ x ∈ [GroupState.closing, .opening], (((moving x (some 9) none).group 0).steps.at 0).travel = some 9
        ∧ (((moving x (some 9) none).group 0).steps.at 0).state = .commanded
        ∧ (∀ j : Fin 8, j.val < ((moving x (some 9) none).group 0).defn.doors.length → j = 0))
      ∧ (((moving .closing none (some 9)).group 0).steps.at 0).retry = some 9 := by decide +kernel

/-- All nine general entries taken by calls of node 6. -/
def full (p : Priority) : State :=
  generalEntries.foldl (fun s e => s.setCall e (some (aCall 6 p)))
    { State.reset with cl := { State.reset.cl with order := generalEntries } }

theorem test_meets_PlaceAndCancelJudged :
    (∀ s ∈ [State.reset, State.reset.setCall 7 (some { aCall 5 .safety with zones := zoneSetOf (word16 0 1) }),
        full .information, { full .information with cl := { (full .information).cl with order := [] } }],
      Settled s ∧ HasRoom s)
      ∧ (1 ≤ word16 0 1 ∧ word16 0x0F 0xFF ≤ 4095 ∧ (63 : Byte).toNat ≤ 63 ∧ (3 : Byte).toNat ≤ 3
        ∧ (15 : Byte).toNat ≤ 15 ∧ (8 : Byte).toNat ≤ 8)
      ∧ (∀ e : Fin 16, 7 ≤ e.val → State.reset.cl.calls.at e = none)
      ∧ (∀ e : Fin 16, 7 ≤ e.val → (full .information).cl.calls.at e = some (aCall 6 .information))
      ∧ (full .information).victim = some (15, .information)
      ∧ ({ full .information with cl := { (full .information).cl with order := [] } } : State).victim = none
      ∧ (2 < Priority.information.code ∧ Priority.information.code ≤ 3) := by
  simp only [Settled, HasRoom]; decide +kernel

theorem test_meets_WaitAndBeaconTimers :
    (let s := State.reset.setCall 15 (some { aCall 5 .safety with ready := none, wait := some 9 })
     s.node ≠ 63 ∧ s.cl.calls.at 15 = some { aCall 5 .safety with ready := none, wait := some 9 })
      ∧ Settled (State.reset.setShown 7 ⟨1, 15, some 9, 0⟩)
      ∧ ((State.reset.setShown 7 ⟨1, 15, some 9, 0⟩).bd.shown.at 7).timer = some 9 := by
  simp only [Settled]; decide +kernel

/-! States for the clauses about silence, tests, swaps, zones and door steps. -/

theorem test_meets_EmptyQueueIsOneTick_due :
    State.reset.pending = [] ∧ State.reset.dueCommands = []
      ∧ (withTs fun x => { x with slotEnd := 0 }).dueCommands = [.scrubSlotEnd] := by decide +kernel

/-- Bridge silence begun, entry 10 showing it. -/
def silent : State :=
  ({ State.reset with bli := { State.reset.bli with silence := .expired } }).published 10 1

theorem test_meets_BridgeFrameGoesNoFurther_silent :
    Settled silent ∧ silent.bli.silence = .expired ∧ Settled listening
      ∧ restarting.node ≠ 63 ∧ restarting.bli.restarting = true := by
  simp only [Settled]; decide +kernel

theorem test_meets_BridgeFrameIsItsCommand_admitted :
    (Settled (corrupt 2) ∧ HasRoom (corrupt 2) ∧ ((corrupt 2).sec 2).status = .corrupt
        ∧ (sent 0 .command 1 3).cls = .command ∧ (sent 0 .command 1 3).verb = 3)
      ∧ ∀ x ∈ [(passing 5, Action.guard), (passing 6, .hold)],
        Settled x.1 ∧ HasRoom x.1 ∧ (x.1.firstMatch true (sent 0 .call 16 1)).map (fun p => (p.action, p.cond))
          = some (x.2, 0) ∧ x.1.timerRestarted.condition 0 = true := by
  simp only [Settled, HasRoom]; decide +kernel

theorem test_meets_PassageToTheDeck_inward :
    (∀ f ∈ [sent 0 .command 1 1, sent 0 .call 16 1], receive (onLine f) = some f ∧ f.src ≠ State.reset.node
        ∧ ¬ (f.cls = .command ∧ f.verb = 3 ∧ f.dest = State.reset.node)
        ∧ State.reset.firstMatch true f = none
        ∧ ∀ x ∈ [(passing 2, Action.drop), (passing 3, .refuse), (passing 5 1, .guard), (passing 6 1, .hold)],
          (x.1.firstMatch true f).map (·.action) = some x.2)
      ∧ Settled (corrupt 2) ∧ HasRoom (corrupt 2) ∧ ((corrupt 2).sec 2).status = .corrupt
      ∧ Settled silent ∧ HasRoom silent := by
  simp only [Settled, HasRoom]; decide +kernel

theorem test_meets_HeldRecordExpires_released :
    (let a : HeldRec := ⟨toDeck, 1, false, 31⟩
     let b : HeldRec := ⟨toDeck, 0, false, 30⟩
     let s : State := { State.reset with held := [a, b] }
     s.held = [a] ++ b :: [] ∧ s.condition a.cond = false ∧ s.condition b.cond = true)
      ∧ toDeck.dest ≠ State.reset.node ∧ (sent 0 .command 4 1).dest = State.reset.node
      ∧ State.reset.dls.hasPlace false = true
      ∧ Dls.hasPlace { State.reset.dls with normal := List.replicate 16 (deckRec false) } false = false := by
  decide +kernel

theorem test_meets_BadFormIsAnswered_test :
    let wrong : Byte → Byte → Prop := fun i a =>
      i = 0 ∨ 8 ≤ i.toNat ∨ i.toNat ≤ 6 ∧ a ≠ 0 ∨ i = 7 ∧ (a = 0 ∨ 4 ≤ a.toNat)
    wrong 0 0 ∧ wrong 8 0 ∧ wrong 6 1 ∧ wrong 1 1 ∧ wrong 7 0 ∧ wrong 7 4 := by simp

theorem test_meets_ReadingChangesNothing_replies :
    (withTs fun x => { x with copy := some ⟨2, 9⟩ }).ts.copy = some ⟨2, 9⟩
      ∧ (full .safety).cl.calls.at 15 = some (aCall 6 .safety) ∧ (full .safety).cl.calls.at 6 = none
      ∧ State.reset.objectState 16 16 = none ∧ State.reset.objectState 3 0 = none
      ∧ State.reset.objectState 8 0 = none ∧ State.reset.objectState 0 1 = none
      ∧ (flagBytes State.reset.fc.flags).length = 5 := by decide +kernel

theorem test_meets_CommitJudged_checked :
    ready.inconsistency 128 = none ∧ State.reset.inconsistency 1 = some (0, 255)
      ∧ badTerm [] 24 0 0 = true ∧ badTerm [] 23 3 254 = false ∧ badTerm [(0, 1)] 32 0 0 = false := by
  decide +kernel

/-- Zone 0 mapped to remote entry 0 and owned by a call in general entry 7 under a mark; entry 0's zone has
none. -/
def owned (m : Mark) (reps : Nat) : State :=
  let s := (doored .idle).setCall 7 (some
    { aCall 5 .safety with reps := reps, marks := (Tab.fill 12 .none).put 0 m })
  { s with cl := { s.cl with order := [7] } }.setZone 0
    { State.reset.cl.zones.at 0 with owner := some 7, index := 32 }

theorem test_meets_SwapAndCopy_blocks :
    ((State.reset.ramp .a).state = .disabled ∧ RampParams.reset.enable = false)
      ∧ ((rampAt .halted).ramp .a).state ≠ .disabled
      ∧ ({ RampParams.reset with enable := true } : RampParams).enable = true
      ∧ ((doored .idle).group 0).defn.doors = oneDoor.doors
      ∧ ((doored .idle).group 0).defn.doors ≠ GroupDef.reset.doors
      ∧ (State.reset.ownerCall 0 = none)
      ∧ ((owned (.playing .sent) 0).ownerCall 0).map (·.2.isPlaying 0) = some true
      ∧ ((owned (.pending false) 0).ownerCall 0).map (·.2.isPlaying 0) = some false
      ∧ (∀ b ∈ [true, false], ∀ t ∈ [0, 500],
        let s := { if b then silent else listening with settings := { State.reset.settings with tBridge := t } }
        (s.settings.tBridge = 0 ↔ t = 0) ∧ (s.bli.silence = .expired ↔ b = true)) := by
  decide +kernel

theorem test_meets_SetConditionJudged_groups :
    ∀ x ∈ [GroupState.idle, .warning, .waitPermit, .closing, .closed, .incomplete, .opening, .stopped],
      ((seaGroup x).group 0).defn.sea = true ∧ ((seaGroup x).group 0).state = x
        ∧ ((seaGroup x).group 1).defn.sea = false := by decide +kernel

theorem test_meets_SwitchAccepted_warned :
    let s := starting .lower false false false 0
    let t := s.setRamp .a { s.ramp .a with warned := true, warnTimer := none }
    Settled t ∧ ((t.ramp .a).filterOf .pinsOut).seen = true ∧ ((t.ramp .a).filterOf .pinsOut).level ≠ true
      ∧ (t.ramp .a).state = .starting ∧ (t.ramp .a).warned = true := by
  simp only [Settled]; decide +kernel

theorem test_meets_EncoderEdges_forms :
    Settled State.reset ∧ (State.reset.ramp .a).state = .disabled
      ∧ ((rampAt .halted).ramp .a).encA.level ≠ true ∧ ((rampAt .halted).ramp .a).encB.level ≠ true
      ∧ (-8388608 < ((rampAt .halted).ramp .a).x ∧ ((rampAt .halted).ramp .a).x < 8388607) := by
  simp only [Settled]; decide +kernel

/-- Channel A under a proof test of its own. -/
def underTest (x : RampState) (id : TestId) (steps : Nat) : State :=
  { rampAt x with fc := { State.reset.fc with test := some ⟨id, 0, steps⟩ } }

theorem test_meets_PeriodEnds_landInput :
    ∀ n ∈ [0, 1, 2],
      let s := underTest .stowedLocked (.landInput .a) n
      s.node ≠ 63 ∧ s.fc.test = some ⟨.landInput .a, 0, n⟩ ∧ (s.ramp .a).state = .stowedLocked ∧ HasRoom s
        ∧ ((s.ramp .a).estimate (max s.now (s.ramp .a).periodAt)).natAbs
          ≤ (s.ramp .a).params.vMax + (s.ramp .a).params.vMargin
        ∧ (s.ramp .a).motionTime ≤ (s.ramp .a).params.tMotion * 1000 := by
  simp only [HasRoom]; decide +kernel

theorem test_meets_PeriodEndChecks_overspeed :
    (∀ x ∈ [(0, 0), (1, 1), (0, 2), (2, 2)],
      let s := (underTest .stowedLocked (.overspeed .a) x.2)
      let t := s.setRamp .a { s.ramp .a with overspeed := x.1 }
      t.fc.test = some ⟨.overspeed .a, 0, x.2⟩ ∧ (t.ramp .a).overspeed = x.1)
      ∧ 3 ≤ 2 + 1 ∧ 0 + 1 < 3 := by decide +kernel

theorem test_meets_DriveTimes_overload :
    ∀ x ∈ [(100, 1, 0), (100, 2, 0), (4095, 1, 1), (4095, 1, 0)],
      let s := underTest .stowedLocked (.overload .a) x.2.2
      let t := s.setRamp .a { s.ramp .a with
        conversion := some 7, params := { RampParams.reset with pMax := x.1, nOver := x.2.1 } }
      t.node ≠ 63 ∧ (t.ramp .a).conversion = some 7 ∧ t.fc.test = some ⟨.overload .a, 0, x.2.2⟩
        ∧ (t.ramp .a).state = .stowedLocked
        ∧ (let count := if (t.ramp .a).params.pMax < 4095 then (t.ramp .a).overload + 1 else 0
           ((t.ramp .a).params.nOver ≤ count ∧ 0 < count) ∨ (t.ramp .a).params.nOver + 1 ≤ x.2.2 + 1
             ∨ x.2.2 + 1 < (t.ramp .a).params.nOver + 1) := by decide +kernel

theorem test_meets_GroupTimersExpire_steps :
    (∀ x ∈ [GroupState.idle, .warning, .waitPermit, .closing, .closed, .incomplete, .opening, .stopped],
      let s := moving x (some 9) none
      (s.group 0).state = x ∧ (s.group 0).defn.doors[(0 : Fin 8).val]? = some 0
        ∧ ((s.group 0).steps.at 0).state = .commanded ∧ ((s.group 0).steps.at 0).travel ≠ none
        ∧ ((s.group 0).steps.at 0).attempts < 3)
      ∧ (∀ x ∈ [StepState.confirmed, .failed], ∀ j : Fin 8,
        j.val < (((moving .closing none none).setStep 0 0 { Step.reset with state := x }).group 0).defn.doors.length →
          (((moving .closing none none).setStep 0 0 { Step.reset with state := x }).group 0).steps.at j
            = { Step.reset with state := x })
      ∧ ((doored .closing).group 0).state = .closing ∧ (((doored .closing).group 0).steps.at 0).state = .waiting
      ∧ (5 : Byte) ≠ ((State.reset.group 0).steps.at 0).issue := by decide +kernel

theorem test_meets_PlaceAndCancelJudged_zones :
    (owned (.playing .sent) 0).cl.calls.at 7 ≠ none
      ∧ ((owned (.playing .sent) 0).cl.choose 0 = some 7 ∧ (owned .done 0).cl.choose 0 = none)
      ∧ ((owned (.playing .sent) 0).cl.zones.at 0).owner = some 7
      ∧ ((owned (.playing .sent) 0).ownerCall 0).map (·.1) = some 7
      ∧ ((owned .done 1).ownerCall 0).map (·.2.marks.at 0) = some .done
      ∧ (owned (.playing .sent) 0).zoneTarget 0 = some (3, 4) ∧ State.reset.zoneTarget 0 = none
      ∧ (owned (.playing .sent) 0).entryReady 7 (aCall 5 .safety) = true
      ∧ State.reset.entryReady 7 (aCall 5 .safety) = false := by decide +kernel

theorem test_meets_WaitAndBeaconTimers_zones :
    (∀ m ∈ [Mark.pending true, .pending false, .playing .sent, .playing .accepted, .playing .heard, .done],
      ∀ n ∈ [0, 1], ((owned m n).ownerCall 0).map (fun x => (x.1, x.2.marks.at 0, x.2.reps)) = some (7, m, n)
        ∧ ((owned m n).cl.zones.at 0).index = 32 + (0 : Fin 96).val)
      ∧ (0 : Byte) = ((owned (.playing .sent) 0).cl.zones.at 0).issue
      ∧ (1 : Byte) ≠ ((owned (.playing .sent) 0).cl.zones.at 0).issue
      ∧ State.reset.ownerCall 0 = none := by decide +kernel

/-! States for the clauses about samples, notices, offers, the gate, starts and outputs. -/

/-- A filter whose run of samples of another level has a length. -/
def sampledFor (n : Nat) : InputFilter := { level := false, seen := true, sampled := true, run := n }

theorem test_meets_EmptyQueueIsOneTick_filters :
    (∀ n ∈ [0, 1, 5, 10, 20], (true = (sampledFor n).sampled) ∧ (false ≠ (sampledFor n).sampled)
        ∧ ¬ (sampledFor n).accepts (n + 1) = true ∧ (sampledFor n).accepts n = true)
      ∧ State.reset.node ≠ 63
      ∧ Instr.estopAccepted true ∈ ({ State.reset with estop := sampledFor 10 } : State).dueCommands
      ∧ Instr.estopAccepted true ∉ ({ State.reset with estop := sampledFor 9 } : State).dueCommands
      ∧ Instr.rampSwitchAccepted .a .land true ∈ (ramped fun r => { r with land := sampledFor 5 }).dueCommands
      ∧ Instr.rampSwitchAccepted .a .land true ∉ (ramped fun r => { r with land := sampledFor 4 }).dueCommands := by
  decide +kernel

theorem test_meets_QueuesTakeFrames_placed :
    (enqueue [] aReply).2 = .joined
      ∧ (enqueue (List.replicate 31 aReply ++ [aStatus 1]) aReply).2 = .overran
      ∧ (∀ b ∈ [true, false], (enqueue (List.replicate 32 aReply) { aReply with restartReply := b }).2 = .discarded)
      ∧ (State.reset.bli.tx = none ∧ State.reset.bli.queue = []) := by decide +kernel

theorem test_meets_FlagsAndAlarm_announced :
    State.reset.img.locals.at 11 = State.reset.fc.summary.zeroExtend 8
      ∧ (let c := State.reset.fc
         summaryOf c.flags c.masks = c.summary ∧ alarmOf c.flags c.summary c.summaryMasks = c.alarm
           ∧ alarmOf c.flags c.summary c.summaryMasks ≠ !c.alarm ∧ summaryOf 1 c.masks ≠ c.summary)
      ∧ State.reset.fc.owed = false ∧ restarting.fc.owed = false ∧ State.reset.agenda = []
      ∧ State.reset.dls.choose = false := by decide +kernel

/-- Group 0's step and zone 0 with a frame that found no place. -/
def refusedPlace (urgent : Bool) : State :=
  let s := doored .closing
  (s.setStep 0 0 { Step.reset with pendingStop := some (deckRec true), pendingCmd := some (deckRec false) }).setZone 0
    { State.reset.cl.zones.at 0 with pendingCut := some (deckRec urgent), pendingPlay := some (deckRec urgent) }

theorem test_meets_ArbiterChooses_offers :
    (∀ b ∈ [true, false], (((refusedPlace b).group 0).steps.at 0).pendingStop = some (deckRec true)
        ∧ (((refusedPlace b).group 0).steps.at 0).pendingCmd = some (deckRec false)
        ∧ ((refusedPlace b).cl.zones.at 0).pendingPlay = some (deckRec b)
        ∧ (refusedPlace b).dls.hasPlace b = true)
      ∧ (((doored .closing).group 0).steps.at 0).pendingStop = none
      ∧ (((doored .closing).group 0).steps.at 0).pendingCmd = none
      ∧ (deckRec true).origin = .bridge 5 := by decide +kernel

theorem test_meets_ImageChanges_gate :
    State.reset.ts.commit = none
      ∧ (∀ ch : Channel, State.reset.img.locals.at ch.stateEntry ∉ ([2, 3, 4, 6, 7, 8, 9, 11] : List Byte))
      ∧ (∀ g : Fin 4, State.reset.img.locals.at (groupEntry g) ∉ ([1, 2, 3, 6] : List Byte))
      ∧ (rampIn .jog).img.locals.at 1 ∈ ([2, 3, 4, 6, 7, 8, 9, 11] : List Byte) := by
  refine ⟨by decide +kernel, fun ch => ?_, by decide +kernel, by decide +kernel⟩
  cases ch <;> decide +kernel

/-- Channel A in STARTING, its call in the list, ready or not. -/
def called (isReady : Bool) (prewarn : Nat) (out : Bool) : State :=
  (ramped fun r => { r with
    state := .starting, dir := .lower, pinsOut := settledAt out
    params := { r.params with tPrewarn := prewarn } }).setCall 4
      (some { aCall 5 .safety with origin := .ramp .a, ready := if isReady then some 0 else none })

theorem test_meets_StartingLeft_begins :
    ∀ b ∈ [true, false], ∀ n ∈ [0, 1],
      let s := called true n b
      ((s.cl.calls.at Channel.a.callEntry).any fun c => c.ready.isSome) = true ∧ (s.ramp .a).state = .starting
        ∧ (s.ramp .a).warned = false ∧ (s.ramp .a).warnTimer = none ∧ (s.ramp .a).params.tPrewarn = n
        ∧ (s.ramp .a).pinsOut.level = b
        ∧ ((called false n b).cl.calls.at Channel.a.callEntry).map (·.ready) = some none := by decide +kernel

theorem test_meets_EstopHaltsChannels_first :
    ∀ x ∈ rampStates, Settled (rampAt x) ∧ (rampAt x).estop.seen = false ∧ (rampAt x).estop.level = false
      ∧ ((rampAt x).ramp .a).state = x := by
  simp only [Settled]; decide +kernel

theorem test_meets_PeriodEnds_stages :
    (∀ x ∈ [RampState.lowering, .halting, .jog], (rampAt x).node ≠ 63 ∧ ((rampAt x).ramp .a).state = x
        ∧ ¬ (((rampAt x).ramp .a).state = .disabled ∨ ((rampAt x).ramp .a).state = .fault))
      ∧ ((rampAt .fault).ramp .a).state = .fault := by decide +kernel

theorem test_meets_PeriodEndChecks_stages :
    (∀ x ∈ [(RampState.lowering, Dir.lower), (.landing, .lower), (.raising, .raise), (.stowing, .raise), (.jog, .raise)],
      ∀ c ∈ [0, 1], let s := ramped fun r => { r with
          state := x.1, dir := x.2, params := { r.params with lowerPermit := c, raisePermit := c } }
        (s.ramp .a).state = x.1 ∧ s.condition c = (c == 0))
      ∧ (∀ n ∈ [0, 1, 2], let s := ramped fun r => { r with
          state := .landed, lift := n, params := { r.params with nLift := 2 } }
        (s.ramp .a).state = .landed ∧ (s.ramp .a).land.level = false ∧ (s.ramp .a).lift = n)
      ∧ (∀ d ∈ [Dir.none, .lower, .raise],
        let s := ramped fun r => { r with state := .halting, pendingStart := d }
        let v := s.setRamp .a (s.ramp .a).profile
        (v.ramp .a).state = .halting ∧ (v.ramp .a).vCmd = 0 ∧ (v.ramp .a).pendingStart = d)
      ∧ ((rampAt .landed).ramp .a).state ∉ [RampState.lowering, .landing, .raising, .stowing, .jog] := by
  decide +kernel

theorem test_meets_OutputsOnlyInMotion_on :
    ((driven.ramp .a).pwmZero = some 0 ∧ (State.reset.ramp .b).pwmZero = none ∧ Dir.lower ≠ .none)
      ∧ (∀ t ∈ [0, 4, 195, 199], ({ driven with now := t } : State).valve .a .lower = true)
      ∧ (∀ t ∈ [5, 194], ({ driven with now := t } : State).valve .a .lower = false)
      ∧ (toDeck.bytes[0]? = some 7 ∧ (10 : Nat) < 11)
      ∧ (withDls fun x => { x with line := .sending toDeck 1000 }).dls.line = .sending toDeck 1000
      ∧ (∀ n ∈ [0, 1, 31], ((State.reset.setShown 7 ⟨1, 15, some 9, n⟩).bd.shown.at 7).level = n)
      ∧ (State.reset.bd.shown.at 7).timer = none := by decide +kernel

/-- Group 0 in WARNING, its own call and entry 6 in the list, its times one of two. -/
def warning (mark : Bool) (time : Nat) : State :=
  let s := doored .warning
  let c := { aCall 5 .safety with origin := .group 0 }
  ((s.setGroup 0 { s.group 0 with mark := mark, defn := { oneDoor with tWarn := time, tEwarn := time } }).setCall 0
    (some c)).setCall 6 (some c)

theorem test_meets_GroupTimersExpire_begins :
    (∀ b ∈ [true, false], ∀ n ∈ [0, 5], let s := warning b n
      (∀ e ∈ [groupCallEntry 0, 6], ((s.cl.calls.at e).any fun c => c.ready.isSome) = true)
        ∧ (s.group 0).state = .warning ∧ (s.group 0).mark = b ∧ (s.group 0).ready = false
        ∧ (if (s.group 0).mark then (s.group 0).defn.tEwarn else (s.group 0).defn.tWarn) = n)
      ∧ (State.reset.cl.calls.at (groupCallEntry 0) = none ∧ (State.reset.group 0).state ≠ .warning)
      ∧ (State.reset.cl.calls.at 6 = none ∧ (warning true 5).cl.calls.at 6 ≠ none)
      ∧ ((doored .closing).group 0).defn.doors[(0 : Fin 8).val]? = some 0
      ∧ (DoorCmd.close ≠ .stop ∧ (5 : Byte) ≠ (((doored .idle).group 0).steps.at 0).issue)
      ∧ (((doored .idle).img.defs.at 0).kind = .door ∧ ((doored .idle).img.defs.at 1).kind ≠ .door) := by
  decide +kernel

theorem test_meets_WaitAndBeaconTimers_stale :
    (1 : Byte) ≠ ((owned (.playing .sent) 0).cl.zones.at 0).issue
      ∧ ((owned (.playing .sent) 0).ownerCall 0).map (·.2.isPlaying 0) = some true
      ∧ ((owned (.pending false) 0).ownerCall 0).map (·.2.isPlaying 0) = some false
      ∧ ((owned (.playing .sent) 0).zoneTarget 0).map Prod.fst ≠ some (sent 9 .call 4 1).dest
      ∧ ((owned (.playing .sent) 0).zoneTarget 0).map Prod.fst = some (sent 3 .call 4 1).dest
      ∧ (State.reset.ownerCall 0 = none ∧ State.reset.zoneTarget 0 = none) := by decide +kernel

/-! ### What one event does at its corners -/

/-- The first level since full reset, active: the flags are raised and nothing is halted (R82, R185, log 47). -/
theorem test_first_estop_raises_flags :
    let t := after (.estopAccepted true) (rampAt .lowering)
    t.fc.flags = Flag.sectionEmpty.bit ||| (Flag.ramp .a .estop).bit ∧ (t.ramp .a).state = .lowering := by decide +kernel

/-- Both channels enabled: E-STOP changes the summary twice, and one notice tells its value at the end (R189). -/
theorem test_one_notice_per_event :
    let s := (rampAt .halted).setRamp .b { Ramp.reset with state := .halted }
    ((told (after (.estopAccepted true) { s with estop := settledAt false })).filter fun x => x.1 = 31)
      = [(31, 76, [1])] := by decide +kernel

/-- STARTING left for HALTED: the motion time is 0 (R101). -/
theorem test_motion_time_zero :
    ((after (.rampStop .a bare) (ramped fun r => { r with state := .starting, motionTime := 9 })).ramp .a).motionTime
      = 0 := by decide +kernel

/-- The report of a call that is not ready starts no warning (R91). -/
theorem test_stale_report_ignored :
    (((called false 1 true).handle (.callReady 4)).ramp .a).warnTimer = none
      ∧ (((called true 1 true).handle (.callReady 4)).ramp .a).warnTimer = some Config.second := by decide +kernel

/-- The report that entry 6 was removed begins a marked warning's time only while entry 6 is absent (R135). -/
theorem test_removal_report :
    (((warning true 5).handle .emergencyCallRemoved).group 0).warnTimer = none
      ∧ ((((warning true 5).setCall 6 none).handle .emergencyCallRemoved).group 0).warnTimer
        = some (5 * Config.second) := by decide +kernel

/-- A stale CLOSE to entry 1 is followed by a STOP to entry 1, though the step's door is entry 0 (R131). -/
theorem test_stop_follows_its_close :
    let s := doored .idle
    let s := { s with img := { s.img with defs := s.img.defs.put 1 ⟨.door, 8, 9, .fast, 100⟩ } }
    (s.doorFrameStarted 0 0 5 .close 1 (sent 8 .command 9 1)).dls.urgent.map (fun r => (r.frame.dest, r.frame.object))
      = [(8, 9)] := by decide +kernel

/-- A stale PLAY to another node: the CUT that follows carries the issue before the owner's new PLAY (R154). -/
theorem test_cut_carries_old_issue :
    ((owned (.playing .sent) 0).zoneFrameStarted 0 5 true false (sent 9 .call 4 1)).dls.normal.map (·.origin)
      = [.zone 0 0 false, .zone 0 1 true] := by decide +kernel

/-- READ_IMAGE shows the whole node byte of an unused definition (R171). -/
theorem test_node_byte_shown :
    let s := { State.reset with img := { State.reset.img with
      defs := State.reset.img.defs.put 0 ⟨.none, 200, 0, .fast, 0⟩ } }
    (told (after (.readImage (ask [32])) s)).map (fun x => x.2.2.drop 8) = [[200, 0, 0, 0]] := by decide +kernel

/-! What every step keeps. -/

/-- A LOAD waiting, and the state after it. -/
def toLoad : State := { State.reset with pending := [.load (ask [3, 0, 0, 1])] }

theorem test_meets_TablesStayCanonical :
    (∃ t, step toLoad = .next t) ∧ TablesOk toLoad := by
  refine ⟨⟨after (.load (ask [3, 0, 0, 1])) State.reset, rfl⟩, ?_⟩
  simp only [TablesOk]; decide +kernel

theorem test_meets_QueuesStayBounded :
    (∃ t, step toLoad = .next t) ∧ BridgeQueueOk toLoad ∧ DeckQueueOk toLoad ∧ HeldListOk toLoad := by
  refine ⟨⟨after (.load (ask [3, 0, 0, 1])) State.reset, rfl⟩, ?_⟩
  simp only [BridgeQueueOk, DeckQueueOk, HeldListOk]; decide +kernel

theorem test_meets_OutputsAndEntriesStayTrue :
    (∃ t, step toLoad = .next t) ∧ RampsOk toLoad ∧ PublishedOk toLoad ∧ SummaryOk toLoad := by
  refine ⟨⟨after (.load (ask [3, 0, 0, 1])) State.reset, rfl⟩, ?_, ?_, ?_⟩ <;>
    (simp only [RampsOk, RampQuiet, PublishedOk, SummaryOk, forChannels]; decide +kernel)

theorem test_meets_InvariantsHoldAtReset :
    exec (.fullReset 0) State.reset = .next (after (.fullReset 0) State.reset) := rfl

end Sys2Proof.Tests
end

section
/-! SUPPORT. The poll rotation's walk, place by place (R32, R33). -/

namespace Sys2Proof.Machine

open Sys2Proof

/-! ### The places of the walk -/

/-- The entry the walk reaches after n moves from the pointer (R33). -/
def Image.walkEntry (i : Image) (n : Nat) : Fin 96 := Fin.ofNat 96 (i.pointer.val + n)

/-- The pass counter as the walk has it after n moves from the pointer (R33). -/
def Image.walkPass (i : Image) (n : Nat) : Fin 8 := Fin.ofNat 8 (i.pass.val + (i.pointer.val + n) / 96)

/-- Whether the entry n moves from the pointer is eligible in the pass of its place. -/
def Image.eligibleAt (i : Image) (n : Nat) : Bool := (i.defs.at (i.walkEntry n)).eligible (i.walkPass n)

@[simp] theorem Image.walkEntry_zero (i : Image) : i.walkEntry 0 = i.pointer :=
  Fin.ext (Nat.mod_eq_of_lt i.pointer.isLt)

@[simp] theorem Image.walkPass_zero (i : Image) : i.walkPass 0 = i.pass := by
  apply Fin.ext
  simp only [Image.walkPass, Fin.val_ofNat]
  omega

/-- A move goes to the next entry, and from the last to the first. -/
theorem Image.walkEntry_succ (i : Image) (n : Nat) : i.walkEntry (n + 1) = i.walkEntry n + 1 := by
  apply Fin.ext
  simp only [Image.walkEntry, Fin.val_ofNat, Fin.val_add, Fin.val_one]
  omega

/-- A move from the last entry begins the next pass. -/
theorem Image.walkPass_succ (i : Image) (n : Nat) :
    i.walkPass (n + 1) = if i.walkEntry n = 95 then i.walkPass n + 1 else i.walkPass n := by
  have wraps : i.walkEntry n = 95 ↔ (i.pointer.val + n) % 96 = 95 := Fin.ext_iff
  apply Fin.ext
  split <;> simp only [Image.walkPass, Fin.val_ofNat, Fin.val_add, Fin.val_one] <;> omega

/-- The walk comes round after 768 moves: every entry in every pass. -/
theorem Image.eligibleAt_mod (i : Image) (n : Nat) : i.eligibleAt (n % 768) = i.eligibleAt n := by
  have entry : i.walkEntry (n % 768) = i.walkEntry n := by
    apply Fin.ext
    simp only [Image.walkEntry, Fin.val_ofNat]
    omega
  have pass : i.walkPass (n % 768) = i.walkPass n := by
    apply Fin.ext
    simp only [Image.walkPass, Fin.val_ofNat]
    omega
  simp only [Image.eligibleAt, entry, pass]

/-- The first eligible place of the unbounded walk lies within 768 moves. -/
theorem Image.lt_of_first_eligibleAt (i : Image) {n : Nat} (eligible : i.eligibleAt n = true)
    (first : ∀ m, m < n → ¬ i.eligibleAt m = true) : n < 768 := by
  by_contra late
  exact first (n % 768) (by omega) (i.eligibleAt_mod n ▸ eligible)

/-! ### Eligibility -/

theorem ObjDef.used_iff (d : ObjDef) : d.used = true ↔ d.kind ≠ .none := by
  simp [ObjDef.used]

theorem ObjDef.eligible_iff (d : ObjDef) (pass : Fin 8) :
    d.eligible pass = true ↔ d.kind ≠ .none ∧ (d.poll = .fast ∨ pass = 0) := by
  simp [ObjDef.eligible, ObjDef.used]

theorem Image.anyUsed_iff (i : Image) : i.anyUsed = true ↔ ∃ d, (i.defs.at d).used = true := by
  simp [Image.anyUsed]

/-- The walk meets every entry in pass 0. -/
theorem Image.exists_walkEntry_walkPass_zero (i : Image) (d : Fin 96) :
    ∃ n, i.walkEntry n = d ∧ i.walkPass n = 0 := by
  refine ⟨d.val + 96 * (16 - i.pass.val) - i.pointer.val, Fin.ext ?_, Fin.ext ?_⟩ <;>
    simp only [Image.walkEntry, Image.walkPass, Fin.val_ofNat, Fin.val_zero] <;> omega

/-- Some place is eligible exactly when some entry is used: every used entry is eligible in pass 0. -/
theorem Image.exists_eligibleAt_iff (i : Image) : (∃ n, i.eligibleAt n = true) ↔ i.anyUsed = true := by
  simp only [Image.eligibleAt, ObjDef.eligible_iff, i.anyUsed_iff, ObjDef.used_iff]
  constructor
  · rintro ⟨n, used, -⟩
    exact ⟨i.walkEntry n, used⟩
  · rintro ⟨d, used⟩
    obtain ⟨n, rfl, pass⟩ := i.exists_walkEntry_walkPass_zero d
    exact ⟨n, used, .inr pass⟩

/-! ### The due poll -/

/-- The walk from a place looks for the first eligible place at or after it. -/
theorem Image.walk_eq_find? (i : Image) (k n : Nat) :
    walk i.defs k (i.walkEntry n) (i.walkPass n)
      = ((List.range' n k).find? i.eligibleAt).map fun m => (i.walkEntry m, i.walkPass m) := by
  induction k generalizing n with
  | zero => rfl
  | succ k ih =>
    rw [walk, List.range'_succ, List.find?_cons, ← i.walkEntry_succ, ← i.walkPass_succ, ih]
    change (if i.eligibleAt n = true then _ else _) = _
    cases i.eligibleAt n <;> rfl

/-- The due poll is found by looking along one round of the walk. -/
theorem State.duePoll_eq_find? (s : State) :
    s.duePoll = ((List.range 768).find? s.img.eligibleAt).map
      fun n => (s.img.walkEntry n, s.img.walkPass n) := by
  unfold State.duePoll
  split
  · next used =>
    rw [List.range_eq_range', ← s.img.walk_eq_find?, s.img.walkEntry_zero, s.img.walkPass_zero]
  · next unused =>
    have never : ∀ n ∈ List.range 768, ¬ s.img.eligibleAt n = true := fun n _ eligible =>
      unused (s.img.exists_eligibleAt_iff.mp ⟨n, eligible⟩)
    rw [List.find?_eq_none.mpr never, Option.map_none]

/-- No poll is due exactly when no remote entry is used (R33). -/
theorem State.duePoll_eq_none_iff (s : State) : s.duePoll = none ↔ ∀ d, (s.img.defs.at d).kind = .none := by
  have oneRound : (∃ n ∈ List.range 768, s.img.eligibleAt n = true) ↔ ∃ n, s.img.eligibleAt n = true :=
    ⟨fun ⟨n, _, eligible⟩ => ⟨n, eligible⟩, fun ⟨n, eligible⟩ =>
      ⟨n % 768, List.mem_range.mpr (by omega), s.img.eligibleAt_mod n ▸ eligible⟩⟩
  calc s.duePoll = none
      ↔ ¬ ∃ n ∈ List.range 768, s.img.eligibleAt n = true := by simp [s.duePoll_eq_find?]
    _ ↔ ¬ ∃ d, (s.img.defs.at d).kind ≠ .none := by
      simp only [oneRound, s.img.exists_eligibleAt_iff, s.img.anyUsed_iff, ObjDef.used_iff]
    _ ↔ ∀ d, (s.img.defs.at d).kind = .none := not_exists_not

/-- The due poll is the entry and the pass of the first eligible place (R33). -/
theorem State.duePoll_eq_some_iff (s : State) (d : Fin 96) (p : Fin 8) :
    s.duePoll = some (d, p) ↔ ∃ n, s.img.walkEntry n = d ∧ s.img.walkPass n = p
      ∧ s.img.eligibleAt n = true ∧ ∀ m, m < n → ¬ s.img.eligibleAt m = true := by
  simp only [s.duePoll_eq_find?, Option.map_eq_some_iff, Prod.mk.injEq, List.find?_range_eq_some,
    Bool.not_eq_true', ← Bool.not_eq_true, List.mem_range]
  constructor
  · rintro ⟨n, ⟨eligible, -, first⟩, entry, pass⟩
    exact ⟨n, entry, pass, eligible, first⟩
  · rintro ⟨n, entry, pass, eligible, first⟩
    exact ⟨n, ⟨eligible, s.img.lt_of_first_eligibleAt eligible first, first⟩, entry, pass⟩

/-- Settles O34: the walk looks along its places in order, one round of 768 holds every entry in every pass,
and in pass 0 every used entry is eligible. -/
theorem duePollIsFirstEligible : Obligations.DuePollIsFirstEligible := by
  intro s entry pass eligible
  have eligibleAt_iff : ∀ n, s.img.eligibleAt n = true ↔ eligible n := fun n => ObjDef.eligible_iff _ _
  refine ⟨s.duePoll_eq_none_iff, fun d p => ?_⟩
  simp only [← eligibleAt_iff]
  exact s.duePoll_eq_some_iff d p

end Sys2Proof.Machine
end

section
/-! SUPPORT. The acceptance of an incomplete closing: what the published entries say of channels and groups, and
what a change of the deck condition after an answer keeps and tells (R43, R45, R49). -/

namespace Sys2Proof.Machine

open Sys2Proof

/-! ### What the published entries say -/

/-- Different states of a group have different codes (R128). -/
theorem GroupState.code_injective : Function.Injective GroupState.code := by
  intro a b
  cases a <;> cases b <;> decide

/-- The two states of a channel that lets the deck close have codes 0 and 1 (R80). -/
theorem RampState.code_eq_zero_or_one_iff (st : RampState) :
    st.code = 0 ∨ st.code = 1 ↔ st = .disabled ∨ st = .stowedLocked := by
  cases st <;> decide

theorem State.groupValue_eq_code_iff {s : State} (published : PublishedOk s) (g : Fin 4) (st : GroupState) :
    s.groupValue g = st.code ↔ (s.group g).state = st := by
  obtain ⟨-, -, groups⟩ := published
  rw [State.groupValue, groups g, GroupState.code_injective.eq_iff]

theorem State.mem_seaGroups (s : State) (g : Fin 4) : g ∈ s.seaGroups ↔ (s.group g).defn.sea = true := by
  have all : g ∈ allGroups := by revert g; decide
  simp [State.seaGroups, all]

/-- Every enabled channel reads STOWED_LOCKED (R47, R48, R49). -/
theorem State.rampsStowed_iff {s : State} (published : PublishedOk s) :
    s.rampsStowed = true ↔ ∀ ch, (s.ramp ch).state = .disabled ∨ (s.ramp ch).state = .stowedLocked := by
  obtain ⟨-, ramps, -⟩ := published
  have both : s.rampsStowed = true ↔ ∀ ch, s.rampEntry ch = 0 ∨ s.rampEntry ch = 1 := by
    simp only [State.rampsStowed, List.all_eq_true, Bool.or_eq_true, beq_iff_eq]
    exact ⟨fun stowed ch => stowed ch (by cases ch <;> simp), fun stowed ch _ => stowed ch⟩
  simp only [both, State.rampEntry, ramps, RampState.code_eq_zero_or_one_iff]

/-- The requirement of ACCEPT_INCOMPLETE, in the states of the groups and the channels (R49). -/
theorem State.mayAcceptIncomplete_iff {s : State} (published : PublishedOk s) :
    s.mayAcceptIncomplete = true ↔
      (∀ g : Fin 4, (s.group g).defn.sea = true → (s.group g).state ≠ .warning
          ∧ (s.group g).state ≠ .waitPermit ∧ (s.group g).state ≠ .closing)
        ∧ (∃ g : Fin 4, (s.group g).defn.sea = true ∧ (s.group g).state = .incomplete)
        ∧ ∀ ch, (s.ramp ch).state = .disabled ∨ (s.ramp ch).state = .stowedLocked := by
  have warning (g) : s.groupValue g = 1 ↔ _ := State.groupValue_eq_code_iff published g .warning
  have waitPermit (g) : s.groupValue g = 2 ↔ _ := State.groupValue_eq_code_iff published g .waitPermit
  have closing (g) : s.groupValue g = 3 ↔ _ := State.groupValue_eq_code_iff published g .closing
  have incomplete (g) : s.groupValue g = 5 ↔ _ := State.groupValue_eq_code_iff published g .incomplete
  simp only [State.mayAcceptIncomplete, Bool.and_eq_true, List.all_eq_true, List.any_eq_true, bne_iff_ne,
    beq_iff_eq, ne_eq, s.mem_seaGroups, warning, waitPermit, closing, incomplete,
    State.rampsStowed_iff published, and_assoc]

/-! ### The request judged -/

theorem State.exec_acceptIncomplete (s : State) (q : Request) :
    exec (.acceptIncomplete q) s = s.actRequest (·.acceptIncomplete q) := rfl

theorem State.acceptIncomplete_of_deck_ne (s : State) (q : Request) (form : q.payload = [])
    (deck : s.dcc.deck ≠ .closingUp) : s.acceptIncomplete q = s.refuse q.source 0 .transition := by
  simp [State.acceptIncomplete, form, deck]

theorem State.acceptIncomplete_of_not_may (s : State) (q : Request) (form : q.payload = [])
    (deck : s.dcc.deck = .closingUp) (may : ¬ s.mayAcceptIncomplete = true) :
    s.acceptIncomplete q = s.refuse q.source 0 .state := by
  simp [State.acceptIncomplete, form, deck, may]

theorem State.acceptIncomplete_of_may (s : State) (q : Request) (form : q.payload = [])
    (deck : s.dcc.deck = .closingUp) (may : s.mayAcceptIncomplete = true) :
    s.acceptIncomplete q = (s.reply q.source 0 .done).changeDeck .sea .acceptIncomplete := by
  simp [State.acceptIncomplete, form, deck, may]

/-- A request that is refused and has no other effect. -/
theorem State.actRequest_refused (s : State) (f : State → State) (q : Request) (object : Byte) (r : Reason)
    (settled : Settled s) (room : HasRoom s) (own : f s = s.refuse q.source object r) :
    s.actRequest f = .next (s.refusedWith q object r) :=
  s.actRequest_replied f q object .refused _ settled room own

/-! ### A change of the deck condition after an answer -/

theorem State.replied_calm (s : State) (q : Request) (object : Byte) (code : Result) (payload : List Byte) :
    Calm s (s.replied q object code payload) := s.queued_calm _

/-- An answer clears no flag. -/
theorem State.replied_keeps_flag (s : State) (q : Request) (object : Byte) (code : Result)
    (payload : List Byte) (f : Flag) (h : s.hasFlag f) : (s.replied q object code payload).hasFlag f := by
  rw [State.hasFlag, show (s.replied q object code payload).fc = s.fc from s.queued_fc _]
  exact h

/-- The deck takes the condition (R43). -/
theorem State.changeDeck_deck (s : State) (d : DeckCondition) (c : DeckCause) :
    (s.changeDeck d c).dcc.deck = d := by
  rw [(s.changeDeck_only d c).dcc]
  rfl

/-- The groups are left alone. -/
theorem State.changeDeck_groups (s : State) (d : DeckCondition) (c : DeckCause) :
    (s.changeDeck d c).groups = s.groups := (s.changeDeck_only d c).groups

/-- A change of the deck condition clears no flag. -/
theorem State.changeDeck_keeps_flag (s : State) (d : DeckCondition) (c : DeckCause) (f : Flag)
    (h : s.hasFlag f) : (s.changeDeck d c).hasFlag f := by
  unfold State.changeDeck
  extract_lets old moved
  refine State.place_keeps_flag _ _ _ ?_
  rw [State.hasFlag, State.writeLocal_fc]
  exact h

/-- With places for the answer and the notice, both are told (R4, R43). -/
theorem State.replied_changeDeck_tells (s : State) (q : Request) (object : Byte) (code : Result)
    (payload : List Byte) (d : DeckCondition) (c : DeckCause) (room : s.bli.queue.length < 31) :
    let t := (s.replied q object code payload).changeDeck d c
    t.tells (s.replyFrame q.source object code payload)
      ∧ t.tells (s.noticeFrame 0 d.code [s.dcc.deck.code, c.code]) := by
  have calm := s.replied_calm q object code payload
  obtain ⟨answered, longer⟩ := s.replied_tells q object code payload (by unfold HasRoom; omega)
  obtain ⟨noticed, -, repliesStay⟩ :=
    (s.replied q object code payload).changeDeck_tells d c (by unfold HasRoom; omega)
  have sameNotice : (s.replied q object code payload).noticeFrame 0 d.code
        [(s.replied q object code payload).dcc.deck.code, c.code]
      = s.noticeFrame 0 d.code [s.dcc.deck.code, c.code] := by
    rw [State.noticeFrame, State.noticeFrame, calm.node, calm.dcc]
  exact ⟨repliesStay _ rfl answered, sameNotice ▸ noticed⟩

/-- Settles O28: the entries the request reads are the states of the groups and the channels, so the three
answers of the model are those of the statement; the entry to SEA after the answer touches no group and clears
no flag. -/
theorem acceptIncomplete : Obligations.AcceptIncomplete := by
  intro s n settled room published q out holds t
  have may_iff : s.mayAcceptIncomplete = true ↔ holds := State.mayAcceptIncomplete_iff published
  have run : out = s.actRequest (·.acceptIncomplete q) := s.exec_acceptIncomplete q
  refine ⟨fun deck => ?_, fun deck fails => ?_, fun deck meets =>
    ⟨?_, ?_, ?_, fun f has => ?_, fun short => ?_⟩⟩
  · exact run.trans (s.actRequest_refused _ q 0 .transition settled room
      (s.acceptIncomplete_of_deck_ne q rfl deck))
  · exact run.trans (s.actRequest_refused _ q 0 .state settled room
      (s.acceptIncomplete_of_not_may q rfl deck (mt may_iff.mp fails)))
  · obtain ⟨node, -, -, -, restarting⟩ := settled
    have own : s.acceptIncomplete q = t := by
      rw [s.acceptIncomplete_of_may q rfl deck (may_iff.mpr meets), s.reply_replied q 0 .done [] room]
    exact run.trans (s.actRequest_own t _ node restarting own)
  · exact State.changeDeck_deck _ _ _
  · exact (State.changeDeck_groups _ _ _).trans (s.replied_calm q 0 .done []).groups
  · exact State.changeDeck_keeps_flag _ _ _ _ (s.replied_keeps_flag q 0 .done [] f has)
  · have told := s.replied_changeDeck_tells q 0 .done [] .sea .acceptIncomplete (by omega)
    rw [deck] at told
    exact told

end Sys2Proof.Machine
end

section
/-! SUPPORT. What every step keeps: each command's own effect keeps the facts of Safety.lean, a full reset makes
them anew, and a step is a command or a tick (R43, R64, R69, R76, R80, R129, R166, R188, R189). -/

namespace Sys2Proof.Machine

open Sys2Proof

/-! ### The facts right after full reset -/

/-- The facts of Safety.lean that every step keeps. -/
structure Safe (s : State) : Prop where
  tables : TablesOk s
  bridge : BridgeQueueOk s
  deck : DeckQueueOk s
  held : HeldListOk s
  ramps : RampsOk s
  published : PublishedOk s
  summary : SummaryOk s

theorem State.reset_tables : TablesOk State.reset := by
  have sec (i : Fin 8) : State.reset.sec i = Sec.reset := Tab.at_fill _ _
  intro i
  rw [sec]
  exact ⟨rfl, rfl⟩

theorem State.reset_locals (i : Fin 32) : State.reset.img.locals.at i
    = if i.val = 11 then 64 else if 12 ≤ i.val ∧ i.val ≤ 23 then 255 else 0 := Tab.at_make _ _

theorem State.reset_ramp (ch : Channel) : State.reset.ramp ch = Ramp.reset := by cases ch <;> rfl

theorem State.reset_group (g : Fin 4) : State.reset.group g = Group.reset := Tab.at_fill _ _

theorem State.reset_published : PublishedOk State.reset := by
  refine ⟨State.reset_locals 0, fun ch => ?_, fun g => ?_⟩
  · rw [State.reset_locals, State.reset_ramp]
    cases ch <;> rfl
  · rw [State.reset_locals, State.reset_group]
    revert g
    decide

theorem State.reset_summary : SummaryOk State.reset := by
  refine ⟨by decide, by decide, ?_⟩
  rw [State.reset_locals]
  decide

theorem Ramp.reset_quiet : RampQuiet Ramp.reset := by simp [RampQuiet, Ramp.reset]

theorem State.reset_safe : Safe State.reset where
  tables := State.reset_tables
  bridge := ⟨Nat.zero_le _, List.Pairwise.nil⟩
  deck := ⟨Nat.zero_le _, Nat.zero_le _⟩
  held := Nat.zero_le _
  ramps := ⟨Ramp.reset_quiet, Ramp.reset_quiet⟩
  published := State.reset_published
  summary := State.reset_summary

/-- FULL_RESET leaves the reset values but for the queue, the straps and the input pins (R8). -/
theorem exec_fullReset (straps : BitVec 6) (s : State) : exec (.fullReset straps) s
    = .next { State.reset with pending := s.pending, straps := straps, node := straps, pins := s.pins } := rfl

theorem exec_fullReset_safe {straps : BitVec 6} {s t : State} (h : exec (.fullReset straps) s = .next t) :
    Safe t := by
  obtain rfl := Host.Outcome.next.inj ((exec_fullReset straps s).symm.trans h)
  exact ⟨State.reset_safe.tables, State.reset_safe.bridge, State.reset_safe.deck, State.reset_safe.held,
    State.reset_safe.ramps, State.reset_safe.published, State.reset_safe.summary⟩

/-! ### A command keeps the facts -/

/-- A command keeps the facts when its own effect does: what follows from it keeps them too. -/
theorem State.act_keeps {s t : State} {f : State → State} (own : Keeps s (f s)) (h : s.act f = .next t) :
    Keeps s t := by
  unfold State.act at h
  split at h <;> obtain rfl := Host.Outcome.next.inj h
  · exact Keeps.refl s
  · exact own.settle _

theorem State.actRequest_keeps {s t : State} {f : State → State} (own : Keeps s (f s))
    (h : s.actRequest f = .next t) : Keeps s t := by
  refine State.act_keeps ?_ h
  split
  · exact Keeps.refl s
  · exact own

/-- Every command but FULL_RESET keeps the facts. -/
theorem exec_keeps {c : Instr} {s t : State} (notReset : ∀ x, c ≠ .fullReset x) (h : exec c s = .next t) :
    Keeps s t := by
  have same := Keeps.refl s
  unfold exec at h
  cases c with
  | fullReset x => exact absurd rfl (notReset x)
  | bridgeFrameEnd chars => exact State.act_keeps (same.bridgeFrameEnd chars) h
  | bridgeFrameSent => exact State.act_keeps same.bridgeFrameSent h
  | bridgeSilenceExpiry => exact State.act_keeps same.silenceExpired h
  | load q => exact State.actRequest_keeps (same.loadTable q) h
  | commit q => exact State.actRequest_keeps (same.commitTables q) h
  | abort q => exact State.actRequest_keeps (same.abortTables q) h
  | readTable q => exact State.actRequest_keeps (same.readTable q) h
  | readImage q => exact State.actRequest_keeps (same.readImageRequest q) h
  | readState q => exact State.actRequest_keeps (same.readStateRequest q) h
  | readFlags q => exact State.actRequest_keeps (same.readFlagsRequest q) h
  | clearFlags q => exact State.actRequest_keeps (same.clearFlagsRequest q) h
  | proofTest q => exact State.actRequest_keeps (same.proofTestRequest q) h
  | restart q => exact State.actRequest_keeps (same.restartRequest q) h
  | identify q => exact State.actRequest_keeps (same.identifyRequest q) h
  | restartTakesEffect => exact State.act_keeps same.restartTakesEffect h
  | setCondition q => exact State.actRequest_keeps (same.setCondition q) h
  | acceptIncomplete q => exact State.actRequest_keeps (same.acceptIncomplete q) h
  | recover q => exact State.actRequest_keeps (same.recoverDeck q) h
  | fireAlarmAccepted active => exact State.act_keeps (same.fireAccepted active) h
  | heldRecordExpiry => exact State.act_keeps same.heldExpired h
  | deckFrameSent => exact State.act_keeps same.deckFrameSent h
  | replyWindowExpiry => exact State.act_keeps same.windowExpired h
  | settlingEnd => exact State.act_keeps same.settlingEnded h
  | deckFrameEnd chars => exact State.act_keeps (same.deckFrameEnd chars) h
  | freshnessExpiry d => exact State.act_keeps (same.freshnessExpired d) h
  | lower ch q => exact State.actRequest_keeps (same.moveRamp ch .lower q) h
  | raise ch q => exact State.actRequest_keeps (same.moveRamp ch .raise q) h
  | rampStop ch q => exact State.actRequest_keeps (same.stopRamp ch q) h
  | jog ch q => exact State.actRequest_keeps (same.jogRamp ch q) h
  | resetFault ch q => exact State.actRequest_keeps (same.resetRamp ch q) h
  | rampSwitchAccepted ch sw active => exact State.act_keeps (same.switchAccepted ch sw active) h
  | estopAccepted active => exact State.act_keeps (same.estopChanged active) h
  | pinTimerExpiry ch => exact State.act_keeps (same.pinExpired ch) h
  | rampWarningExpiry ch => exact State.act_keeps (same.rampWarningExpired ch) h
  | deadManExpiry ch => exact State.act_keeps (same.deadManExpired ch) h
  | periodEnd ch => exact State.act_keeps (same.periodEnd ch) h
  | encoderTransition ch a b => exact State.act_keeps (same.encoderChanged ch a b) h
  | recentTimerExpiry ch => exact State.act_keeps (same.recentExpired ch) h
  | pwmPeriodStart ch => exact State.act_keeps (same.pwmStart ch) h
  | pwmCentre ch => exact State.act_keeps (same.pwmAtCentre ch) h
  | pressureConversionDone ch sample => exact State.act_keeps (same.conversionDone ch sample) h
  | close g q => exact State.actRequest_keeps (same.closeGroup g q) h
  | openDoors g q => exact State.actRequest_keeps (same.openGroup g q) h
  | groupStop g q => exact State.actRequest_keeps (same.stopGroupRequest g q) h
  | groupWarningExpiry g => exact State.act_keeps (same.groupWarningExpired g) h
  | spacingExpiry g => exact State.act_keeps (same.spacingExpired g) h
  | travelExpiry g k => exact State.act_keeps (same.travelExpired g k) h
  | retryExpiry g k => exact State.act_keeps (same.retryExpired g k) h
  | place q => exact State.actRequest_keeps (same.placeCall q.source q.payload) h
  | cancel q => exact State.actRequest_keeps (same.cancelCall q.source q.payload) h
  | waitTimerExpiry e => exact State.act_keeps (same.waitExpired e) h
  | beaconStepExpiry b => exact State.act_keeps (same.stepBeacon b) h
  | commitExpiry => exact State.act_keeps same.commitExpired h
  | copyComplete => exact State.act_keeps same.copyCompleted h
  | scrubSlotEnd => exact State.act_keeps same.scrubSlotEnded h
  | deckLineStartBit => exact State.act_keeps same.startBit h

/-- After a command either every fact holds, or every fact that held before it holds still. -/
theorem exec_safe_or_keeps {c : Instr} {s t : State} (h : exec c s = .next t) : Safe t ∨ Keeps s t := by
  by_cases reset : ∃ x, c = .fullReset x
  · obtain ⟨x, rfl⟩ := reset
    exact .inl (exec_fullReset_safe h)
  · exact .inr (exec_keeps (fun x e => reset ⟨x, e⟩) h)

/-! ### A step -/

/-- A step takes the command at the front of the queue. -/
theorem step_front (s : State) (c : Instr) (rest : List Instr) (front : s.pending = c :: rest) :
    step s = exec c { s with pending := rest } := by
  unfold step
  rw [front]

/-- After a step either every fact holds, or every fact that held before it holds still: it is a command from
the queue, a command that is due, or a tick. -/
theorem step_safe_or_keeps {s t : State} (h : step s = .next t) : Safe t ∨ Keeps s t := by
  cases queue : s.pending with
  | cons c rest =>
    rw [step_front s c rest queue] at h
    exact (exec_safe_or_keeps h).imp_right ((Keeps.refl s).withPending rest).trans
  | nil =>
    cases due : s.dueCommands with
    | cons c rest =>
      rw [step_due s c rest queue due] at h
      exact exec_safe_or_keeps h
    | nil =>
      obtain rfl := Host.Outcome.next.inj ((step_idle s queue due).symm.trans h)
      exact .inr (Keeps.refl s).tick

/-- Settles O57: every operation keeps the canonical form of the copies, and a full reset empties them. -/
theorem tablesStayCanonical : Obligations.TablesStayCanonical := by
  intro s t h tables
  obtain safe | keeps := step_safe_or_keeps h
  · exact safe.tables
  · exact keeps.tables tables

/-- Settles O58: every operation keeps the bounds of the three queues, and a full reset empties them. -/
theorem queuesStayBounded : Obligations.QueuesStayBounded := by
  intro s t h
  obtain safe | keeps := step_safe_or_keeps h
  · exact ⟨fun _ => safe.bridge, fun _ => safe.deck, fun _ => safe.held⟩
  · exact ⟨keeps.bridge, keeps.deck, keeps.held⟩

/-- Settles O59: every operation keeps the drives, the published entries and the summaries true, and a full
reset makes them so. -/
theorem outputsAndEntriesStayTrue : Obligations.OutputsAndEntriesStayTrue := by
  intro s t h
  obtain safe | keeps := step_safe_or_keeps h
  · exact ⟨fun _ => safe.ramps, fun _ => safe.published, fun _ => safe.summary⟩
  · exact ⟨keeps.ramps, keeps.published, keeps.summary⟩

/-- Settles O60: the reset values are safe, and FULL_RESET takes them. -/
theorem invariantsHoldAtReset : Obligations.InvariantsHoldAtReset := by
  intro s t straps reset
  have safe : Safe t := by
    obtain rfl | reset := reset
    · exact State.reset_safe
    · exact exec_fullReset_safe reset
  exact ⟨safe.tables, safe.bridge, safe.deck, safe.held, safe.ramps, safe.published, safe.summary⟩

end Sys2Proof.Machine
end

section
/-! SUPPORT. Steps on an empty queue, sampling, the full reset and the held start-up (R8, R52, R82, R107). -/

namespace Sys2Proof.Machine

open Sys2Proof

/-! ### The queue -/

/-- Settles O1. -/
theorem stepRunsFrontCommand : Obligations.StepRunsFrontCommand := step_front

/-! ### A tick -/

theorem State.heldStartUp_iff (s : State) : s.heldStartUp = true ↔ s.node = 63 := by
  simp [State.heldStartUp]

/-- In the held start-up nothing falls due and only time passes (R8). -/
theorem State.dueCommands_of_held (s : State) (held : s.node = 63) : s.dueCommands = [] := by
  simp [State.dueCommands, s.heldStartUp_iff.mpr held]

theorem State.tick_of_held (s : State) (held : s.node = 63) : s.tick = { s with now := s.now + 1 } := by
  simp [State.tick, State.heldStartUp, held]

theorem State.tick_of_settled (s : State) (settled : Settled s) :
    s.tick = State.sampleInputs { s with now := s.now + 1 } := by
  obtain ⟨node, agenda, owed, choose, -⟩ := settled
  unfold State.tick
  rw [if_neg (by simpa [State.heldStartUp] using node)]
  exact congrArg _ (State.settle_quiet _ { s with now := s.now + 1 } agenda owed choose)

/-! ### Sampled inputs -/

/-- The encoder filters run while the channel is enabled (R107). -/
theorem Ramp.sampleEncoder_eq (r : Ramp) (p : ChannelPins) : r.sampleEncoder p = { r with
    encA := if r.state ≠ .disabled then r.encA.sample r.params.filter p.encA else r.encA
    encB := if r.state ≠ .disabled then r.encB.sample r.params.filter p.encB else r.encB } := by
  unfold Ramp.sampleEncoder
  split
  · next disabled => rw [if_neg (not_not.mpr disabled), if_neg (not_not.mpr disabled)]
  · rfl

/-- Channel A or B of the sampled ramps: each encoder filter runs while the channel is enabled, each switch
filter at whole milliseconds. -/
theorem State.sampleInputs_ramp (s : State) (ch : Channel) :
    s.sampleInputs.ramp ch =
      (let r := s.ramp ch
       let p := s.pins.channels.get ch
       let r := if s.now % 2 = 0 then r.sampleEncoder p else r
       if s.now % 4000 = 0 then r.sampleSwitches p else r) := by
  unfold State.sampleInputs
  by_cases even : s.now % 2 = 0 <;> by_cases usec : s.now % 4 = 0 <;> by_cases msec : s.now % 4000 = 0 <;>
    cases ch <;> simp [even, usec, msec, Config.usec, Config.msec, State.ramp, Pair.get]

theorem State.sampleInputs_estop (s : State) : s.sampleInputs.estop
    = if s.now % 4 = 0 then s.estop.sample 10 s.pins.estop else s.estop := by
  unfold State.sampleInputs
  by_cases even : s.now % 2 = 0 <;> by_cases usec : s.now % 4 = 0 <;> by_cases msec : s.now % 4000 = 0 <;>
    simp [even, usec, msec, Config.usec, Config.msec, Config.estopSamples]

theorem State.sampleInputs_fire (s : State) : s.sampleInputs.dcc.fire
    = if s.now % 4000 = 0 then s.dcc.fire.sample 20 s.pins.fireAlarm else s.dcc.fire := by
  unfold State.sampleInputs
  by_cases even : s.now % 2 = 0 <;> by_cases usec : s.now % 4 = 0 <;> by_cases msec : s.now % 4000 = 0 <;>
    simp [even, usec, msec, Config.usec, Config.msec, Config.fireSamples]

/-- Sampling changes the filters alone. -/
theorem State.sampleInputs_frame (s : State) : s.sampleInputs = { s with
    ramps := s.sampleInputs.ramps, estop := s.sampleInputs.estop
    dcc := { s.dcc with fire := s.sampleInputs.dcc.fire } } := by
  unfold State.sampleInputs
  by_cases even : s.now % 2 = 0 <;> by_cases usec : s.now % 4 = 0 <;> by_cases msec : s.now % 4000 = 0 <;>
    simp [even, usec, msec, Config.usec, Config.msec]

/-! ### The events that are due -/

/-- One of the blocks that a step looks through has a command due. -/
def State.DueIn (s : State) (c : Instr) : Prop :=
  c ∈ s.dueInputs ∨ c ∈ s.dueBridge ∨ c ∈ s.dueDeckLine ∨ c ∈ s.dueImage
    ∨ (∃ ch, c ∈ s.dueRamp ch) ∨ (∃ g, c ∈ s.dueGroup g) ∨ c ∈ s.dueCalls ∨ c ∈ s.dueTables

/-- A command is due exactly when a block has it due; none is in the held start-up. -/
theorem State.mem_dueCommands (s : State) (c : Instr) : c ∈ s.dueCommands ↔ s.node ≠ 63 ∧ s.DueIn c := by
  have channels (ch : Channel) : ch ∈ allChannels := by cases ch <;> decide
  have groups (g : Fin 4) : g ∈ allGroups := by revert g; decide
  by_cases held : s.node = 63
  · simp [s.dueCommands_of_held held, held]
  · have running : ¬ s.heldStartUp = true := mt s.heldStartUp_iff.mp held
    simp only [State.DueIn, State.dueCommands, if_neg running, List.mem_append, List.mem_flatMap, channels, groups, true_and,
      or_assoc, ne_eq, held, not_false_eq_true]

/-- Settles O2: what a step on an empty queue does, what a sample takes, and which events are due, block by
block. -/
theorem emptyQueueIsOneTick : Obligations.EmptyQueueIsOneTick := by
  refine ⟨fun s queue => ⟨step_idle s queue, fun c rest => step_due s c rest queue, fun held => ?_,
    s.tick_of_settled⟩, fun s => ⟨s.sampleInputs_frame, s.sampleInputs_estop, s.sampleInputs_fire, fun ch => ?_⟩,
    fun f need level => ?_, fun f need level => ?_, fun s c => ?_⟩
  · rw [step_idle s queue (s.dueCommands_of_held held), s.tick_of_held held]
  · rw [s.sampleInputs_ramp ch]
    by_cases even : s.now % 2 = 0 <;> by_cases msec : s.now % 4000 = 0 <;>
      simp only [even, msec, if_true, if_false, true_and, false_and, Ramp.sampleEncoder_eq, Ramp.sampleSwitches,
        Config.switchSamples]
  · refine ⟨fun same => if_pos same, fun other => if_neg other, ?_⟩
    simp [InputFilter.accepts]
  · exact ⟨fun same => if_pos same, fun other => if_neg other⟩
  · intro past due
    rw [s.mem_dueCommands]
    refine and_congr_right fun _ => ⟨?_, fun is => ?_⟩
    · rintro (mem | mem | mem | mem | ⟨ch, mem⟩ | ⟨g, mem⟩ | mem | mem)
      · obtain ⟨h, rfl⟩ | ⟨h, rfl⟩ := (s.mem_dueInputs c).mp mem <;> exact ⟨h, rfl⟩
      · obtain ⟨h, rfl⟩ | ⟨h, rfl⟩ | ⟨h, rfl⟩ := (s.mem_dueBridge c).mp mem <;> exact h
      · obtain ⟨h, rfl⟩ | ⟨h, rfl⟩ | ⟨h, rfl⟩ := (s.mem_dueDeckLine c).mp mem <;> exact h
      · obtain ⟨h, rfl⟩ | ⟨d, h, rfl⟩ := (s.mem_dueImage c).mp mem <;> exact h
      · obtain ⟨⟨enabled, h⟩, rfl⟩ | ⟨sw, h, rfl⟩ | ⟨h, rfl⟩ | ⟨h, rfl⟩ | ⟨h, rfl⟩ | ⟨h, rfl⟩ | ⟨h, rfl⟩
          | ⟨h, rfl⟩ | ⟨h, rfl⟩ | ⟨h, rfl⟩ := (s.mem_dueRamp ch c).mp mem
        · exact ⟨enabled, h, rfl, rfl⟩
        · exact ⟨h, rfl⟩
        · exact h
        · exact h
        · exact h
        · exact h
        · exact ⟨h, rfl⟩
        · exact h
        · exact h
        · exact h
      · obtain ⟨h, rfl⟩ | ⟨h, rfl⟩ | ⟨k, ⟨h, rfl⟩ | ⟨h, rfl⟩⟩ := (s.mem_dueGroup g c).mp mem <;> exact h
      · obtain ⟨e, h, rfl⟩ | ⟨b, h, rfl⟩ := (s.mem_dueCalls c).mp mem <;> exact h
      · obtain ⟨h, rfl⟩ | ⟨h, rfl⟩ | ⟨h, rfl⟩ := (s.mem_dueTables c).mp mem <;> exact h
    · have ramp (ch : Channel) (mem : c ∈ s.dueRamp ch) : s.DueIn c :=
        (.inr (.inr (.inr (.inr (.inl ⟨ch, mem⟩)))))
      have group (g : Fin 4) (mem : c ∈ s.dueGroup g) : s.DueIn c :=
        (.inr (.inr (.inr (.inr (.inr (.inl ⟨g, mem⟩))))))
      have calls (mem : c ∈ s.dueCalls) : s.DueIn c := (.inr (.inr (.inr (.inr (.inr (.inr (.inl mem)))))))
      have tables (mem : c ∈ s.dueTables) : s.DueIn c := (.inr (.inr (.inr (.inr (.inr (.inr (.inr mem)))))))
      cases c with
      | estopAccepted a =>
        obtain ⟨h, rfl⟩ := is
        exact .inl ((s.mem_dueInputs _).mpr (.inl ⟨h, rfl⟩))
      | fireAlarmAccepted a =>
        obtain ⟨h, rfl⟩ := is
        exact .inl ((s.mem_dueInputs _).mpr (.inr ⟨h, rfl⟩))
      | restartTakesEffect => exact .inr (.inl ((s.mem_dueBridge _).mpr (.inl ⟨is, rfl⟩)))
      | bridgeFrameSent => exact .inr (.inl ((s.mem_dueBridge _).mpr (.inr (.inl ⟨is, rfl⟩))))
      | bridgeSilenceExpiry => exact .inr (.inl ((s.mem_dueBridge _).mpr (.inr (.inr ⟨is, rfl⟩))))
      | deckFrameSent => exact .inr (.inr (.inl ((s.mem_dueDeckLine _).mpr (.inl ⟨is, rfl⟩))))
      | replyWindowExpiry => exact .inr (.inr (.inl ((s.mem_dueDeckLine _).mpr (.inr (.inl ⟨is, rfl⟩)))))
      | settlingEnd => exact .inr (.inr (.inl ((s.mem_dueDeckLine _).mpr (.inr (.inr ⟨is, rfl⟩)))))
      | heldRecordExpiry => exact .inr (.inr (.inr (.inl ((s.mem_dueImage _).mpr (.inl ⟨is, rfl⟩)))))
      | freshnessExpiry d => exact .inr (.inr (.inr (.inl ((s.mem_dueImage _).mpr (.inr ⟨d, is, rfl⟩)))))
      | encoderTransition ch a b =>
        obtain ⟨enabled, reached, rfl, rfl⟩ := is
        exact ramp ch ((s.mem_dueRamp ch _).mpr (.inl ⟨⟨enabled, reached⟩, rfl⟩))
      | rampSwitchAccepted ch sw a =>
        obtain ⟨h, rfl⟩ := is
        exact ramp ch ((s.mem_dueRamp ch _).mpr (.inr (.inl ⟨sw, h, rfl⟩)))
      | pinTimerExpiry ch => exact ramp ch ((s.mem_dueRamp ch _).mpr (by simpa using is))
      | rampWarningExpiry ch => exact ramp ch ((s.mem_dueRamp ch _).mpr (by simpa using is))
      | deadManExpiry ch => exact ramp ch ((s.mem_dueRamp ch _).mpr (by simpa using is))
      | recentTimerExpiry ch => exact ramp ch ((s.mem_dueRamp ch _).mpr (by simpa using is))
      | pressureConversionDone ch x =>
        obtain ⟨h, rfl⟩ := is
        exact ramp ch ((s.mem_dueRamp ch _).mpr (by simpa using h))
      | pwmCentre ch => exact ramp ch ((s.mem_dueRamp ch _).mpr (by simpa using is))
      | pwmPeriodStart ch => exact ramp ch ((s.mem_dueRamp ch _).mpr (by simpa using is))
      | periodEnd ch => exact ramp ch ((s.mem_dueRamp ch _).mpr (by simpa using is))
      | groupWarningExpiry g => exact group g ((s.mem_dueGroup g _).mpr (.inl ⟨is, rfl⟩))
      | spacingExpiry g => exact group g ((s.mem_dueGroup g _).mpr (.inr (.inl ⟨is, rfl⟩)))
      | travelExpiry g k => exact group g ((s.mem_dueGroup g _).mpr (.inr (.inr ⟨k, .inl ⟨is, rfl⟩⟩)))
      | retryExpiry g k => exact group g ((s.mem_dueGroup g _).mpr (.inr (.inr ⟨k, .inr ⟨is, rfl⟩⟩)))
      | waitTimerExpiry e => exact calls ((s.mem_dueCalls _).mpr (.inl ⟨e, is, rfl⟩))
      | beaconStepExpiry b => exact calls ((s.mem_dueCalls _).mpr (.inr ⟨b, is, rfl⟩))
      | commitExpiry => exact tables ((s.mem_dueTables _).mpr (.inl ⟨is, rfl⟩))
      | copyComplete => exact tables ((s.mem_dueTables _).mpr (.inr (.inl ⟨is, rfl⟩)))
      | scrubSlotEnd => exact tables ((s.mem_dueTables _).mpr (.inr (.inr ⟨is, rfl⟩)))
      | _ => exact is.elim

/-! ### Full reset and the held start-up -/

/-- Settles O3: the reset values, read block by block. -/
theorem fullReset : Obligations.FullReset := by
  have sec (i : Fin 8) : State.reset.sec i = Sec.reset := Tab.at_fill _ _
  refine ⟨exec_fullReset, rfl, rfl, rfl, rfl, rfl, rfl, rfl, rfl, rfl, rfl, rfl, State.reset_locals,
    fun d => Tab.at_fill _ d, rfl, rfl, fun ch => ?_, fun g => ?_, fun e => Tab.at_fill _ e, fun z => ?_, fun b => ?_,
    fun i => ?_, rfl, rfl, rfl, by decide, rfl, rfl, rfl, rfl, rfl, rfl⟩
  · rw [State.reset_ramp]
    exact ⟨rfl, rfl, rfl, rfl, rfl, rfl⟩
  · rw [State.reset_group]
    exact ⟨rfl, rfl⟩
  · exact ⟨congrArg Zone.owner (Tab.at_fill _ z), congrArg Zone.issue (Tab.at_fill _ z)⟩
  · exact congrArg Shown.pattern (Tab.at_fill _ b)
  · rw [sec]
    exact ⟨rfl, rfl, rfl, fun a => ⟨rfl, rfl⟩⟩

theorem State.actRequest_held (s : State) (f : State → State) (held : s.node = 63) : s.actRequest f = .next s :=
  s.act_held _ held

/-- In the held start-up every command but FULL_RESET is without effect (R8, log 4). -/
theorem exec_of_held {c : Instr} {s : State} (held : s.node = 63) (notReset : ∀ x, c ≠ .fullReset x) :
    exec c s = .next s := by
  unfold exec
  cases c with
  | fullReset x => exact absurd rfl (notReset x)
  | load | commit | abort | readTable | readImage | readState | readFlags | clearFlags | proofTest | restart
  | identify | setCondition | acceptIncomplete | recover | lower | raise | rampStop | jog | resetFault | close
  | openDoors | groupStop | place | cancel => exact s.actRequest_held _ held
  | _ => exact s.act_held _ held

/-- Settles O4: a held part acts on nothing, and the reset values drive no output but the alarm. -/
theorem heldStartUp : Obligations.HeldStartUp := by
  refine ⟨fun s c held notReset => ⟨exec_of_held held notReset, ?_⟩, fun s t h => ?_⟩
  · simp [State.alarmActive, State.heldStartUp, held]
  · obtain rfl := Host.Outcome.next.inj ((exec_fullReset 63 s).symm.trans h)
    have dark (b : Fin 8) : (State.reset.bd.shown.at b).timer = none := congrArg Shown.timer (Tab.at_fill _ b)
    refine ⟨rfl, rfl, rfl, rfl, rfl, fun ch d => ?_, fun ch => ?_, fun ch => ?_, fun b => ?_⟩
    · cases ch <;> rfl
    · cases ch <;> rfl
    · cases ch <;> rfl
    · simp only [State.beaconOn, dark b]

end Sys2Proof.Machine
end

section
/-! SUPPORT. Frames and the characters that carry them (R1, R5, R6, R7). -/

namespace Sys2Proof.Machine

open Sys2Proof

/-! ### Characters -/

theorem charOf_good (b : Byte) : (charOf b).good = true := by
  simp [charOf, RxChar.good]

/-- A character without an error is the one that carries its data bits. -/
theorem RxChar.eq_charOf {c : RxChar} (good : c.good = true) : c = charOf c.data := by
  obtain ⟨data, parity, stop⟩ := c
  simp only [RxChar.good, Bool.and_eq_true, beq_iff_eq] at good
  obtain ⟨rfl, rfl⟩ := good
  rfl

theorem receive_charOf (bytes : List Byte) : receive (bytes.map charOf) = Frame.ofBytes bytes := by
  have good : (bytes.map charOf).all RxChar.good = true := by simp [charOf_good]
  have data : (bytes.map charOf).map RxChar.data = bytes := by
    rw [List.map_map]
    exact List.map_id bytes
  rw [receive, if_pos good, data]

theorem charOf_of_receive {chars : List RxChar} {f : Frame} (h : receive chars = some f) :
    Frame.ofBytes (chars.map RxChar.data) = some f ∧ chars = (chars.map RxChar.data).map charOf := by
  unfold receive at h
  split at h
  · next good =>
    refine ⟨h, ?_⟩
    rw [List.map_map]
    exact (List.map_id chars).symm.trans
      (List.map_congr_left fun c mem => RxChar.eq_charOf (List.all_eq_true.mp good c mem))
  · exact absurd h (by simp)

/-! ### Header bytes -/

theorem header_dest (urgent : Bool) (dest : NodeNo) :
    let b := (0#1 ++ (if urgent then 1#1 else 0#1) ++ dest : BitVec 8)
    b.getLsbD 7 = false ∧ b.getLsbD 6 = urgent ∧ b.extractLsb' 0 6 = dest := by
  cases urgent <;> revert dest <;> decide

theorem header_src (src : NodeNo) :
    let b := (0#2 ++ src : BitVec 8)
    b.extractLsb' 6 2 = 0#2 ∧ b.extractLsb' 0 6 = src := by
  revert src
  decide

theorem header_cls (cls : FrameClass) (n : Nat) (h : n ≤ 12) :
    let b := (cls.code ++ 0#1 ++ BitVec.ofNat 4 n : BitVec 8)
    FrameClass.ofCode (b.extractLsb' 5 3) = some cls ∧ b.getLsbD 4 = false ∧ (b.extractLsb' 0 4).toNat = n := by
  cases cls <;> interval_cases n <;> decide

theorem dest_header (b : Byte) (zero : b.getLsbD 7 = false) :
    (0#1 ++ (if b.getLsbD 6 then 1#1 else 0#1) ++ b.extractLsb' 0 6 : BitVec 8) = b := by
  revert b
  decide

theorem src_header (b : Byte) (zero : b.extractLsb' 6 2 = 0#2) : (0#2 ++ b.extractLsb' 0 6 : BitVec 8) = b := by
  revert b
  decide

theorem cls_header (b : Byte) (cls : FrameClass) (code : FrameClass.ofCode (b.extractLsb' 5 3) = some cls)
    (zero : b.getLsbD 4 = false) :
    (cls.code ++ 0#1 ++ BitVec.ofNat 4 (b.extractLsb' 0 4).toNat : BitVec 8) = b := by
  revert b
  cases cls <;> decide

/-! ### Frames -/

theorem Frame.body_length (f : Frame) : f.body.length = 5 + f.payload.length := by
  simp only [Frame.body, List.length_append, List.length_cons, List.length_nil]

/-- The frame that bytes carry, by the checks of R7. -/
theorem Frame.ofBytes_cons (b0 b1 b2 object verb : Byte) (rest : List Byte) (f : Frame) :
    Frame.ofBytes (b0 :: b1 :: b2 :: object :: verb :: rest) = some f ↔
      let len := (b2.extractLsb' 0 4).toNat
      let bs := b0 :: b1 :: b2 :: object :: verb :: rest
      ∃ cls, FrameClass.ofCode (b2.extractLsb' 5 3) = some cls
        ∧ (len ≤ 12 ∧ bs.length = 7 + len ∧ b0.getLsbD 7 = false ∧ b1.extractLsb' 6 2 = 0#2
          ∧ b2.getLsbD 4 = false ∧ b1.extractLsb' 0 6 ≠ 63#6
          ∧ bytes16 (checkCode (bs.take (5 + len))).toNat = bs.drop (5 + len))
        ∧ { dest := b0.extractLsb' 0 6, urgent := b0.getLsbD 6, src := b1.extractLsb' 0 6, cls := cls,
            object := object, verb := verb, payload := rest.take len } = f := by
  unfold Frame.ofBytes
  dsimp only
  cases FrameClass.ofCode (b2.extractLsb' 5 3) with
  | none => simp only [reduceCtorEq, false_and, exists_false]
  | some cls => simp only [Option.ite_none_right_eq_some, Option.some.injEq, exists_eq_left']

theorem Frame.ofBytes_bytes (f : Frame) (src : f.src ≠ 63) (short : f.payload.length ≤ 12) :
    Frame.ofBytes f.bytes = some f := by
  obtain ⟨top, urgent, dest⟩ := header_dest f.urgent f.dest
  obtain ⟨high, low⟩ := header_src f.src
  obtain ⟨code, zero, len⟩ := header_cls f.cls f.payload.length short
  have total : f.bytes.length = 7 + f.payload.length := by
    rw [Frame.bytes, List.length_append, f.body_length]
    exact Nat.add_right_comm _ _ _
  have taken : f.bytes.take (5 + f.payload.length) = f.body := List.take_left' f.body_length
  have dropped : f.bytes.drop (5 + f.payload.length) = bytes16 (checkCode f.body).toNat :=
    List.drop_left' f.body_length
  refine (Frame.ofBytes_cons _ _ _ f.object f.verb (f.payload ++ bytes16 (checkCode f.body).toNat) f).mpr
    ⟨f.cls, code, ⟨len.trans_le short, ?_, top, high, zero, low.trans_ne src, ?_⟩, ?_⟩
  · rw [len]
    exact total
  · rw [len]
    exact (congrArg (fun b => bytes16 (checkCode b).toNat) taken).trans dropped.symm
  · rw [len, List.take_left' rfl, dest, urgent, low]

theorem Frame.bytes_of_ofBytes {bs : List Byte} {f : Frame} (h : Frame.ofBytes bs = some f) :
    bs = f.bytes ∧ f.src ≠ 63 ∧ f.payload.length ≤ 12 := by
  match bs, h with
  | b0 :: b1 :: b2 :: object :: verb :: rest, h =>
    obtain ⟨cls, code, ⟨short, total, top, high, zero, src, check⟩, frame⟩ := (Frame.ofBytes_cons ..).mp h
    have long : (rest.take (b2.extractLsb' 0 4).toNat).length = (b2.extractLsb' 0 4).toNat := by
      rw [List.length_take]
      simp only [List.length_cons] at total
      omega
    have body : (b0 :: b1 :: b2 :: object :: verb :: rest).take (5 + (b2.extractLsb' 0 4).toNat) = f.body := by
      subst frame
      rw [Frame.body, dest_header b0 top, src_header b1 high, long, cls_header b2 cls code zero, Nat.add_comm 5]
      rfl
    refine ⟨?_, ?_, ?_⟩
    · rw [Frame.bytes, ← body, check, List.take_append_drop]
    · subst frame
      exact src
    · subst frame
      exact long.trans_le short

/-- Settles O5: a frame is received from the characters of its bytes, and from no others. -/
theorem framesOnTheLine : Obligations.FramesOnTheLine := by
  refine ⟨fun f src short => ?_, fun chars f h => ?_⟩
  · rw [receive_charOf]
    exact f.ofBytes_bytes src short
  · obtain ⟨bytes, good⟩ := charOf_of_receive h
    obtain ⟨same, src, short⟩ := Frame.bytes_of_ofBytes bytes
    exact ⟨good.trans (congrArg _ same), src, short⟩

end Sys2Proof.Machine
end

section
/-! SUPPORT. Frame ends of the bridge line, silence, and the transmitter (R9, R10, R18, R61, R62). -/

namespace Sys2Proof.Machine

open Sys2Proof

/-! ### Frames that go no further -/

theorem exec_bridgeFrameEnd (s : State) (chars : List RxChar) :
    exec (.bridgeFrameEnd chars) s = s.act (·.bridgeFrameEnd chars) := rfl

theorem State.bridgeFrameEnd_invalid (s : State) (chars : List RxChar) (invalid : receive chars = none) :
    s.bridgeFrameEnd chars = s.raiseFlag .blFormat := by
  rw [State.bridgeFrameEnd, invalid]

theorem State.bridgeFrameEnd_restarting (s : State) (chars : List RxChar) (f : Frame) (valid : receive chars = some f)
    (restarting : s.bli.restarting = true) : s.bridgeFrameEnd chars = s.timerRestarted := by
  rw [State.bridgeFrameEnd, valid, restarting, ← s.heardBridge_eq]
  rfl

/-- The part's own frames, a POLL, a STATUS, a REPLY, and a MANAGE for another node go no further (R9). -/
theorem State.route_ends (s : State) (f : Frame) (ends : f.src = s.node ∨ f.cls = .poll ∨ f.cls = .status
    ∨ f.cls = .reply ∨ (f.cls = .manage ∧ f.dest ≠ s.node)) : s.route f = s := by
  unfold State.route
  split
  · rfl
  · next foreign =>
    obtain own | poll | status | reply | ⟨manage, elsewhere⟩ := ends
    · exact absurd own foreign
    · rw [poll]
    · rw [status]
    · rw [reply]
    · rw [manage]
      exact if_neg elsewhere

/-- Settles O6: by the result of the receive validation, and by the state of the silence timer. -/
theorem bridgeFrameGoesNoFurther : Obligations.BridgeFrameGoesNoFurther := by
  refine ⟨fun s chars node invalid => ?_, fun s chars f settled valid ends => ?_, fun s chars f node restarting valid => ?_⟩
  · exact ⟨s.act_own _ (·.bridgeFrameEnd chars) node (s.bridgeFrameEnd_invalid chars invalid), s.raiseFlag_has _,
      (CallsOnly.refl s).raiseFlag _, (s.raiseFlag_calm _).dls, (s.raiseFlag_calm _).cl, (s.raiseFlag_calm _).bd⟩
  · have run := s.bridgeFrameEnd_valid chars f settled valid
    obtain ⟨dls, node, -⟩ := s.timerRestarted_calm
    rw [State.route_ends _ f (by rwa [node])] at run
    obtain ⟨-, agenda, owed, choose, -⟩ := settled
    refine ⟨fun stopped => ?_, fun due running => ?_, fun expired => ?_⟩
    · have same : s.timerRestarted = s := by rw [State.timerRestarted, stopped]
      rw [run, same, s.settled_quiet agenda owed choose]
    · rw [run, State.timerRestarted, running]
      exact congrArg _ (State.settled_quiet _ agenda owed choose)
    · rw [run, State.timerRestarted, expired]
  · exact s.act_own _ (·.bridgeFrameEnd chars) node (s.bridgeFrameEnd_restarting chars f valid restarting)

/-! ### MANAGE frames -/

/-- A valid frame acts as the request that it is routed to (R9). -/
theorem State.bridgeFrame_request {s : State} {chars : List RxChar} {f : Frame} (settled : Settled s)
    (valid : receive chars = some f) (g : State → State) (own : s.timerRestarted.route f = g s.timerRestarted) :
    exec (.bridgeFrameEnd chars) s = s.timerRestarted.actRequest g := by
  rw [s.bridgeFrameEnd_valid chars f settled valid, s.timerRestarted_request settled g, own]

theorem State.bridgeFrame_replied {s : State} {chars : List RxChar} {f : Frame} (settled : Settled s)
    (room : HasRoom s) (valid : receive chars = some f) (u : State) (queue : u.bli.queue = s.bli.queue) (object : Byte)
    (own : s.timerRestarted.route f = u.reply f.src object .badRequest) :
    exec (.bridgeFrameEnd chars) s = .next (State.settled
      (u.replied { source := f.src, payload := f.payload } object .badRequest)) := by
  rw [s.bridgeFrameEnd_valid chars f settled valid, own]
  exact congrArg (fun t => Host.Outcome.next (State.settled t))
    (u.reply_replied { source := f.src, payload := f.payload } object .badRequest [] (by rwa [HasRoom, queue]))

theorem State.timerRestarted_route_manage (s : State) (f : Frame) (foreign : f.src ≠ s.node)
    (cls : f.cls = .manage) (dest : f.dest = s.node) : s.timerRestarted.route f = s.timerRestarted.manage f := by
  unfold State.route
  rw [s.timerRestarted_calm.2.1, if_neg foreign, cls]
  exact if_pos dest

theorem BitVec.toNat_cases {n k : Nat} {v : BitVec n} (h : v = 0 ∨ k < v.toNat) : v.toNat = 0 ∨ k < v.toNat :=
  h.imp_left fun zero => by rw [zero]; exact Nat.zero_mod _

theorem State.manage_other (s : State) (f : Frame) (other : f.verb ≠ 0 ∨ f.object = 0 ∨ 11 < f.object.toNat) :
    s.manage f = s.reply f.src f.object .badRequest := by
  unfold State.manage
  split
  · rfl
  · next verb =>
    have object := BitVec.toNat_cases (other.resolve_left verb)
    split
    case h_12 => rfl
    all_goals omega

/-! ### COMMAND and CALL frames -/

/-- A frame that the Passage Filter lets in (R60, R61, R63). -/
def State.admits (s : State) (f : Frame) : Prop :=
  (s.sec 2).status = .corrupt ∧ f.cls = .command ∧ f.verb = 3
    ∨ (s.sec 2).status ≠ .corrupt ∧ ∃ p, s.firstMatch true f = some p
      ∧ (p.action = .pass ∨ p.action = .take
        ∨ (p.action = .guard ∨ p.action = .hold) ∧ s.timerRestarted.condition p.cond = true)

theorem State.admitFrame_own (s : State) (f : Frame) (urgent : Bool) (cond : Option Byte) (dest : f.dest = s.node) :
    s.admitFrame f urgent cond = s.deliver f := if_pos dest

theorem State.offerBridge_admitted (s : State) (f : Frame) (dest : f.dest = s.node) (admitted : s.admits f) :
    s.timerRestarted.offerBridge f = s.timerRestarted.deliver f := by
  have here : f.dest = s.timerRestarted.node := dest.trans s.timerRestarted_calm.2.1.symm
  unfold State.offerBridge
  rw [s.timerRestarted_sec, s.timerRestarted_firstMatch]
  obtain ⟨corrupt, cls, verb⟩ | ⟨sound, p, first, action⟩ := admitted
  · rw [if_pos corrupt, if_pos ⟨cls, verb, here⟩]
  · rw [if_neg sound, first]
    show State.applyEntry _ f p = _
    unfold State.applyEntry
    obtain pass | take | ⟨guard | hold, condition⟩ := action
    · rw [pass]
      exact State.admitFrame_own _ f _ _ here
    · rw [take]
      exact if_pos here
    · rw [guard]
      exact (if_pos condition).trans (State.admitFrame_own _ f _ _ here)
    · rw [hold]
      exact (if_pos condition).trans (State.admitFrame_own _ f _ _ here)

theorem State.timerRestarted_route_admitted (s : State) (f : Frame) (foreign : f.src ≠ s.node)
    (cls : f.cls = .command ∨ f.cls = .call) (dest : f.dest = s.node) (admitted : s.admits f) :
    s.timerRestarted.route f = s.timerRestarted.deliver f :=
  (s.timerRestarted_route f foreign cls).trans (s.offerBridge_admitted f dest admitted)

/-! ### Delivery -/

theorem State.deliver_deck (s : State) (f : Frame) (cls : f.cls = .command) (object : f.object = 0) :
    s.deliver f = s.deckCommand f.verb { source := f.src, payload := f.payload } := by
  rw [State.deliver, cls, object]
  rfl

theorem State.deliver_ramp (s : State) (f : Frame) (cls : f.cls = .command) (ch : Channel) (object : f.object = ch.object) :
    s.deliver f = s.rampCommand ch f.verb { source := f.src, payload := f.payload } := by
  rw [State.deliver, cls, object]
  cases ch <;> rfl

theorem State.deliver_group (s : State) (f : Frame) (cls : f.cls = .command) (g : Fin 4) (object : f.object = groupObject g) :
    s.deliver f = s.groupCommand g f.verb { source := f.src, payload := f.payload } := by
  rw [State.deliver, cls, object]
  fin_cases g <;> rfl

theorem State.deliver_call (s : State) (f : Frame) (cls : f.cls = .call) (object : f.object = 16) :
    s.deliver f = s.callCommand f.verb { source := f.src, payload := f.payload } := by
  rw [State.deliver, cls, object]
  rfl

theorem State.deliver_command_other (s : State) (f : Frame) (cls : f.cls = .command)
    (other : f.object = 3 ∨ 7 < f.object.toNat) : s.deliver f = s.reply f.src f.object .badRequest := by
  have object : f.object.toNat = 3 ∨ 7 < f.object.toNat := other.imp_left (congrArg BitVec.toNat)
  unfold State.deliver
  rw [cls]
  split
  case h_8 => contradiction
  case h_9 => rfl
  all_goals omega

theorem State.deliver_call_other (s : State) (f : Frame) (cls : f.cls = .call) (other : f.object ≠ 16) :
    s.deliver f = s.reply f.src f.object .badRequest := by
  have object : f.object.toNat ≠ 16 := fun same => other (BitVec.eq_of_toNat_eq same)
  unfold State.deliver
  rw [cls]
  split
  case h_8 => omega
  case h_9 => rfl
  all_goals contradiction

theorem State.deckCommand_other (s : State) (verb : Byte) (q : Request) (other : verb = 0 ∨ 3 < verb.toNat) :
    s.deckCommand verb q = s.reply q.source 0 .badRequest := by
  have unknown := BitVec.toNat_cases other
  unfold State.deckCommand
  split
  case h_4 => rfl
  all_goals omega

theorem State.rampCommand_other (s : State) (ch : Channel) (verb : Byte) (q : Request)
    (other : verb = 0 ∨ 5 < verb.toNat) :
    s.rampCommand ch verb q = (s.markSilence ch).reply q.source ch.object .badRequest := by
  have unknown := BitVec.toNat_cases other
  unfold State.rampCommand
  split
  case h_6 => rfl
  all_goals omega

theorem State.groupCommand_other (s : State) (g : Fin 4) (verb : Byte) (q : Request) (other : verb = 0 ∨ 3 < verb.toNat) :
    s.groupCommand g verb q = s.reply q.source (groupObject g) .badRequest := by
  have unknown := BitVec.toNat_cases other
  unfold State.groupCommand
  split
  case h_4 => rfl
  all_goals omega

theorem State.callCommand_other (s : State) (verb : Byte) (q : Request) (other : verb = 0 ∨ 2 < verb.toNat) :
    s.callCommand verb q = s.reply q.source 16 .badRequest := by
  have unknown := BitVec.toNat_cases other
  unfold State.callCommand
  split
  case h_3 => rfl
  all_goals omega

/-- A MANAGE frame with byte 4 zero, by its object (R168). -/
theorem State.manage_named (s : State) (f : Frame) (verb : f.verb = 0) {n : Byte} (object : f.object = n) :
    s.manage f = s.manage { f with verb := 0, object := n } := by
  rw [← verb, ← object]

/-- Settles O7: by the class, the object and the verb of the frame. -/
theorem bridgeFrameIsItsCommand : Obligations.BridgeFrameIsItsCommand := by
  refine ⟨fun s chars f settled room valid foreign cls dest => ?_, fun s chars f settled room valid foreign dest => ?_⟩
  · have routed := s.timerRestarted_route_manage f foreign cls dest
    have queue := s.timerRestarted_calm.2.2.2.2.2.2
    refine ⟨fun verb => ?_, fun other =>
      State.bridgeFrame_replied settled room valid _ queue f.object (routed.trans (State.manage_other _ f other))⟩
    have asks {n : Byte} (object : f.object = n) (g : State → State)
        (own : s.timerRestarted.manage { f with verb := 0, object := n } = g s.timerRestarted) :=
      State.bridgeFrame_request settled valid g (routed.trans ((State.manage_named _ f verb object).trans own))
    exact ⟨fun object => asks object (·.loadTable _) rfl, fun object => asks object (·.commitTables _) rfl,
      fun object => asks object (·.abortTables _) rfl, fun object => asks object (·.readTable _) rfl,
      fun object => asks object (·.readImageRequest _) rfl, fun object => asks object (·.readStateRequest _) rfl,
      fun object => asks object (·.readFlagsRequest _) rfl, fun object => asks object (·.clearFlagsRequest _) rfl,
      fun object => asks object (·.proofTestRequest _) rfl, fun object => asks object (·.restartRequest _) rfl,
      fun object => asks object (·.identifyRequest _) rfl⟩
  · intro u q out bad _ admitted
    have queue : u.bli.queue = s.bli.queue := s.timerRestarted_calm.2.2.2.2.2.2
    have bad_of (t : State) (same : t.bli.queue = u.bli.queue) (routed : u.route f = t.reply f.src f.object .badRequest) :
        bad t := State.bridgeFrame_replied settled room valid t (same.trans queue) f.object routed
    refine ⟨fun cls => ?_, fun cls => ?_⟩
    · have routed := s.timerRestarted_route_admitted f foreign (.inl cls) dest admitted
      refine ⟨fun object => ?_, fun ch object => ?_, fun g object => ?_, fun other => ?_⟩
      · have routed := routed.trans (State.deliver_deck _ f cls object)
        have acts {v : Byte} (verb : f.verb = v) (g : State → State) (own : u.deckCommand v q = g u) :=
          State.bridgeFrame_request settled valid g (routed.trans (verb ▸ own))
        refine ⟨fun verb => acts verb (·.setCondition q) rfl, fun verb => acts verb (·.acceptIncomplete q) rfl,
          fun verb => acts verb (·.recoverDeck q) rfl, fun other => bad_of u rfl ?_⟩
        rw [routed, State.deckCommand_other _ _ _ other, object]
      · have routed := routed.trans (State.deliver_ramp _ f cls ch object)
        have acts {v : Byte} (verb : f.verb = v) (g : State → State) (own : u.rampCommand ch v q = g u) :=
          State.bridgeFrame_request settled valid g (routed.trans (verb ▸ own))
        refine ⟨fun verb => acts verb (·.moveRamp ch .lower q) rfl, fun verb => acts verb (·.moveRamp ch .raise q) rfl,
          fun verb => acts verb (·.stopRamp ch q) rfl, fun verb => acts verb (·.jogRamp ch q) rfl,
          fun verb => acts verb (·.resetRamp ch q) rfl, fun other => bad_of (u.markSilence ch) rfl ?_⟩
        rw [routed, State.rampCommand_other _ _ _ _ other, object]
      · have routed := routed.trans (State.deliver_group _ f cls g object)
        have acts {v : Byte} (verb : f.verb = v) (k : State → State) (own : u.groupCommand g v q = k u) :=
          State.bridgeFrame_request settled valid k (routed.trans (verb ▸ own))
        refine ⟨fun verb => acts verb (·.closeGroup g q) rfl, fun verb => acts verb (·.openGroup g q) rfl,
          fun verb => acts verb (·.stopGroupRequest g q) rfl, fun other => bad_of u rfl ?_⟩
        rw [routed, State.groupCommand_other _ _ _ _ other, object]
      · exact bad_of u rfl (routed.trans (State.deliver_command_other _ f cls other))
    · have routed := s.timerRestarted_route_admitted f foreign (.inr cls) dest admitted
      refine ⟨fun object => ?_, fun other => bad_of u rfl (routed.trans (State.deliver_call_other _ f cls other))⟩
      have routed := routed.trans (State.deliver_call _ f cls object)
      have acts {v : Byte} (verb : f.verb = v) (g : State → State) (own : u.callCommand v q = g u) :=
        State.bridgeFrame_request settled valid g (routed.trans (verb ▸ own))
      refine ⟨fun verb => acts verb (fun s => s.placeCall q.source q.payload) rfl,
        fun verb => acts verb (fun s => s.cancelCall q.source q.payload) rfl, fun other => bad_of u rfl ?_⟩
      rw [routed, State.callCommand_other _ _ _ other, object]

/-! ### Silence -/

/-- The state a channel is halted to (R88, R99, R100). -/
def RampState.afterHalt : RampState → RampState
  | .lowering | .landing | .raising | .stowing | .jog | .halting => .halting
  | .starting => .halted
  | x => x

theorem State.enterRamp_silence (s : State) (ch : Channel) (st : RampState) :
    ((s.enterRamp ch st).ramp ch).silence = (s.ramp ch).silence := by
  obtain ⟨o, v, -, -, record⟩ := s.enterRamp_record ch st
  rw [record]
  rfl

theorem State.haltRamp_record (s : State) (ch : Channel) :
    ((s.haltRamp ch).ramp ch).silence = (s.ramp ch).silence
      ∧ ((s.haltRamp ch).ramp ch).state = (s.ramp ch).state.afterHalt := by
  unfold State.haltRamp
  cases state : (s.ramp ch).state with
  | lowering | landing | raising | stowing | jog | starting =>
    exact ⟨s.enterRamp_silence ch _, s.enterRamp_state ch _⟩
  | halting => simp [state, RampState.afterHalt]
  | disabled | stowedLocked | landed | halted | locking | fault => exact ⟨rfl, state⟩

theorem State.silenceRamp_record (s : State) (ch : Channel) :
    ((s.silenceRamp ch).ramp ch).silence = true
      ∧ ((s.silenceRamp ch).ramp ch).state = (s.ramp ch).state.afterHalt := by
  have halted := State.haltRamp_record (s.setRamp ch { s.ramp ch with silence := true }) ch
  rwa [State.ramp_setRamp_self] at halted

/-- A flag set before a channel's event is set after it. -/
theorem RampOnly.keeps_flag {ch : Channel} {s t : State} (only : RampOnly ch s t) {f : Flag} (set : s.hasFlag f) :
    t.hasFlag f := flags_trans set only.grow.flags

/-- The part's own state when silence begins, before the channels halt (R18). -/
def State.silenceMarked (s : State) (due : Nat) : State :=
  ((({ s.reach due with bli := { s.bli with silence := .expired } } : State).raiseFlag .bridgeSilent).writeLocal 10 1)

theorem State.silenceExpired_eq (s : State) (due : Nat) (running : s.bli.silence = .running due) :
    s.silenceExpired = ((s.silenceMarked due).silenceRamp .a).silenceRamp .b := by
  rw [State.silenceExpired, running]
  rfl

theorem State.silenceMarked_calm (s : State) (due : Nat) :
    Calm { s.reach due with bli := { s.bli with silence := .expired } } (s.silenceMarked due) :=
  (State.raiseFlag_calm _ _).trans (State.writeLocal_calm _ _ _)

theorem State.silenceMarked_flag (s : State) (due : Nat) : (s.silenceMarked due).hasFlag .bridgeSilent := by
  rw [State.hasFlag, State.silenceMarked, State.writeLocal_fc]
  exact State.raiseFlag_has _ _

theorem State.silenceMarked_entry (s : State) (due : Nat) : (s.silenceMarked due).img.locals.at 10 = 1 := by
  rw [State.silenceMarked, State.writeLocal_locals]
  exact Tab.at_put_self _ _ _

/-- Settles O8: the flag and the entry, then the two channels, neither of which touches the other. -/
theorem silenceBegins : Obligations.SilenceBegins := by
  intro s due node running
  have own := s.silenceExpired_eq due running
  have calm := s.silenceMarked_calm due
  have flag := s.silenceMarked_flag due
  have entry := s.silenceMarked_entry due
  generalize s.silenceMarked due = m at own calm flag entry
  have first : RampOnly .a m (m.silenceRamp .a) := (RampOnly.refl .a m).silenceRamp
  have second : RampOnly .b (m.silenceRamp .a) ((m.silenceRamp .a).silenceRamp .b) := (RampOnly.refl .b _).silenceRamp
  have ramps (ch : Channel) : m.ramp ch = s.ramp ch := by
    rw [State.ramp, calm.ramps]
    rfl
  refine ⟨_, s.act_own _ (fun s => s.silenceExpired) node own, ?_, ?_, second.keeps_flag (first.keeps_flag flag), ?_,
    fun ch => ?_⟩
  · rw [second.now, first.now, calm.now]
    rfl
  · rw [second.silence, first.silence, calm.silence]
  · rw [second.locals 10 (by decide) (by decide), first.locals 10 (by decide) (by decide)]
    exact entry
  · cases ch with
    | a =>
      rw [second.others .a (by decide), ← ramps .a]
      exact m.silenceRamp_record .a
    | b =>
      rw [← ramps .b, ← first.others .b (by decide)]
      exact State.silenceRamp_record _ .b

/-! ### The transmitter -/

/-- Settles O9: the transmitter is idle at the end of the gap, and takes what waits. -/
theorem bridgeTransmitterGoesOn : Obligations.BridgeTransmitterGoesOn := by
  intro s x settled sending
  have own : (fun s : State => s.bridgeFrameSent) s
      = State.kickBridge { s.reach x.idleAt with bli := { s.bli with tx := none } } := by
    dsimp only
    rw [State.bridgeFrameSent, sending]
  refine ⟨fun empty => ?_, fun r rest queue => ?_⟩
  · refine s.act_exact _ (fun s => s.bridgeFrameSent) settled (own.trans ?_) rfl rfl rfl
    simp only [State.kickBridge, empty]
    rfl
  · refine s.act_exact _ (fun s => s.bridgeFrameSent) settled (own.trans ?_) rfl rfl rfl
    simp only [State.kickBridge, queue]
    rfl

end Sys2Proof.Machine
end

section
/-! SUPPORT. The Passage Filter, the held list, and conditions (R38, R39, R40, R42, R57 to R66). -/

namespace Sys2Proof.Machine

open Sys2Proof

/-! ### Matching -/

/-- The first number below a bound that yields something. -/
theorem findSome?_range_eq_some_iff {α : Type} (f : Nat → Option α) (n : Nat) (x : α) :
    (List.range n).findSome? f = some x ↔ ∃ e, e < n ∧ f e = some x ∧ ∀ k, k < e → f k = none := by
  induction n with
  | zero => simp
  | succ n ih =>
    rw [List.range_succ, List.findSome?_append, Option.or_eq_some_iff, ih]
    have none_iff : (List.range n).findSome? f = none ↔ ∀ k, k < n → f k = none := by simp
    have last : [n].findSome? f = f n := by cases found : f n <;> simp [found]
    rw [none_iff, last]
    constructor
    · rintro (⟨e, less, found, none⟩ | ⟨none, found⟩)
      · exact ⟨e, Nat.lt_succ_of_lt less, found, none⟩
      · exact ⟨n, Nat.lt_succ_self n, found, none⟩
    · rintro ⟨e, less, found, none⟩
      obtain before | rfl := Nat.lt_succ_iff_lt_or_eq.mp less
      · exact .inl ⟨e, before, found, none⟩
      · exact .inr ⟨none, found⟩

/-- The filter's reading of one entry (R59). -/
def State.matchAt (s : State) (toDeck : Bool) (f : Frame) (e : Nat) : Option PassEntry :=
  match readPassEntry (s.sec 2).active e with
  | some p => if p.matchesFrame toDeck f then some p else none
  | none => none

theorem State.firstMatch_eq (s : State) (toDeck : Bool) (f : Frame) :
    s.firstMatch toDeck f = (List.range 64).findSome? (s.matchAt toDeck f) := rfl

theorem State.matchAt_eq_some_iff (s : State) (toDeck : Bool) (f : Frame) (e : Nat) (p : PassEntry) :
    s.matchAt toDeck f e = some p ↔ readPassEntry (s.sec 2).active e = some p ∧ p.matchesFrame toDeck f = true := by
  unfold State.matchAt
  cases readPassEntry (s.sec 2).active e with
  | none => simp
  | some x =>
    simp only [Option.ite_none_right_eq_some, Option.some.injEq]
    exact ⟨fun ⟨hit, same⟩ => ⟨same, same ▸ hit⟩, fun ⟨same, hit⟩ => ⟨same ▸ hit, same⟩⟩

theorem State.matchAt_eq_none_iff (s : State) (toDeck : Bool) (f : Frame) (e : Nat) :
    s.matchAt toDeck f e = none ↔
      ∀ x, readPassEntry (s.sec 2).active e = some x → x.matchesFrame toDeck f = false := by
  unfold State.matchAt
  cases readPassEntry (s.sec 2).active e <;> simp

theorem State.firstMatch_eq_some_iff (s : State) (toDeck : Bool) (f : Frame) (p : PassEntry) :
    s.firstMatch toDeck f = some p ↔ ∃ e, e < 64 ∧ readPassEntry (s.sec 2).active e = some p
      ∧ p.matchesFrame toDeck f = true
      ∧ ∀ k x, k < e → readPassEntry (s.sec 2).active k = some x → x.matchesFrame toDeck f = false := by
  rw [s.firstMatch_eq, findSome?_range_eq_some_iff]
  simp only [State.matchAt_eq_some_iff, State.matchAt_eq_none_iff, and_assoc]
  exact exists_congr fun e => and_congr_right fun _ => and_congr_right fun _ => and_congr_right fun _ =>
    ⟨fun h k x less => h k less x, fun h k less x => h k x less⟩

theorem agrees_iff {w : Nat} (value mask key : BitVec w) :
    agrees value mask key = true ↔ ∀ i, i < w → mask.getLsbD i = false → key.getLsbD i = value.getLsbD i := by
  unfold agrees
  rw [beq_iff_eq]
  constructor
  · intro same i lt clear
    have bit := congrArg (·.getLsbD i) same
    simp only [BitVec.getLsbD_and, BitVec.getLsbD_xor, BitVec.getLsbD_not, lt, clear, decide_true, Bool.not_false,
      Bool.and_true, BitVec.getLsbD_zero] at bit
    exact (bne_eq_false_iff_eq.mp bit).symm
  · intro same
    refine BitVec.eq_of_getLsbD_eq fun i lt => ?_
    cases clear : mask.getLsbD i with
    | true => simp [clear]
    | false => simp [same i lt clear]

/-- An absorbed STATUS is decided by the entry that matches first (R61). -/
theorem State.offerStatus_of_none (s : State) (f : Frame) (first : s.firstMatch false f = none) : s.offerStatus f = s := by
  unfold State.offerStatus
  split
  · rfl
  · rw [first]

theorem State.offerStatus_passed (s : State) (f : Frame) (p : PassEntry) (sound : (s.sec 2).status ≠ .corrupt)
    (first : s.firstMatch false f = some p) (pass : p.action = .pass) : s.offerStatus f = s.passStatus f := by
  simp only [State.offerStatus, if_neg sound, first, pass]

theorem State.offerStatus_guarded (s : State) (f : Frame) (p : PassEntry) (sound : (s.sec 2).status ≠ .corrupt)
    (first : s.firstMatch false f = some p) (action : p.action = .guard ∨ p.action = .hold) :
    s.offerStatus f = if s.condition p.cond then s.passStatus f else s := by
  obtain guard | hold := action
  · simp only [State.offerStatus, if_neg sound, first, guard]
  · simp only [State.offerStatus, if_neg sound, first, hold]

theorem State.offerStatus_dropped (s : State) (f : Frame) (p : PassEntry) (sound : (s.sec 2).status ≠ .corrupt)
    (first : s.firstMatch false f = some p) (action : p.action = .drop ∨ p.action = .refuse ∨ p.action = .take) :
    s.offerStatus f = s := by
  obtain drop | refuse | take := action
  · simp only [State.offerStatus, if_neg sound, first, drop]
  · simp only [State.offerStatus, if_neg sound, first, refuse]
  · simp only [State.offerStatus, if_neg sound, first, take]

/-- Settles O10: which entry decides, and what it does to an absorbed STATUS. -/
theorem passageDecides : Obligations.PassageDecides :=
  ⟨⟨State.firstMatch_eq_some_iff, fun _ => agrees_iff⟩, fun s f => ⟨fun corrupt => if_pos corrupt, fun sound =>
    ⟨s.offerStatus_of_none f, fun p first => ⟨s.offerStatus_passed f p sound first,
      s.offerStatus_guarded f p sound first, s.offerStatus_dropped f p sound first⟩⟩⟩⟩

/-! ### From the bridge to the deck -/

theorem forwardUrgent_eq (f : Frame) (urgent : Bool) :
    forwardUrgent f urgent = (urgent || decide (f.cls = .command ∧ f.verb = 3)) := by
  simp [forwardUrgent, Bool.decide_and, beq_eq_decide]

/-- The record that a frame of the bridge becomes in the deck transmit queue (R70). -/
def Frame.forwardRec (f : Frame) (urgent : Bool) (cond : Option Byte) : DeckRec :=
  { frame := f, urgent := urgent || decide (f.cls = .command ∧ f.verb = 3), cond := cond, origin := .bridge f.src }

theorem State.offer_placed (s : State) (r : DeckRec) (place : s.dls.hasPlace r.urgent = true) :
    s.offer r = ({ s with dls := s.dls.accept r }, true) := if_pos place

theorem State.offer_full (s : State) (r : DeckRec) (full : s.dls.hasPlace r.urgent = false) : s.offer r = (s, false) :=
  if_neg (ne_true_of_eq_false full)

theorem State.forward_placed (s : State) (f : Frame) (urgent : Bool) (cond : Option Byte)
    (place : s.dls.hasPlace (f.forwardRec urgent cond).urgent = true) :
    s.forward f urgent cond = { s with dls := s.dls.accept (f.forwardRec urgent cond) } := by
  have offered := s.offer_placed _ place
  unfold Frame.forwardRec at offered ⊢
  rw [State.forward, forwardUrgent_eq, offered]

theorem State.forward_full (s : State) (f : Frame) (urgent : Bool) (cond : Option Byte)
    (full : s.dls.hasPlace (f.forwardRec urgent cond).urgent = false) :
    s.forward f urgent cond = s.reply f.src f.object .full := by
  have offered := s.offer_full _ full
  unfold Frame.forwardRec at offered
  rw [State.forward, forwardUrgent_eq, offered]

theorem State.offerBridge_corrupt (s : State) (f : Frame) (corrupt : (s.sec 2).status = .corrupt)
    (other : ¬ (f.cls = .command ∧ f.verb = 3 ∧ f.dest = s.node)) :
    s.offerBridge f = s.refuse f.src f.object .corrupt := by
  rw [State.offerBridge, if_pos corrupt, if_neg other]

theorem State.offerBridge_unmatched (s : State) (f : Frame) (sound : (s.sec 2).status ≠ .corrupt)
    (first : s.firstMatch true f = none) :
    s.offerBridge f = if s.defaultDrops then s else s.reply f.src f.object .noRule := by
  rw [State.offerBridge, if_neg sound, first]

theorem State.offerBridge_matched (s : State) (f : Frame) (p : PassEntry) (sound : (s.sec 2).status ≠ .corrupt)
    (first : s.firstMatch true f = some p) : s.offerBridge f = s.applyEntry f p := by
  rw [State.offerBridge, if_neg sound, first]

theorem State.admitFrame_foreign (s : State) (f : Frame) (urgent : Bool) (cond : Option Byte) (dest : f.dest ≠ s.node) :
    s.admitFrame f urgent cond = s.forward f urgent cond := if_neg dest

/-- An entry that guards or holds admits on its condition (R61). -/
theorem State.applyEntry_condition (s : State) (f : Frame) (p : PassEntry) (action : p.action = .guard ∨ p.action = .hold)
    (holds : s.condition p.cond = true) : s.applyEntry f p = s.admitFrame f p.urgent (some p.cond) := by
  unfold State.applyEntry
  obtain guard | hold := action
  · rw [guard]
    exact if_pos holds
  · rw [hold]
    exact if_pos holds

/-- Settles O11: by the entry that matches first, its action and its condition. -/
theorem passageToTheDeck : Obligations.PassageToTheDeck := by
  intro s chars f settled room valid foreign cls u q becomes forwarded
  obtain ⟨dls, node, ts, held, now, -, queue⟩ : u.dls = s.dls ∧ _ := s.timerRestarted_calm
  have room : HasRoom u := s.timerRestarted_room room
  have becomes_of {t : State} (own : u.offerBridge f = t) : becomes t := by
    have run := s.bridgeFrameEnd_valid chars f settled valid
    rwa [s.timerRestarted_route f foreign cls, own] at run
  have replied {code : Result} (own : u.offerBridge f = u.reply f.src f.object code) : becomes (u.replied q f.object code) :=
    becomes_of (own.trans (u.reply_replied q f.object code [] room))
  have refused {r : Reason} (own : u.offerBridge f = u.refuse f.src f.object r) : becomes (u.refusedWith q f.object r) :=
    becomes_of (own.trans (u.refuse_refused q f.object r room))
  have forwarded_of {urgent : Bool} {cond : Option Byte} (dest : f.dest ≠ s.node)
      (own : u.offerBridge f = u.admitFrame f urgent cond) : forwarded urgent cond := by
    have own := own.trans (u.admitFrame_foreign f urgent cond (by rwa [node]))
    refine ⟨fun place => becomes_of (own.trans (u.forward_placed f urgent cond ?_)),
      fun full => replied (own.trans (u.forward_full f urgent cond ?_))⟩
    · rw [dls]
      exact place
    · rw [dls]
      exact full
  have sec := s.timerRestarted_sec 2
  refine ⟨fun corrupt other => refused (u.offerBridge_corrupt f (by rwa [sec]) (by rwa [node])), fun sound => ?_⟩
  have sound : (u.sec 2).status ≠ .corrupt := by rwa [sec]
  refine ⟨fun first => ?_, fun p first => ?_⟩
  · have own := u.offerBridge_unmatched f sound ((s.timerRestarted_firstMatch true f).trans first)
    have drops : u.defaultDrops = ((s.sec 2).active.read 0 != 0) := by rw [State.defaultDrops, sec]
    rw [drops] at own
    exact ⟨fun zero => replied (own.trans (if_neg (by rw [zero]; decide))),
      fun set => becomes_of (own.trans (if_pos (bne_iff_ne.mpr set)))⟩
  · have own := u.offerBridge_matched f p sound ((s.timerRestarted_firstMatch true f).trans first)
    unfold State.applyEntry at own
    refine ⟨fun drop => ?_, fun refuse => ?_, fun pass dest => ?_, fun action holds dest => ?_, fun guard fails => ?_,
      fun hold fails place => ?_, fun hold fails full => ?_⟩
    · rw [drop] at own
      exact becomes_of own
    · obtain refuse | ⟨take, dest⟩ := refuse
      · rw [refuse] at own
        exact refused own
      · rw [take] at own
        exact refused (own.trans (if_neg (by rwa [node])))
    · rw [pass] at own
      exact forwarded_of dest own
    · exact forwarded_of dest (own.trans (u.applyEntry_condition f p action holds))
    · rw [guard] at own
      exact refused (own.trans (if_neg (ne_true_of_eq_false fails)))
    · rw [hold] at own
      refine becomes_of (own.trans ((if_neg (ne_true_of_eq_false fails)).trans ((if_pos ?_).trans ?_)))
      · rwa [held]
      · rw [now]
    · rw [hold] at own
      refine replied (own.trans ((if_neg (ne_true_of_eq_false fails)).trans (if_neg ?_)))
      rw [held]
      exact Nat.not_lt.mpr full

/-! ### The held list -/

theorem earliestHeld_mem {l : List HeldRec} {x : HeldRec} (h : earliestHeld l = some x) : x ∈ l := by
  induction l generalizing x with
  | nil => exact absurd h (by simp [earliestHeld])
  | cons r rest ih =>
    unfold earliestHeld at h
    split at h
    · exact Option.some.inj h ▸ List.mem_cons_self
    · next y later =>
      split at h
      · exact List.mem_cons_of_mem _ (ih (later.trans h))
      · exact Option.some.inj h ▸ List.mem_cons_self

/-- A record is taken when none after it is earlier (R66). -/
theorem earliestHeld_cons {r : HeldRec} {after : List HeldRec} (late : ∀ x ∈ after, r.expiry ≤ x.expiry) :
    earliestHeld (r :: after) = some r := by
  unfold earliestHeld
  split
  · rfl
  · next y later => exact if_neg (Nat.not_lt.mpr (late y (earliestHeld_mem later)))

theorem earliestHeld_append {before after : List HeldRec} {r : HeldRec} (first : ∀ x ∈ before, r.expiry < x.expiry)
    (late : ∀ x ∈ after, r.expiry ≤ x.expiry) : earliestHeld (before ++ r :: after) = some r := by
  induction before with
  | nil => exact earliestHeld_cons late
  | cons y before ih =>
    rw [List.cons_append, earliestHeld, ih fun x mem => first x (List.mem_cons_of_mem y mem)]
    exact if_pos (first y List.mem_cons_self)

theorem erase_held {before after : List HeldRec} {r : HeldRec} (first : ∀ x ∈ before, r.expiry < x.expiry) :
    (before ++ r :: after).erase r = before ++ after := by
  rw [List.erase_append_right _ fun mem => absurd (first r mem) (Nat.lt_irrefl _), List.erase_cons_head]

theorem State.heldPass_false (s : State) (l kept : List HeldRec) (still : ∀ r ∈ l, s.condition r.cond = false) :
    State.heldPass kept l s = s := by
  induction l generalizing kept with
  | nil => rfl
  | cons r rest ih =>
    rw [State.heldPass, if_neg (ne_true_of_eq_false (still r List.mem_cons_self))]
    exact ih _ fun x mem => still x (List.mem_cons_of_mem r mem)

theorem State.heldPass_append (s : State) (before l kept : List HeldRec) (still : ∀ x ∈ before, s.condition x.cond = false) :
    State.heldPass kept (before ++ l) s = State.heldPass (kept ++ before) l s := by
  induction before generalizing kept with
  | nil => rw [List.nil_append, List.append_nil]
  | cons r rest ih =>
    rw [List.cons_append, State.heldPass, if_neg (ne_true_of_eq_false (still r List.mem_cons_self)),
      ih _ fun x mem => still x (List.mem_cons_of_mem r mem), List.append_assoc, List.singleton_append]

theorem State.heldExpired_eq (s : State) (before after : List HeldRec) (r : HeldRec) (room : HasRoom s)
    (list : s.held = before ++ r :: after) (first : ∀ x ∈ before, r.expiry < x.expiry)
    (late : ∀ x ∈ after, r.expiry ≤ x.expiry) :
    s.heldExpired = ({ s with now := max s.now r.expiry, held := before ++ after } : State).queued
      (s.replyFrame r.frame.src r.frame.object .late []) := by
  have earliest : earliestHeld s.held = some r := list ▸ earliestHeld_append first late
  have erased : s.held.erase r = before ++ after := list ▸ erase_held first
  rw [State.heldExpired, earliest, ← erased]
  exact State.reply_queued { s.reach r.expiry with held := s.held.erase r } _ _ _ _ room

/-- Settles O12: the record that expires, and the records that an image-change event releases. -/
theorem heldRecordExpires : Obligations.HeldRecordExpires := by
  refine ⟨fun s before after r settled room list first late => ?_, fun s => ⟨s.heldPass_false _ [],
    fun before after r list still holds => ?_, fun kept rest r => ⟨rfl, rfl⟩, fun r => ⟨fun dest => if_pos dest,
      fun dest place => (s.admitFrame_foreign _ _ _ dest).trans (s.forward_placed _ _ _ place),
      fun dest full => (s.admitFrame_foreign _ _ _ dest).trans (s.forward_full _ _ _ full)⟩⟩⟩
  · exact s.act_exact _ (·.heldExpired) settled (s.heldExpired_eq before after r room list first late)
      (State.queued_agenda _ _) (congrArg Fc.owed (State.queued_fc _ _)) (congrArg Dls.choose (State.queued_calm _ _).dls)
  · rw [State.evaluateHeld, list, s.heldPass_append before _ [] still, State.heldPass, if_pos holds, List.nil_append]

/-! ### Conditions -/

theorem State.evalTerm_of_known (s : State) (i t x : Byte) (known : s.value i.toNat ≠ 255) :
    s.evalTerm i t x = compareTerm t (s.value i.toNat) x := by
  unfold State.evalTerm
  dsimp only
  rw [bne_iff_ne.mpr known, Bool.true_and]

theorem State.condition_of_valid (s : State) (c : Byte) (other : c ≠ 0) (valid : (s.sec 1).status = .valid) :
    s.condition c = if ((s.sec 1).active.read (13 * (c.toNat - 1))).extractLsb' 4 4 != 0#4
      then (s.evalTerms c.toNat).any id else (s.evalTerms c.toNat).all id := by
  rw [State.condition, if_neg other, if_pos valid]

/-- Settles O13: the terms, then condition 0, an invalid section, and the two modes. -/
theorem conditionsFailSafe : Obligations.ConditionsFailSafe := by
  refine ⟨fun s i t x unknown => by simp [State.evalTerm, unknown], fun s i x known => ?_, fun s => rfl,
    fun s c other invalid => ?_, fun s c other valid => ?_⟩
  · simp only [s.evalTerm_of_known i _ x known, compareTerm]
    exact ⟨beq_iff_eq, bne_iff_ne, decide_eq_true_iff, decide_eq_true_iff⟩
  · rw [State.condition, if_neg other, if_neg invalid]
  · rw [s.condition_of_valid c other valid]
    refine ⟨fun all => ?_, fun any => ?_⟩
    · rw [if_neg (by rw [all]; decide), List.all_eq_true]
      rfl
    · rw [if_pos (by rw [any]; decide), List.any_eq_true]
      rfl

end Sys2Proof.Machine
end

section
/-! SUPPORT. The two transmit queues, the summaries and the alarm (R69, R73, R76, R77, R184, R188, R189). -/

namespace Sys2Proof.Machine

open Sys2Proof

/-! ### The bridge transmit queue -/

theorem replaceKey_append {r x : BridgeRec} {a b : List BridgeRec} (first : ∀ y ∈ a, sameKey y.frame r.frame = false)
    (hit : sameKey x.frame r.frame = true) : replaceKey r (a ++ x :: b) = a ++ r :: b := by
  induction a with
  | nil => exact if_pos hit
  | cons y a ih =>
    rw [List.cons_append, replaceKey, if_neg (ne_true_of_eq_false (first y List.mem_cons_self)),
      ih fun z mem => first z (List.mem_cons_of_mem y mem), List.cons_append]

theorem dropOldestStatus_append {x : BridgeRec} {a b : List BridgeRec} (first : ∀ y ∈ a, y.frame.cls ≠ .status)
    (hit : x.frame.cls = .status) : dropOldestStatus (a ++ x :: b) = a ++ b := by
  induction a with
  | nil => exact if_pos hit
  | cons y a ih =>
    rw [List.cons_append, dropOldestStatus, if_neg (first y List.mem_cons_self),
      ih fun z mem => first z (List.mem_cons_of_mem y mem), List.cons_append]

/-- In a queue without two frames of one key, no frame before the one with a key has it (R76). -/
theorem sameKey_before {a b : List BridgeRec} {x : BridgeRec} {f : Frame}
    (distinct : (a ++ x :: b).Pairwise fun x y => sameKey x.frame y.frame = false) (hit : sameKey x.frame f = true) :
    ∀ y ∈ a, sameKey y.frame f = false := by
  intro y mem
  have apart : sameKey x.frame y.frame = false := by
    rw [sameKey_comm]
    exact (List.pairwise_append.mp distinct).2.2 y mem x List.mem_cons_self
  rw [sameKey_comm] at hit ⊢
  rw [sameKey_trans hit]
  exact apart

theorem enqueue_replaces {q : List BridgeRec} {r : BridgeRec} (key : q.any (fun x => sameKey x.frame r.frame) = true) :
    enqueue q r = (replaceKey r q, .joined) := if_pos key

theorem enqueue_of_new {q : List BridgeRec} {r : BridgeRec} (new : ∀ x ∈ q, sameKey x.frame r.frame = false) :
    enqueue q r = if q.length < 32 then (q ++ [r], .joined)
      else if q.any (fun x => x.frame.cls == .status) then (dropOldestStatus q ++ [r], .overran) else (q, .discarded) := by
  refine if_neg ?_
  rw [Bool.not_eq_true, List.any_eq_false]
  exact fun x mem => ne_true_of_eq_false (new x mem)

/-! ### The deck transmit queue -/

theorem Dls.hasPlace_iff (d : Dls) (urgent : Bool) :
    d.hasPlace urgent = true ↔ d.urgent.length + d.normal.length < 24 ∧ (urgent = false → d.normal.length < 16) := by
  rw [Dls.hasPlace, Bool.and_eq_true, decide_eq_true_iff, Bool.or_eq_true, decide_eq_true_iff]
  refine and_congr_right fun _ => ?_
  cases urgent with
  | true => exact iff_of_true (.inl rfl) fun false => absurd false (by decide)
  | false => exact ⟨fun h _ => h.resolve_left (by decide), fun h => .inr (h rfl)⟩

theorem Dls.accept_eq (d : Dls) (r : DeckRec) : d.accept r = { d with
    urgent := if r.urgent then d.urgent ++ [r] else d.urgent
    normal := if r.urgent then d.normal else d.normal ++ [r]
    choose := d.choose || decide (d.line = .free) } := by
  unfold Dls.accept
  cases r.urgent <;> rfl

theorem State.place_eq (s : State) (r : BridgeRec) :
    s.place r =
      (let u := State.kickBridge { s with bli := { s.bli with queue := (enqueue s.bli.queue r).1 } }
       match (enqueue s.bli.queue r).2 with
       | .joined => u
       | .overran => u.raiseFlag .bridgeQueueOverrun
       | .discarded => if r.restartReply then (u.raiseFlag .bridgeQueueOverrun).push .restartEffect
         else u.raiseFlag .bridgeQueueOverrun) := by
  unfold State.place State.placeRaw
  obtain ⟨q, out⟩ := enqueue s.bli.queue r
  cases out <;> rfl

theorem State.kickBridge_still (s : State) (still : s.bli.tx ≠ none ∨ s.bli.queue = []) : s.kickBridge = s := by
  unfold State.kickBridge
  split
  · next idle queue => simp [idle, queue] at still
  · rfl

/-- Settles O14: the two queues, then what a placed frame raises, then the transmitter. -/
theorem queuesTakeFrames : Obligations.QueuesTakeFrames := by
  refine ⟨fun q r _ distinct => ⟨fun a x b split key => ?_, fun new => ?_⟩, fun s r => ⟨fun none => ?_, fun place => ?_⟩,
    fun s r => ?_, fun s => ⟨s.kickBridge_still, fun r rest idle queue => ?_⟩⟩
  · subst split
    rw [enqueue_replaces (List.any_eq_true.mpr ⟨x, by simp, key⟩), replaceKey_append (sameKey_before distinct key) key]
  · rw [enqueue_of_new new]
    refine ⟨fun room => if_pos room, fun a x b full split status first => ?_, fun full replies => ?_⟩
    · subst split
      have old : (a ++ x :: b).any (fun x => x.frame.cls == .status) = true :=
        List.any_eq_true.mpr ⟨x, by simp, beq_iff_eq.mpr status⟩
      rw [if_neg full.not_lt, if_pos old, dropOldestStatus_append first status]
    · rw [if_neg full.not_lt, if_neg (by simpa using replies)]
  · exact s.offer_full r (by simpa only [← s.dls.hasPlace_iff r.urgent, Bool.not_eq_true] using none)
  · rw [s.offer_placed r ((s.dls.hasPlace_iff r.urgent).mpr place), Dls.accept_eq]
  · rw [s.place_eq r]
    refine ⟨fun joined => by rw [joined], ?_, fun discarded restart => ?_⟩
    · rintro (overran | ⟨discarded, plain⟩)
      · rw [overran]
      · rw [discarded]
        exact if_neg (ne_true_of_eq_false plain)
    · rw [discarded]
      exact if_pos restart
  · rw [State.kickBridge, idle, queue]
    rfl

/-! ### Summaries -/

theorem testBit_bitsToNat (l : List Bool) (k : Nat) : (bitsToNat l).testBit k = l.getD k false := by
  induction l generalizing k with
  | nil => simp [bitsToNat]
  | cons b bs ih =>
    cases k with
    | zero => cases b <;> simp [bitsToNat, Nat.testBit_zero, Nat.add_mod]
    | succ k =>
      have half : bitsToNat (b :: bs) / 2 = bitsToNat bs := by
        rw [bitsToNat]
        cases b with
        | true => exact (congrArg (· / 2) (Nat.add_comm _ _)).trans (Nat.mul_add_div Nat.two_pos _ 1)
        | false => exact (congrArg (· / 2) (Nat.zero_add _)).trans (Nat.mul_div_cancel_left _ Nat.two_pos)
      rw [Nat.testBit_succ, half, ih, List.getD_cons_succ]

theorem bv_ne_zero_iff {w : Nat} (x : BitVec w) : x ≠ 0#w ↔ ∃ b, b < w ∧ x.getLsbD b = true := by
  constructor
  · intro some
    by_contra none
    push Not at none
    refine some (BitVec.eq_of_getLsbD_eq fun b lt => ?_)
    rw [BitVec.getLsbD_zero]
    exact Bool.eq_false_iff.mpr (none b lt)
  · rintro ⟨b, -, set⟩ rfl
    exact absurd set (by simp)

/-- The flags of each summary (R184, R186). -/
theorem summaryGroups_bit (k : Fin 7) : ∀ b : Fin 35, ((summaryGroups[k.val]?).getD 0).getLsbD b.val = true ↔
    match k.val with
      | 0 => b.val ≤ 4 | 1 => b.val = 5 | 2 => 6 ≤ b.val ∧ b.val ≤ 15 | 3 => 16 ≤ b.val ∧ b.val ≤ 25
      | 4 => 26 ≤ b.val ∧ b.val ≤ 28 | 5 => 29 ≤ b.val ∧ b.val ≤ 31 | _ => 32 ≤ b.val := by
  match k with
  | 0 => change ∀ b : Fin 35, _ ↔ b.val ≤ 4; decide
  | 1 => change ∀ b : Fin 35, _ ↔ b.val = 5; decide
  | 2 => change ∀ b : Fin 35, _ ↔ 6 ≤ b.val ∧ b.val ≤ 15; decide
  | 3 => change ∀ b : Fin 35, _ ↔ 16 ≤ b.val ∧ b.val ≤ 25; decide
  | 4 => change ∀ b : Fin 35, _ ↔ 26 ≤ b.val ∧ b.val ≤ 28; decide
  | 5 => change ∀ b : Fin 35, _ ↔ 29 ≤ b.val ∧ b.val ≤ 31; decide
  | 6 => change ∀ b : Fin 35, _ ↔ 32 ≤ b.val; decide

theorem summaryOf_getLsbD (flags masks : BitVec 35) (k : Fin 7) :
    (summaryOf flags masks).getLsbD k.val = true ↔
      ∃ b, b < 35 ∧ flags.getLsbD b = true ∧ masks.getLsbD b = false
        ∧ ((summaryGroups[k.val]?).getD 0).getLsbD b = true := by
  have bit : (summaryOf flags masks).getLsbD k.val = (flags &&& ~~~masks &&& (summaryGroups[k.val]?).getD 0 != 0#35) := by
    rw [summaryOf, BitVec.getLsbD_ofNat, testBit_bitsToNat]
    fin_cases k <;> rfl
  rw [bit, bne_iff_ne, bv_ne_zero_iff]
  refine exists_congr fun b => and_congr_right fun lt => ?_
  simp only [BitVec.getLsbD_and, BitVec.getLsbD_not, lt, decide_true, Bool.true_and, Bool.and_eq_true, Bool.not_eq_true',
    and_assoc]

theorem alarmOf_iff (flags : BitVec 35) (sum masks : BitVec 7) : alarmOf flags sum masks = true ↔
    (∃ k, k < 7 ∧ sum.getLsbD k = true ∧ masks.getLsbD k = false) ∨ flags.getLsbD 33 = true := by
  rw [alarmOf, Bool.or_eq_true, bne_iff_ne, bv_ne_zero_iff]
  refine or_congr_left (exists_congr fun k => and_congr_right fun lt => ?_)
  simp only [BitVec.getLsbD_and, BitVec.getLsbD_not, lt, decide_true, Bool.true_and, Bool.and_eq_true, Bool.not_eq_true']

theorem summary_zeroExtend_ne {x y : BitVec 7} (differ : x ≠ y) : (y.zeroExtend 8 : Byte) ≠ x.zeroExtend 8 := by
  revert x y
  decide

/-! ### Flags -/

theorem State.writeLocal_same (s : State) (i : Fin 32) (v : Byte) (same : s.img.locals.at i = v) : s.writeLocal i v = s :=
  if_pos same

theorem State.writeLocal_other (s : State) (i : Fin 32) (v : Byte) (other : s.img.locals.at i ≠ v) :
    s.writeLocal i v = { s.published i v with
      agenda := s.agenda ++ [.imageChange ⟨i.val, by omega⟩ (s.img.locals.at i) v] } := if_neg other

theorem State.takeSummary_same (s : State) (sum : BitVec 7) (alarm : Bool)
    (same : s.img.locals.at 11 = sum.zeroExtend 8) :
    s.takeSummary sum alarm = { s with fc := { s.fc with summary := sum, alarm := alarm, owed := true } } :=
  State.writeLocal_same _ 11 _ same

theorem State.takeSummary_other (s : State) (sum : BitVec 7) (alarm : Bool)
    (other : s.img.locals.at 11 ≠ sum.zeroExtend 8) :
    s.takeSummary sum alarm = { ({ s with fc := { s.fc with summary := sum, alarm := alarm, owed := true } } :
        State).published 11 (sum.zeroExtend 8) with
      agenda := s.agenda ++ [.imageChange 11 (s.img.locals.at 11) (sum.zeroExtend 8)] } :=
  State.writeLocal_other _ 11 _ other

section
variable (s : State) (told : Told s)

/-- The summary value that the flags form, and the alarm state (R188, R189). -/
def State.formedSummary (s : State) : BitVec 7 := summaryOf s.fc.flags s.fc.masks

def State.formedAlarm (s : State) : Bool := alarmOf s.fc.flags s.formedSummary s.fc.summaryMasks

theorem State.reform_unchanged (sum : s.formedSummary = s.fc.summary) (alarm : s.formedAlarm = s.fc.alarm) :
    s.reform = s := if_pos ⟨sum, alarm⟩

include told

theorem State.reform_alarm (sum : s.formedSummary = s.fc.summary) (alarm : s.formedAlarm ≠ s.fc.alarm) :
    s.reform = { s with fc := { s.fc with summary := s.formedSummary, alarm := s.formedAlarm, owed := true } } := by
  have same : s.img.locals.at 11 = s.formedSummary.zeroExtend 8 := by rw [told, sum]
  have taken : s.reform = s.takeSummary s.formedSummary s.formedAlarm := if_neg fun same => alarm same.2
  rw [taken, s.takeSummary_same _ _ same]

theorem State.reform_summary (sum : s.formedSummary ≠ s.fc.summary) :
    s.reform = { ({ s with fc := { s.fc with summary := s.formedSummary, alarm := s.formedAlarm, owed := true } } :
        State).published 11 (s.formedSummary.zeroExtend 8) with
      agenda := s.agenda ++ [.imageChange 11 (s.fc.summary.zeroExtend 8) (s.formedSummary.zeroExtend 8)] } := by
  have other : s.img.locals.at 11 ≠ s.formedSummary.zeroExtend 8 := by
    rw [told]
    exact summary_zeroExtend_ne sum
  have taken : s.reform = s.takeSummary s.formedSummary s.formedAlarm := if_neg fun same => sum same.1
  rw [taken, s.takeSummary_other _ _ other, told]

end

/-- Settles O15: what a flag does, what the summaries do, the notice at an event's end, and the two forms. -/
theorem flagsAndAlarm : Obligations.FlagsAndAlarm := by
  refine ⟨fun s f ok => ?_, fun s f told => ?_, fun s n => ?_, fun flags masks k => ?_, alarmOf_iff⟩
  · have calm := s.raiseFlag_calm f
    exact ⟨s.raiseFlag_flags f, s.raiseFlag_ok f ok.2.2, calm.masks, calm.summaryMasks, (CallsOnly.refl s).raiseFlag f,
      calm.dls, calm.cl, calm.bd, s.raiseFlag_bli f,
      fun i other => s.raiseFlag_locals f i fun same => other (congrArg Fin.val same.symm)⟩
  · refine ⟨rfl, s.reform_unchanged, s.reform_alarm told, s.reform_summary told⟩
  · exact ⟨s.settle_owed n, fun owed x rest agenda => s.settle_task n x rest owed agenda,
      fun owed agenda choose => s.settle_choose n owed agenda choose,
      fun owed agenda choose => s.settle_quiet n agenda owed choose⟩
  · rw [summaryOf_getLsbD]
    exact exists_congr fun b => and_congr_right fun lt => and_congr_right fun _ => and_congr_right fun _ =>
      summaryGroups_bit k ⟨b, lt⟩

end Sys2Proof.Machine
end

section
/-! SUPPORT. Requests whose form is wrong (R45, R84, R132, R149, R151, R168 to R173, R187, R191). -/

namespace Sys2Proof.Machine

open Sys2Proof

/-! ### Table requests -/

theorem sectionOf?_eq_none_iff (b : Byte) : sectionOf? b = none ↔ 8 ≤ b.toNat := by
  unfold sectionOf?
  split
  · next known => simpa using known
  · next unknown => simpa using unknown

theorem sectionOf?_eq_some_iff (b : Byte) (i : Fin 8) : sectionOf? b = some i ↔ b.toNat = i.val := by
  unfold sectionOf?
  split
  · rw [Option.some.injEq, Fin.ext_iff]
  · next unknown => exact iff_of_false (by simp) (by omega)

theorem State.loadTable_badForm (s : State) (q : Request)
    (bad : q.payload.length < 4 ∨ 12 < q.payload.length ∨ ∃ b, q.payload.head? = some b ∧ 8 ≤ b.toNat) :
    s.loadTable q = s.reply q.source 1 .badRequest := by
  unfold State.loadTable
  split
  · next sb hi lo data form =>
    rw [form] at bad
    split
    · rfl
    · next i known =>
      have known := (sectionOf?_eq_some_iff sb i).mp known
      refine if_pos ?_
      obtain short | long | ⟨b, first, unknown⟩ := bad
      · exact .inl (by simp only [List.length_cons] at short; omega)
      · exact .inr (.inl (by simp only [List.length_cons] at long; omega))
      · obtain rfl := Option.some.inj first
        omega
  · rfl

theorem State.commitTables_badForm (s : State) (q : Request) (bad : q.payload.length ≠ 3) :
    s.commitTables q = s.reply q.source 2 .badRequest := by
  unfold State.commitTables
  split
  · next form => exact absurd (congrArg List.length form) bad
  · rfl

theorem State.abortTables_badForm (s : State) (q : Request) (bad : q.payload ≠ []) :
    s.abortTables q = s.reply q.source 3 .badRequest := if_pos bad

theorem State.readTable_badForm (s : State) (q : Request)
    (bad : q.payload.length ≠ 5 ∨ (∃ b r, q.payload = b :: r ∧ 2 ≤ b.toNat)
      ∨ (∃ b x r, q.payload = b :: x :: r ∧ 8 ≤ x.toNat)
      ∨ ∃ b x y z n, q.payload = [b, x, y, z, n] ∧ (n = 0 ∨ 11 ≤ n.toNat)) :
    s.readTable q = s.reply q.source 4 .badRequest := by
  unfold State.readTable
  split
  · next bank sb hi lo len form =>
    rw [form] at bad
    split
    · rfl
    · next i known =>
      have known := (sectionOf?_eq_some_iff sb i).mp known
      refine if_pos ?_
      obtain count | ⟨b, r, same, high⟩ | ⟨b, x, r, same, high⟩ | ⟨b, x, y, z, n, same, len⟩ := bad
      · exact absurd rfl count
      · simp only [List.cons.injEq] at same
        exact .inl (by rw [same.1]; exact high)
      · simp only [List.cons.injEq] at same
        rw [same.2.1] at known
        omega
      · simp only [List.cons.injEq, and_true] at same
        rw [same.2.2.2.2]
        obtain zero | long := len
        · exact .inr (.inl (by rw [zero]; rfl))
        · exact .inr (.inr (.inl long))
  · rfl

/-! ### Requests about the image, the objects and the flags -/

theorem State.readImageRequest_badForm (s : State) (q : Request)
    (bad : q.payload.length ≠ 1 ∨ ∃ i, q.payload = [i] ∧ 128 ≤ i.toNat) :
    s.readImageRequest q = s.reply q.source 5 .badRequest := by
  unfold State.readImageRequest
  split
  · next i form =>
    rw [form] at bad
    obtain count | ⟨j, same, high⟩ := bad
    · exact absurd rfl count
    · obtain rfl := List.singleton_inj.mp same
      exact if_neg (by omega)
  · rfl

theorem State.readStateRequest_badForm (s : State) (q : Request) (bad : q.payload.length ≠ 2) :
    s.readStateRequest q = s.reply q.source 6 .badRequest := by
  unfold State.readStateRequest
  split
  · next form => exact absurd (congrArg List.length form) bad
  · rfl

theorem State.readFlagsRequest_badForm (s : State) (q : Request) (bad : q.payload ≠ []) :
    s.readFlagsRequest q = s.reply q.source 7 .badRequest := if_pos bad

theorem State.clearFlagsRequest_badForm (s : State) (q : Request)
    (bad : q.payload.length ≠ 5 ∨ ∃ a b c d e, q.payload = [a, b, c, d, e] ∧ 8 ≤ e.toNat) :
    s.clearFlagsRequest q = s.reply q.source 8 .badRequest := by
  unfold State.clearFlagsRequest
  split
  · next b0 b1 b2 b3 b4 form =>
    rw [form] at bad
    obtain count | ⟨a, b, c, d, e, same, high⟩ := bad
    · exact absurd rfl count
    · simp only [List.cons.injEq, and_true] at same
      exact if_pos (by rw [same.2.2.2.2]; exact high)
  · rfl

/-- The identifiers of the tests, and the arguments they take (R190, R191). -/
theorem TestId.ofCode?_takes (i a : Byte) (id : TestId) (known : TestId.ofCode? i = some id)
    (bad : i = 0 ∨ 8 ≤ i.toNat ∨ i.toNat ≤ 6 ∧ a ≠ 0 ∨ i = 7 ∧ (a = 0 ∨ 4 ≤ a.toNat)) : id.takes a = false := by
  have zero (n : Byte) (same : n = 0) : n.toNat = 0 := congrArg BitVec.toNat same
  have seven (n : Byte) (same : n = 7) : n.toNat = 7 := congrArg BitVec.toNat same
  have other : a ≠ 0 → (a == 0) = false := beq_eq_false_iff_ne.mpr
  unfold TestId.ofCode? at known
  split at known
  case h_7 code =>
    obtain rfl := Option.some.inj known
    have arg : a.toNat = 0 ∨ 4 ≤ a.toNat := by
      obtain none | high | ⟨low, -⟩ | ⟨-, arg⟩ := bad
      · have := zero i none
        omega
      · omega
      · omega
      · exact arg.imp_left (zero a)
    simp only [TestId.takes, Bool.and_eq_false_iff, decide_eq_false_iff_not]
    omega
  case h_8 => cases known
  all_goals
    obtain rfl := Option.some.inj known
    obtain none | high | ⟨-, arg⟩ | ⟨last, -⟩ := bad
    · have := zero i none
      omega
    · omega
    · exact other arg
    · have := seven i last
      omega

theorem State.proofTestRequest_badForm (s : State) (q : Request)
    (bad : q.payload.length ≠ 2 ∨ ∃ i a, q.payload = [i, a] ∧ (i = 0 ∨ 8 ≤ i.toNat ∨ i.toNat ≤ 6 ∧ a ≠ 0
      ∨ i = 7 ∧ (a = 0 ∨ 4 ≤ a.toNat))) :
    s.proofTestRequest q = s.reply q.source 9 .badRequest := by
  unfold State.proofTestRequest
  split
  · next idb arg form =>
    rw [form] at bad
    split
    · rfl
    · next id known =>
      obtain count | ⟨i, a, same, bad⟩ := bad
      · exact absurd rfl count
      · simp only [List.cons.injEq, and_true] at same
        obtain ⟨rfl, rfl⟩ := same
        exact if_pos (TestId.ofCode?_takes idb arg id known bad)
  · rfl

theorem State.restartRequest_badForm (s : State) (q : Request) (bad : q.payload ≠ []) :
    s.restartRequest q = s.reply q.source 10 .badRequest := if_pos bad

theorem State.identifyRequest_badForm (s : State) (q : Request) (bad : q.payload ≠ []) :
    s.identifyRequest q = s.reply q.source 11 .badRequest := if_pos bad

/-! ### Commands of the blocks -/

theorem DeckCondition.ofCode?_of_high (d : Byte) (high : 5 ≤ d.toNat) : DeckCondition.ofCode? d = none := by
  unfold DeckCondition.ofCode?
  split
  case h_6 => rfl
  all_goals omega

theorem State.setCondition_badForm (s : State) (q : Request)
    (bad : q.payload.length ≠ 1 ∨ ∃ d, q.payload = [d] ∧ 5 ≤ d.toNat) :
    s.setCondition q = s.reply q.source 0 .badRequest := by
  unfold State.setCondition
  split
  · next b form =>
    rw [form] at bad
    obtain count | ⟨d, same, high⟩ := bad
    · exact absurd rfl count
    · obtain rfl := List.singleton_inj.mp same
      rw [DeckCondition.ofCode?_of_high b high]
  · rfl

theorem placeForm_of_length (p : List Byte) (bad : p.length ≠ 6) : placeForm p = none := by
  unfold placeForm
  split
  · exact absurd rfl bad
  · rfl

theorem State.placeCall_badForm (s : State) (src : NodeNo) (p : List Byte) (bad : placeForm p = none) :
    s.placeCall src p = s.reply src 16 .badRequest := by
  rw [State.placeCall, bad]

theorem State.cancelCall_badForm (s : State) (src : NodeNo) (p : List Byte)
    (bad : p.length ≠ 1 ∨ ∃ m, p = [m] ∧ 64 ≤ m.toNat) : s.cancelCall src p = s.reply src 16 .badRequest := by
  unfold State.cancelCall
  split
  · next msg =>
    obtain count | ⟨m, same, high⟩ := bad
    · exact absurd rfl count
    · obtain rfl := List.singleton_inj.mp same
      exact if_pos high
  · rfl

theorem jogForm_eq_none (p : List Byte) (bad : p.length ≠ 3 ∨ ∃ d hi lo, p = [d, hi, lo] ∧ (2 ≤ d.toNat
    ∨ word16 hi lo = 0 ∨ 8000 < word16 hi lo)) : jogForm p = none := by
  unfold jogForm
  split
  · obtain count | ⟨d, hi, lo, same, bad⟩ := bad
    · exact absurd rfl count
    · simp only [List.cons.injEq, and_true] at same
      obtain ⟨rfl, rfl, rfl⟩ := same
      exact if_neg (by omega)
  · rfl

theorem State.jogRamp_badForm (s : State) (ch : Channel) (q : Request) (bad : jogForm q.payload = none) :
    s.jogRamp ch q = (s.markSilence ch).reply q.source ch.object .badRequest := by
  rw [State.jogRamp, bad]

/-- A ramp channel that answers BAD_REQUEST has taken its silence mark (R84). -/
theorem State.actRequest_marked (s : State) (ch : Channel) (q : Request) (code : Result) (settled : Settled s)
    (room : HasRoom s) (f : State → State) (own : f s = (s.markSilence ch).reply q.source ch.object code) :
    s.actRequest f = .next ((s.markSilence ch).replied q ch.object code) :=
  s.actRequest_exact _ f settled (own.trans ((s.markSilence ch).reply_replied q ch.object code [] room))
    (State.queued_agenda _ _) (congrArg Fc.owed (State.queued_fc _ _)) (State.queued_calm _ _).dls

/-- Settles O16: one case for each request. -/
theorem badFormIsAnswered : Obligations.BadFormIsAnswered := by
  intro s q settled room bad p
  have answered (f : State → State) (object : Byte) (own : f s = s.reply q.source object .badRequest) :=
    s.actRequest_replied f q object .badRequest [] settled room own
  refine ⟨fun form => answered (·.loadTable q) 1 (s.loadTable_badForm q form),
    fun form => answered (·.commitTables q) 2 (s.commitTables_badForm q form),
    fun form => answered (·.abortTables q) 3 (s.abortTables_badForm q form),
    fun form => answered (·.readTable q) 4 (s.readTable_badForm q form),
    fun form => answered (·.readImageRequest q) 5 (s.readImageRequest_badForm q form),
    fun form => answered (·.readStateRequest q) 6 (s.readStateRequest_badForm q form),
    fun form => answered (·.readFlagsRequest q) 7 (s.readFlagsRequest_badForm q form),
    fun form => answered (·.clearFlagsRequest q) 8 (s.clearFlagsRequest_badForm q form),
    fun form => answered (·.proofTestRequest q) 9 (s.proofTestRequest_badForm q form),
    fun form => answered (·.restartRequest q) 10 (s.restartRequest_badForm q form),
    fun form => answered (·.identifyRequest q) 11 (s.identifyRequest_badForm q form),
    fun form => answered (·.setCondition q) 0 (s.setCondition_badForm q form),
    fun form => ⟨answered (·.acceptIncomplete q) 0 (if_pos form), answered (·.recoverDeck q) 0 (if_pos form)⟩,
    fun form g => ⟨answered (·.closeGroup g q) _ (if_pos form), answered (·.openGroup g q) _ (if_pos form),
      answered (·.stopGroupRequest g q) _ (if_pos form)⟩,
    fun form => answered (fun s => s.placeCall q.source q.payload) 16
      (s.placeCall_badForm q.source p (placeForm_of_length p form)),
    fun form => answered (fun s => s.cancelCall q.source q.payload) 16 (s.cancelCall_badForm q.source p form),
    fun ch => ?_⟩
  have marked (f : State → State) (own : f s = (s.markSilence ch).reply q.source ch.object .badRequest) :=
    s.actRequest_marked ch q .badRequest settled room f own
  exact ⟨fun form => ⟨marked (·.moveRamp ch .lower q) (if_pos form), marked (·.moveRamp ch .raise q) (if_pos form),
    marked (·.stopRamp ch q) (if_pos form), marked (·.resetRamp ch q) (if_pos form)⟩,
    fun form => marked (·.jogRamp ch q) (s.jogRamp_badForm ch q (jogForm_eq_none p form))⟩

end Sys2Proof.Machine
end

section
/-! SUPPORT. LOAD, CLEAR_FLAGS and PROOF_TEST (R169, R187, R190, R191, R194). -/

namespace Sys2Proof.Machine

open Sys2Proof

/-! ### LOAD -/

theorem State.tablesBusy_iff (s : State) : s.tablesBusy = true ↔ s.ts.commit ≠ none ∨ s.ts.copy ≠ none := by
  rw [State.tablesBusy, Bool.or_eq_true, Option.isSome_iff_ne_none, Option.isSome_iff_ne_none]

theorem State.tablesBusy_of_none (s : State) (commit : s.ts.commit = none) (copy : s.ts.copy = none) :
    s.tablesBusy = false := by
  rw [State.tablesBusy, commit, copy]
  rfl

/-- A LOAD of one to nine bytes, by the section it names (R169). -/
theorem State.loadTable_eq (s : State) (n : NodeNo) (sb hi lo : Byte) (data : List Byte) (i : Fin 8)
    (section_ : sb.toNat = i.val) (some : 1 ≤ data.length) (few : data.length ≤ 9) :
    s.loadTable { source := n, payload := sb :: hi :: lo :: data } =
      if secSize i < word16 hi lo + data.length then s.reply n 1 .badRequest
      else if s.tablesBusy then s.reply n 1 .busy
      else (s.setSec i { s.sec i with
        standby := (s.sec i).standby.writes (word16 hi lo) data, standbyValid := true }).reply n 1 .done := by
  unfold State.loadTable
  dsimp only
  rw [(sectionOf?_eq_some_iff sb i).mpr section_]
  have lengths : ¬ data.length = 0 ∧ ¬ 9 < data.length := by omega
  simp only [lengths, false_or]

/-- Every byte of a copy after bytes are written into it (R166, R169). -/
theorem Memory.read_writes (m : Memory) (off : Nat) (data : List Byte) (wf : m.wf = true) (a : Nat) :
    (m.writes off data).read a = if off ≤ a then (data[a - off]?).getD (m.read a) else m.read a := by
  split
  · next above =>
    obtain ⟨i, rfl⟩ := Nat.exists_eq_add_of_le above
    rw [Nat.add_sub_cancel_left]
    by_cases inside : i < data.length
    · rw [Memory.read_writes_inside data m off i wf inside, List.getElem?_eq_getElem inside, Option.getD_some,
        List.getD_eq_getElem _ _ inside]
    · rw [Memory.read_writes_outside data m off _ (.inr (by omega)), List.getElem?_eq_none (by omega), Option.getD_none]
  · next below => exact Memory.read_writes_outside data m off a (.inl (by omega))

/-- Settles O17: a LOAD out of range, one that finds the tables busy, and one that writes. -/
theorem loadWritesStandby : Obligations.LoadWritesStandby := by
  intro s n sb hi lo data i settled room section_ some few q off x out
  have load := s.loadTable_eq n sb hi lo data i section_ some few
  refine ⟨fun beyond => ?_, fun within busy => ?_, fun within commit copy => ⟨?_, fun ok a => ?_⟩⟩
  · exact s.actRequest_replied (·.loadTable q) q 1 .badRequest [] settled room (load.trans (if_pos beyond))
  · exact s.actRequest_replied (·.loadTable q) q 1 .busy [] settled room
      (load.trans ((if_neg within.not_gt).trans (if_pos (s.tablesBusy_iff.mpr busy))))
  · have idle := ne_true_of_eq_false (s.tablesBusy_of_none commit copy)
    exact s.actRequest_exact _ (·.loadTable q) settled
      (load.trans ((if_neg within.not_gt).trans ((if_neg idle).trans (State.reply_replied _ q 1 .done [] room))))
      (State.queued_agenda _ _) (congrArg Fc.owed (State.queued_fc _ _)) (State.queued_calm _ _).dls
  · exact x.standby.read_writes off data (ok i).2 a

/-! ### CLEAR_FLAGS -/

theorem State.flagsAfterClear_getLsbD (s : State) (set : BitVec 35) (k : Nat) (lt : k < 35) :
    (s.flagsAfterClear set).getLsbD k = (s.fc.flags.getLsbD k && !(set.getLsbD k && !s.holding.getLsbD k)) := by
  simp only [State.flagsAfterClear, BitVec.getLsbD_and, BitVec.getLsbD_not, lt, decide_true, Bool.true_and]

/-- Settles O19. -/
theorem clearFlagsClears : Obligations.ClearFlagsClears := by
  intro s n b0 b1 b2 b3 b4 settled room low q set
  obtain ⟨node, -, -, -, restarting⟩ := settled
  refine ⟨s.flagsAfterClear set, ?_, s.flagsAfterClear_getLsbD set⟩
  refine s.actRequest_own _ (·.clearFlagsRequest q) node restarting ((if_neg (Nat.not_le.mpr low)).trans ?_)
  exact congrArg State.reform (State.reply_replied _ q 8 .done _ room)

/-! ### PROOF_TEST -/

theorem TestId.ofCode?_code (id : TestId) : TestId.ofCode? id.code = some id := by
  cases id with
  | overspeed ch | overload ch | landInput ch => cases ch <;> rfl
  | scrub => rfl

theorem TestId.takes_of (id : TestId) (arg : Byte)
    (form : id = .scrub ∧ 1 ≤ arg.toNat ∧ arg.toNat ≤ 3 ∨ id ≠ .scrub ∧ arg = 0) : id.takes arg = true := by
  obtain ⟨rfl, low, high⟩ | ⟨ramp, rfl⟩ := form
  · simp [TestId.takes, low, high]
  · cases id with
    | overspeed ch | overload ch | landInput ch => rfl
    | scrub => exact absurd rfl ramp

theorem State.mayTest_iff (s : State) (id : TestId) :
    s.mayTest id = true ↔ ∀ ch, id.channel? = some ch → (s.ramp ch).state = .stowedLocked := by
  unfold State.mayTest
  cases id.channel? <;> simp

/-- A PROOF_TEST of the right form, by its checks in order (R191). -/
theorem State.proofTestRequest_eq (s : State) (n : NodeNo) (id : TestId) (arg : Byte) (takes : id.takes arg = true) :
    s.proofTestRequest { source := n, payload := [id.code, arg] } =
      if s.fc.test.isSome then s.reply n 9 .busy
      else if s.dcc.deck = .emergency then s.refuse n 9 .deckCondition
      else if s.mayTest id = false then s.refuse n 9 .state
      else (s.reply n 9 .accepted).startTest id arg := by
  unfold State.proofTestRequest
  dsimp only
  rw [TestId.ofCode?_code]
  simp only [takes, Bool.true_eq_false, if_false]

theorem State.startTest_frame (s : State) (id : TestId) (arg : Byte) :
    s.startTest id arg = { s with
      fc := { s.fc with test := some { id := id, arg := arg, steps := 0 } }
      ramps := (s.startTest id arg).ramps, ts := (s.startTest id arg).ts } := by
  cases id <;> rfl

theorem State.startTest_ramp (s : State) (id : TestId) (arg : Byte) (ch : Channel) :
    (s.startTest id arg).ramp ch = { s.ramp ch with
      overspeed := if id = .overspeed ch then 0 else (s.ramp ch).overspeed
      overload := if id = .overload ch then 0 else (s.ramp ch).overload } := by
  cases id with
  | overspeed c | overload c | landInput c => cases c <;> cases ch <;> rfl
  | scrub => rfl

theorem State.startTest_ts (s : State) (id : TestId) (arg : Byte) (ramp : id ≠ .scrub) :
    (s.startTest id arg).ts = s.ts := by
  cases id with
  | overspeed ch | overload ch | landInput ch => rfl
  | scrub => exact absurd rfl ramp

/-- The fill patterns of the test area (R194). -/
theorem testFill_eq (arg : Byte) (low : 1 ≤ arg.toNat) (high : arg.toNat ≤ 3) :
    testFill arg = (List.range 64).map fun i =>
      if arg = 1 then 0 else if arg = 2 then (if i % 2 = 0 then 85 else 170) else BitVec.ofNat 8 i := by
  have known : arg = 1 ∨ arg = 2 ∨ arg = 3 := by
    revert arg
    decide
  obtain rfl | rfl | rfl := known <;> rfl

/-- Settles O20: the checks in order, and the start of the test. -/
theorem proofTestJudged : Obligations.ProofTestJudged := by
  intro s n id arg settled room form q out fit
  have judged := s.proofTestRequest_eq n id arg (id.takes_of arg form)
  have unfit : ¬ fit ↔ s.mayTest id = false := by rw [← Bool.not_eq_true, s.mayTest_iff]
  have answered {code : Result} (own : s.proofTestRequest q = s.reply n 9 code) :=
    s.actRequest_replied (·.proofTestRequest q) q 9 code [] settled room own
  have refused {r : Reason} (own : s.proofTestRequest q = s.refuse n 9 r) :=
    s.actRequest_refused (·.proofTestRequest q) q 9 r settled room own
  refine ⟨fun busy => answered (judged.trans (if_pos (Option.isSome_iff_ne_none.mpr busy))), fun idle deck => ?_,
    fun idle deck bad => ?_, fun idle deck good => ?_⟩
  · rw [idle] at judged
    exact refused (judged.trans (if_pos deck))
  · rw [idle] at judged
    exact refused (judged.trans ((if_neg deck).trans (if_pos (unfit.mp bad))))
  · rw [idle] at judged
    intro u
    have own : s.proofTestRequest q = u.startTest id arg :=
      (judged.trans ((if_neg deck).trans (if_neg fun bad => unfit.mpr bad good))).trans
        (congrArg (·.startTest id arg) (s.reply_replied q 9 .accepted [] room))
    have fc : u.fc = s.fc := State.queued_fc _ _
    have calm : Calm s u := State.queued_calm _ _
    have frame := u.startTest_frame id arg
    refine ⟨u.startTest id arg, s.actRequest_exact _ (·.proofTestRequest q) settled own ?_ ?_ ?_, ?_, fun ch => ?_,
      fun ramp => (u.startTest_ts id arg ramp).trans calm.ts, fun scrub => ?_⟩
    · rw [frame]
      exact State.queued_agenda _ _
    · rw [frame]
      exact (congrArg Fc.owed fc :)
    · rw [frame]
      exact calm.dls
    · rw [← fc]
      exact frame
    · rw [u.startTest_ramp id arg ch, State.ramp, calm.ramps]
      rfl
    · subst scrub
      obtain ⟨-, low, high⟩ | ⟨other, -⟩ := form
      · rw [← testFill_eq arg low high, ← calm.ts]
        rfl
      · exact absurd rfl other

end Sys2Proof.Machine
end

section
/-! SUPPORT. What the reading requests answer (R170 to R172, R186). -/

namespace Sys2Proof.Machine

open Sys2Proof

/-! ### READ_TABLE -/

/-- A READ_TABLE of the right form, by the range it names (R170). -/
theorem State.readTable_eq (s : State) (n : NodeNo) (bank sb hi lo len : Byte) (i : Fin 8) (banks : bank.toNat ≤ 1)
    (section_ : sb.toNat = i.val) (some : 1 ≤ len.toNat) (few : len.toNat ≤ 10) :
    s.readTable { source := n, payload := [bank, sb, hi, lo, len] } =
      if secSize i < word16 hi lo + len.toNat then s.reply n 4 .badRequest
      else s.reply n 4 .done ((List.range len.toNat).map fun k =>
        if bank = 0 then (s.sec i).active.read (word16 hi lo + k) else s.standbyByte i (word16 hi lo + k)) := by
  unfold State.readTable
  dsimp only
  rw [(sectionOf?_eq_some_iff sb i).mpr section_]
  have form : ¬ 1 < bank.toNat ∧ ¬ len.toNat = 0 ∧ ¬ 10 < len.toNat := by omega
  simp only [form, false_or]

theorem State.standbyByte_of_copy (s : State) (i : Fin 8) (a : Nat) (c : CopyRec) (copy : s.ts.copy = some c) :
    s.standbyByte i a = if inSet c.set i = true ∧ a < c.reached i s.now then (s.sec i).active.read a
      else (s.sec i).standby.read a := by
  simp only [State.standbyByte, copy, Bool.and_eq_true, decide_eq_true_eq]

/-! ### READ_IMAGE -/

theorem remoteOf?_remote (d : Fin 96) : remoteOf? (32 + d.val) = some d := by
  simp [remoteOf?]

theorem remoteOf?_local (i : Fin 32) : remoteOf? i.val = none := by
  simp [remoteOf?]

theorem State.imageBytes_local (s : State) (i : Fin 32) :
    s.imageBytes i.val = [s.img.locals.at i, 168, 0, 0, 0, 0, 0, 0, 0, 0, 0, 0] := by
  simp [State.imageBytes, remoteOf?_local, State.value]

theorem State.age_eq (s : State) (d : Fin 96) : s.age d = if (s.img.defs.at d).kind = .none then 0
    else min 65535 ((s.now - (s.img.remotes.at d).since) / Config.msec) := by
  unfold State.age
  by_cases unused : (s.img.defs.at d).kind = .none
  · rw [if_neg (by rw [ObjDef.used_iff]; exact not_not.mpr unused), if_pos unused]
  · rw [if_pos ((ObjDef.used_iff _).mpr unused), if_neg unused]

/-- READ_IMAGE of an entry (R171). -/
theorem State.readImageRequest_eq (s : State) (n : NodeNo) (k : Nat) (low : k < 128) :
    s.readImageRequest { source := n, payload := [BitVec.ofNat 8 k] } = s.reply n 5 .done (s.imageBytes k) := by
  have index : (BitVec.ofNat 8 k).toNat = k := Nat.mod_eq_of_lt (by omega)
  refine (if_pos (by omega)).trans ?_
  rw [index]

/-! ### READ_STATE -/

theorem State.objectState_ramp (s : State) (ch : Channel) : s.objectState ch.object 0 = some (s.ramp ch).stateBytes := by
  cases ch <;> rfl

theorem State.objectState_group (s : State) (g : Fin 4) : s.objectState (groupObject g) 0 = some (s.group g).stateBytes := by
  fin_cases g <;> rfl

theorem State.objectState_call (s : State) (e : Fin 16) :
    s.objectState 16 (BitVec.ofNat 8 e.val) = some (callBytes e (s.cl.calls.at e)) := by
  have index : (BitVec.ofNat 8 e.val).toNat = e.val := Nat.mod_eq_of_lt (by omega)
  refine (if_pos rfl).trans ((dif_pos (by omega)).trans ?_)
  simp only [index]

theorem State.objectState_other (s : State) (object selector : Byte) (other : object = 3 ∨ 7 < object.toNat)
    (notCalls : object ≠ 16) (notTables : object ≠ 30) : s.objectState object selector = none := by
  have object_ : object.toNat = 3 ∨ 7 < object.toNat := other.imp_left (congrArg BitVec.toNat)
  have thirty : object.toNat ≠ 30 := fun same => notTables (BitVec.eq_of_toNat_eq same)
  unfold State.objectState
  rw [if_neg notCalls]
  split
  · rfl
  · split
    case h_9 => rfl
    all_goals omega

theorem foldl_add_eq_sum (l : List Nat) : l.foldl (· + ·) 0 = l.sum := List.sum_eq_foldl.symm

theorem allSecs_eq : allSecs = List.finRange 8 := by decide

theorem allZones_eq : allZones = List.finRange 12 := by decide

theorem allSteps_eq : allSteps = List.finRange 8 := by decide

theorem CallOrigin.byte_bridge (src : NodeNo) : CallOrigin.byte (.bridge src) = BitVec.ofNat 8 (192 + src.toNat) := by
  revert src
  decide

/-- The bytes of a call (R172). -/
theorem callBytes_some (e : Fin 16) (c : Call) : callBytes e (some c) =
    (let marks := ((List.finRange 12).map fun z => (c.marks.at z).code * 4 ^ z.val).sum
     [BitVec.ofNat 8 e.val, BitVec.ofNat 8 (128 + (if c.ready = none then 0 else 64) + c.priority.code),
      c.origin.byte, BitVec.ofNat 8 (marks / 65536), BitVec.ofNat 8 (marks / 256), BitVec.ofNat 8 marks, c.message,
      BitVec.ofNat 8 (c.reps * 16 + c.pattern)]) := by
  have ready : (if c.ready.isSome then 64 else 0) = if c.ready = none then 0 else 64 := by
    cases c.ready <;> rfl
  rw [callBytes, Call.marksNumber, foldl_add_eq_sum, allZones_eq, ready]

theorem State.tableBytes_eq (s : State) : s.tableBytes =
    bytes16 ((List.finRange 8).map fun i => (s.sec i).status.code * 4 ^ i.val).sum
      ++ [BitVec.ofNat 8 ((List.finRange 8).map fun i => if (s.sec i).standbyValid then 2 ^ i.val else 0).sum,
        (s.ts.commit.map CommitRec.set).getD 0, (s.ts.copy.map CopyRec.set).getD 0,
        (s.ts.commit.map fun c => BitVec.ofNat 8 ((c.expiry - s.now) / Config.second)).getD 0] := by
  rw [State.tableBytes, foldl_add_eq_sum, foldl_add_eq_sum, allSecs_eq]
  cases s.ts.commit <;> cases s.ts.copy <;> rfl

/-! ### READ_FLAGS -/

theorem flagBytes_getElem? (f : BitVec 35) (k : Nat) (low : k < 4) : (flagBytes f)[k]? = some (f.extractLsb' (8 * k) 8) := by
  interval_cases k <;> rfl

theorem flagBytes_last (f : BitVec 35) : (flagBytes f)[4]? = some ((f.extractLsb' 32 3).zeroExtend 8) := rfl

/-- Flag b is bit b mod 8 of byte b div 8 (R184). -/
theorem flagBytes_bit (f : BitVec 35) (b : Nat) (lt : b < 40) (x : Byte) (at_ : (flagBytes f)[b / 8]? = some x) :
    x.getLsbD (b % 8) = f.getLsbD b := by
  have place : 8 * (b / 8) + b % 8 = b := Nat.div_add_mod b 8
  have bit : b % 8 < 8 := Nat.mod_lt b (by decide)
  by_cases low : b / 8 < 4
  · rw [flagBytes_getElem? f _ low, Option.some.injEq] at at_
    rw [← at_, BitVec.getLsbD_extractLsb', place, decide_eq_true bit, Bool.true_and]
  · have last : b / 8 = 4 := by omega
    rw [last] at at_ place
    rw [flagBytes_last f, Option.some.injEq] at at_
    rw [← at_, BitVec.zeroExtend, BitVec.getLsbD_setWidth, BitVec.getLsbD_extractLsb', place, decide_eq_true bit,
      Bool.true_and]
    by_cases flag : b % 8 < 3
    · rw [decide_eq_true flag, Bool.true_and]
    · rw [decide_eq_false flag, Bool.false_and, BitVec.getLsbD_of_ge f b (by omega)]

theorem State.conditionsByte_getLsbD (s : State) (k : Nat) (lt : k < 8) : s.conditionsByte.getLsbD k =
    [s.bli.silence == .expired, s.anyStale, s.estopHolds .a, s.estopHolds .b, s.anySec .empty, s.anySec .corrupt, false,
      s.fc.alarm].getD k false := by
  rw [State.conditionsByte, BitVec.getLsbD_ofNat, testBit_bitsToNat, decide_eq_true lt, Bool.true_and]

theorem State.anyStale_iff (s : State) : s.anyStale = true ↔
    ∃ d, (s.img.defs.at d).kind ≠ .none ∧ (s.img.remotes.at d).standing = .stale := by
  simp only [State.anyStale, List.any_eq_true, List.mem_finRange, true_and, Bool.and_eq_true, ObjDef.used_iff, beq_iff_eq]

theorem State.estopHolds_iff (s : State) (ch : Channel) :
    s.estopHolds ch = true ↔ s.estop.level = true ∧ (s.ramp ch).state ≠ .disabled := by
  rw [State.estopHolds, Bool.and_eq_true, bne_iff_ne]

theorem State.anySec_iff (s : State) (st : ActiveStatus) : s.anySec st = true ↔ ∃ i, (s.sec i).status = st := by
  simp only [State.anySec, allSecs_eq, List.any_eq_true, List.mem_finRange, true_and, beq_iff_eq]

theorem State.flagReport_eq (s : State) : s.flagReport = flagBytes s.fc.flags ++ [s.fc.summary.zeroExtend 8]
    ++ [s.conditionsByte] ++ [(s.fc.test.map fun t => t.id.code).getD 0, (s.fc.last.map fun l => l.1.code).getD 0,
      (s.fc.last.map fun l => l.2.code).getD 0] := by
  unfold State.flagReport
  cases s.fc.test <;> cases s.fc.last <;> rfl

/-- Settles O18: the replies of the reading requests, then the bytes that they carry. -/
theorem readingChangesNothing : Obligations.ReadingChangesNothing := by
  refine ⟨fun s n settled room => ?_, fun s => ?_⟩
  · intro ask
    have answered (f : State → State) (q : Request) {object : Byte} {code : Result} {bytes : List Byte}
        (own : f s = s.reply q.source object code bytes) := s.actRequest_replied f q object code bytes settled room own
    refine ⟨fun bank sb hi lo len i banks section_ some few => ?_, fun i => ?_, fun d => ?_,
      fun object selector bytes known => ?_, fun object selector unknown => ?_, ?_, ?_⟩
    · intro q off
      have read := s.readTable_eq n bank sb hi lo len i banks section_ some few
      exact ⟨fun beyond => answered (·.readTable q) q (read.trans (if_pos beyond)),
        fun within => answered (·.readTable q) q (read.trans (if_neg within.not_gt))⟩
    · rw [← s.imageBytes_local i]
      exact answered (·.readImageRequest (ask [BitVec.ofNat 8 i.val])) _ (s.readImageRequest_eq n i.val (by omega))
    · exact answered (·.readImageRequest (ask [BitVec.ofNat 8 (32 + d.val)])) _
        (s.readImageRequest_eq n (32 + d.val) (by omega))
    · refine answered (·.readStateRequest (ask [object, selector])) (ask [object, selector]) ?_
      simp only [State.readStateRequest, ask, known]
    · refine answered (·.readStateRequest (ask [object, selector])) (ask [object, selector]) ?_
      simp only [State.readStateRequest, ask, unknown]
    · exact answered (·.readFlagsRequest (ask [])) (ask []) rfl
    · exact answered (·.identifyRequest (ask [])) (ask []) rfl
  · intro byte two signed
    refine ⟨fun i a => ⟨fun idle => ?_, s.standbyByte_of_copy i a⟩, fun d => ?_, fun object selector => ⟨?_, ?_, ?_⟩, rfl,
      fun ch => s.objectState_ramp ch, fun g => ?_, fun e => ⟨fun absent => ?_, fun c listed => ?_⟩, ?_, ?_⟩
    · rw [State.standbyByte, idle]
    · rw [State.imageBytes, remoteOf?_remote]
      dsimp only
      rw [s.age_eq d]
      rfl
    · intro notCalls other
      exact (if_neg notCalls).trans (if_pos other)
    · intro calls high
      exact (if_pos calls).trans (dif_neg (Nat.not_lt.mpr high))
    · exact s.objectState_other object selector
    · rw [s.objectState_group g, Group.stateBytes, Group.active, allSteps_eq]
      rfl
    · rw [s.objectState_call e, absent]
      rfl
    · rw [s.objectState_call e, listed, callBytes_some]
      dsimp only
      cases c.origin with
      | group g => rfl
      | ramp ch => cases ch <;> rfl
      | emergency => rfl
      | bridge src =>
        rw [CallOrigin.byte_bridge]
        rfl
    · exact congrArg some s.tableBytes_eq
    · refine ⟨_, _, s.flagReport_eq, rfl, fun b lt => flagBytes_bit _ b (by omega), fun b ge lt x at_ => ?_, _, rfl, ?_⟩
      · rw [flagBytes_bit _ b lt x at_]
        exact BitVec.getLsbD_of_ge _ b ge
      · have bits := s.conditionsByte_getLsbD
        rw [bits 0 (by decide), bits 1 (by decide), bits 2 (by decide), bits 3 (by decide), bits 4 (by decide),
          bits 5 (by decide), bits 6 (by decide), bits 7 (by decide)]
        exact ⟨beq_iff_eq, s.anyStale_iff, s.estopHolds_iff .a, s.estopHolds_iff .b, s.anySec_iff .empty,
          s.anySec_iff .corrupt, rfl, rfl⟩

end Sys2Proof.Machine
end

section
/-! SUPPORT. The consistency check, section by section (R38, R57, R124, R126, R159, R167, R174, R188). -/

namespace Sys2Proof.Machine

open Sys2Proof

/-! ### Numbers -/

theorem outside_eq_false_iff (lo hi n : Nat) : outside lo hi n = false ↔ lo ≤ n ∧ n ≤ hi := by
  simp only [outside, Bool.or_eq_false_iff, decide_eq_false_iff_not, Nat.not_lt]

theorem badZones_eq_false_iff (n : Nat) : badZones n = false ↔ 1 ≤ n ∧ n ≤ 4095 := outside_eq_false_iff 1 4095 n

/-- A part of a record that is checked only when another part calls for it (R174). -/
theorem and_eq_false_iff_imp (a b : Bool) : (a && b) = false ↔ (a = true → b = false) := by
  cases a <;> simp

theorem defUsed_iff (m : Memory) (d : Nat) : defUsed m d = true ↔ m.num (6 * d) ≠ 0 := bne_iff_ne

/-- An image index of a used definition of a kind (R22). -/
def Memory.IsKind (o : Memory) (kind i : Nat) : Prop := 32 ≤ i ∧ i ≤ 127 ∧ o.num (6 * (i - 32)) = kind

theorem isKind_iff (o : Memory) (kind i : Nat) : isKind o kind i = true ↔ o.IsKind kind i := by
  simp only [isKind, Memory.IsKind, Bool.and_eq_true, decide_eq_true_eq, beq_iff_eq, and_assoc]

/-! ### OBJECTS and CONDITIONS -/

theorem sameObject_eq_false_iff (m : Memory) (d e : Nat) : sameObject m d e = false ↔
    ¬ (m.num (6 * d + 1) = m.num (6 * e + 1) ∧ m.num (6 * d + 2) = m.num (6 * e + 2)) := by
  simp only [sameObject, Bool.eq_false_iff, ne_eq, Bool.and_eq_true, beq_iff_eq, Memory.num, BitVec.toNat_inj]

theorem badDef_eq_false_iff (n : NodeNo) (m : Memory) (d : Nat) : badDef n m d = false ↔ m.num (6 * d) ≤ 4
    ∧ (m.num (6 * d) ≠ 0 → 1 ≤ m.num (6 * d + 1) ∧ m.num (6 * d + 1) ≤ 62 ∧ m.num (6 * d + 1) ≠ n.toNat
      ∧ m.num (6 * d + 3) ≤ 1 ∧ 20 ≤ m.read16 (6 * d + 4) ∧ m.read16 (6 * d + 4) ≤ 20000
      ∧ ∀ e, e < d → m.num (6 * e) ≠ 0 →
        ¬ (m.num (6 * d + 1) = m.num (6 * e + 1) ∧ m.num (6 * d + 2) = m.num (6 * e + 2))) := by
  simp only [badDef, Bool.or_eq_false_iff, and_eq_false_iff_imp, decide_eq_false_iff_not, Nat.not_lt, outside_eq_false_iff,
    beq_eq_false_iff_ne, List.any_eq_false, List.mem_range, Bool.not_eq_true, defUsed_iff, sameObject_eq_false_iff, and_assoc]

theorem badTerm_eq_false_iff (o : Memory) (i t x : Nat) : badTerm o i t x = false ↔ i ≤ 127 ∧ (i < 24 ∨ 31 < i)
    ∧ (32 ≤ i → o.num (6 * (i - 32)) ≠ 0) ∧ t ≤ 3 ∧ x ≠ 255 := by
  have local_ : (24 ≤ i → 31 < i) ↔ i < 24 ∨ 31 < i := by omega
  simp only [badTerm, Bool.or_eq_false_iff, and_eq_false_iff_imp, decide_eq_false_iff_not, Nat.not_lt, Nat.not_le,
    decide_eq_true_eq, Bool.not_eq_false', beq_eq_false_iff_ne, defUsed_iff, local_, and_assoc]

theorem badCondition_eq_false_iff (o m : Memory) (c : Nat) : badCondition o m c = false ↔
    m.num (13 * (c - 1)) / 16 ≤ 1 ∧ 1 ≤ m.num (13 * (c - 1)) % 16 ∧ m.num (13 * (c - 1)) % 16 ≤ 4
      ∧ ∀ t, t < m.num (13 * (c - 1)) % 16 → badTerm o (m.num (13 * (c - 1) + 1 + 3 * t))
        (m.num (13 * (c - 1) + 2 + 3 * t)) (m.num (13 * (c - 1) + 3 + 3 * t)) = false := by
  simp only [badCondition, Bool.or_eq_false_iff, decide_eq_false_iff_not, Nat.not_lt, outside_eq_false_iff,
    List.any_eq_false, List.mem_range, Bool.not_eq_true, and_assoc]

/-! ### PASSAGE -/

theorem badHeader_eq_false_iff (m : Memory) : badHeader m = false ↔ m.num 0 ≤ 1 ∧ m.num 1 ≤ 1 := by
  simp only [badHeader, Bool.or_eq_false_iff, decide_eq_false_iff_not, Nat.not_lt]

theorem badPassEntry_eq_false_iff (m : Memory) (e : Nat) : badPassEntry m e = false ↔
    (m.read (2 + 12 * e)).getLsbD 6 = false ∧ m.num (2 + 12 * e) / 16 % 4 ≤ 2 ∧ m.num (2 + 12 * e) % 16 ≤ 6
      ∧ (m.read (2 + 12 * e + 1)).getLsbD 7 = false ∧ (m.read (2 + 12 * e + 1)).getLsbD 3 = false
      ∧ m.num (2 + 12 * e + 2) ≤ 63 ∧ m.num (2 + 12 * e + 3) ≤ 63 ∧ m.num (2 + 12 * e + 8) ≤ 31
      ∧ (m.num (2 + 12 * e) % 16 = 6 → m.num (2 + 12 * e + 9) ≠ 0)
      ∧ m.num (2 + 12 * e + 10) = 0 ∧ m.num (2 + 12 * e + 11) = 0 := by
  simp only [badPassEntry, Bool.or_eq_false_iff, and_eq_false_iff_imp, decide_eq_false_iff_not, Nat.not_lt,
    beq_iff_eq, beq_eq_false_iff_ne, bne_eq_false_iff_eq, and_assoc]
  rfl

/-! ### RAMPS -/

theorem RampParams.outOfRange_eq_false_iff (p : RampParams) : p.outOfRange = false ↔
    p.stowPos < p.deployPos ∧ 1 ≤ p.wLand ∧ p.wLand ≤ 4095 ∧ 1 ≤ p.wStow ∧ p.wStow ≤ 4095
      ∧ 1 ≤ p.wOver ∧ p.wOver ≤ 4095 ∧ 1 ≤ p.wUnder ∧ p.wUnder ≤ 4095 ∧ 16 ≤ p.vMax ∧ p.vMax ≤ 8000
      ∧ 1 ≤ p.vCreep ∧ p.vCreep ≤ p.vMax ∧ p.vStill ≤ p.vCreep ∧ p.vMargin ≤ 4000
      ∧ 1 ≤ p.accel ∧ p.accel ≤ 1000 ∧ 1 ≤ p.accelStop ∧ p.accelStop ≤ 2000 ∧ 1 ≤ p.filter
      ∧ p.filter ≤ 16 ∧ p.kff ≤ 1023 ∧ p.kp ≤ 1023 ∧ p.iLim ≤ 4000 ∧ 200 ≤ p.pwmN ∧ p.pwmN ≤ 4000
      ∧ p.f0 ≤ p.pwmN ∧ 1 ≤ p.dMax ∧ p.dMax ≤ p.pwmN ∧ 1 ≤ p.nSettle ∧ p.nSettle ≤ 255
      ∧ 1 ≤ p.nLift ∧ p.nLift ≤ 255 ∧ 1 ≤ p.nStall ∧ p.nStall ≤ 255 ∧ 1 ≤ p.nOver ∧ p.nOver ≤ 255
      ∧ 1 ≤ p.pMax ∧ p.pMax ≤ 4095 ∧ 5 ≤ p.tPin ∧ p.tPin ≤ 300 ∧ 10 ≤ p.tMotion ∧ p.tMotion ≤ 600
      ∧ p.tPrewarn ≤ 60 ∧ p.lowerPermit.toNat ≤ 31 ∧ p.raisePermit.toNat ≤ 31
      ∧ p.message.toNat ≤ 63 ∧ p.pattern ≤ 8 := by
  simp only [RampParams.outOfRange, Bool.or_eq_false_iff, outside_eq_false_iff, decide_eq_false_iff_not, Nat.not_lt,
    Nat.not_le, and_assoc]

theorem badRamp_eq_false_iff (m : Memory) (ch : Channel) : badRamp m ch = false ↔
    m.num (rampOffset ch) ≤ 1 ∧ (∀ i, i < 7 → m.num (rampOffset ch + 57 + i) = 0)
      ∧ (m.num (rampOffset ch) = 1 → (readRamp m ch).outOfRange = false
        ∧ 1 ≤ m.read16 (rampOffset ch + 53) ∧ m.read16 (rampOffset ch + 53) ≤ 4095) := by
  simp only [badRamp, Bool.or_eq_false_iff, and_eq_false_iff_imp, decide_eq_false_iff_not, Nat.not_lt, beq_iff_eq,
    List.any_eq_false, List.mem_range, bne_iff_ne, ne_eq, not_not, badZones_eq_false_iff, and_assoc]

/-! ### DOORS -/

theorem hasTwice_eq_false_iff (l : List Nat) : hasTwice l = false ↔ l.Nodup := by
  induction l with
  | nil => simp [hasTwice]
  | cons x xs ih => simp [hasTwice, ih]

/-- A list formed from the numbers below a bound holds none twice (R126). -/
theorem nodup_map_range_iff (f : Nat → Nat) (n : Nat) :
    ((List.range n).map f).Nodup ↔ ∀ i j, i < j → j < n → f i ≠ f j := by
  rw [List.Nodup, List.pairwise_map, List.pairwise_iff_getElem]
  simp only [List.length_range, List.getElem_range]
  exact ⟨fun h i j less lt => h i j (less.trans lt) lt less, fun h i j _ lt less => h i j less lt⟩

theorem mem_doorBytes (m : Memory) (g x : Nat) :
    x ∈ doorBytes m g ↔ ∃ i, i < min 8 (m.num (24 * g + 1)) ∧ m.num (24 * g + 2 + i) = x := by
  simp only [doorBytes, List.mem_map, List.mem_range]

theorem badGroup_eq_false_iff (o m : Memory) (g : Nat) : badGroup o m g = false ↔
    m.num (24 * g) ≤ 3 ∧ (∀ i, i < 3 → m.num (24 * g + 21 + i) = 0) ∧ m.num (24 * g + 1) ≤ 8
      ∧ (m.num (24 * g + 1) ≠ 0 →
        (∀ i, i < m.num (24 * g + 1) → o.IsKind 1 (m.num (24 * g + 2 + i)))
        ∧ (∀ i j, i < j → j < m.num (24 * g + 1) → m.num (24 * g + 2 + i) ≠ m.num (24 * g + 2 + j))
        ∧ (∀ h i j, h < g → i < min 8 (m.num (24 * h + 1)) → j < m.num (24 * g + 1) →
            m.num (24 * h + 2 + i) ≠ m.num (24 * g + 2 + j))
        ∧ 1 ≤ m.read16 (24 * g + 10) ∧ m.read16 (24 * g + 10) ≤ 4095 ∧ m.num (24 * g + 12) ≤ 63
        ∧ m.num (24 * g + 13) ≤ 8 ∧ m.num (24 * g + 14) ≤ 120 ∧ m.num (24 * g + 15) ≤ 30
        ∧ m.num (24 * g + 16) ≤ 30 ∧ 1 ≤ m.num (24 * g + 17) ∧ m.num (24 * g + 17) ≤ 120
        ∧ 1 ≤ m.num (24 * g + 18) ∧ m.num (24 * g + 18) ≤ 30 ∧ m.num (24 * g + 19) ≤ 31
        ∧ m.num (24 * g + 20) ≤ 31) := by
  simp only [badGroup, Bool.or_eq_false_iff, and_eq_false_iff_imp, decide_eq_false_iff_not, Nat.not_lt, bne_iff_ne, ne_eq,
    List.any_eq_false, List.mem_range, not_not, badZones_eq_false_iff, outside_eq_false_iff, hasTwice_eq_false_iff, and_assoc]
  refine and_congr_right fun _ => and_congr_right fun _ => and_congr_right fun few => imp_congr_right fun _ => ?_
  have doors : min 8 (m.num (24 * g + 1)) = m.num (24 * g + 1) := Nat.min_eq_right few
  refine and_congr ?_ (and_congr ?_ (and_congr_left' ?_))
  · simp only [mem_doorBytes, doors, Bool.not_eq_true', Bool.not_eq_false, isKind_iff]
    exact ⟨fun h i lt => h _ ⟨i, lt, rfl⟩, fun h x ⟨i, lt, same⟩ => same ▸ h i lt⟩
  · rw [doorBytes, doors]
    exact nodup_map_range_iff _ _
  · simp only [mem_doorBytes, List.contains_iff_mem, List.mem_flatMap, List.mem_range, doors]
    constructor
    · intro h k i j earlier le lt same
      exact h _ ⟨j, lt, rfl⟩ ⟨k, earlier, i, le, same⟩
    · rintro h x ⟨j, lt, rfl⟩ ⟨k, earlier, i, le, same⟩
      exact h k i j earlier le lt same

/-! ### CALLS, BEACONS and SETTINGS -/

theorem badZoneByte_eq_false_iff (o m : Memory) (z : Nat) :
    badZoneByte o m z = false ↔ (m.num z ≠ 0 → o.IsKind 2 (m.num z)) := by
  simp only [badZoneByte, and_eq_false_iff_imp, bne_iff_ne, Bool.not_eq_false', isKind_iff]

/-- The bits of a beacon's record that no field takes (R167). -/
theorem beaconBits_eq_false_iff (y : Byte) :
    (y.extractLsb' 5 2 != 0#2) = false ↔ y.getLsbD 5 = false ∧ y.getLsbD 6 = false := by
  revert y
  decide

theorem badBeacon_eq_false_iff (m : Memory) (x : Nat) : badBeacon m x = false ↔ m.num (3 * x) ≤ 3
    ∧ (m.num (3 * x) = 1 → m.num (3 * x + 1) ≤ 11) ∧ (m.num (3 * x) ≠ 1 → m.num (3 * x + 1) = 0)
    ∧ (m.read (3 * x + 2)).getLsbD 5 = false ∧ (m.read (3 * x + 2)).getLsbD 6 = false := by
  simp only [badBeacon, Bool.or_eq_false_iff, decide_eq_false_iff_not, Nat.not_lt, beaconBits_eq_false_iff, and_assoc]
  refine and_congr_right fun _ => ?_
  split
  · next one => simp [one]
  · next other => simp [other]

theorem badPattern_eq_false_iff (m : Memory) (p : Nat) :
    badPattern m p = false ↔ 1 ≤ m.num (26 + 3 * p) ∧ m.num (26 + 3 * p) ≤ 15 := outside_eq_false_iff _ _ _

/-- The bits of the fifth mask byte that no flag has, bit 33 of SECTION_CORRUPT among them (R188). -/
theorem maskBits_eq_false_iff (y : Byte) :
    ((y &&& 0xFA#8) != 0#8) = false ↔ ∀ i, i ∈ [1, 3, 4, 5, 6, 7] → y.getLsbD i = false := by
  revert y
  decide

theorem badSettings_eq_false_iff (m : Memory) : badSettings m = false ↔
    (∀ i, i ∈ [1, 3, 4, 5, 6, 7] → (m.read 4).getLsbD i = false) ∧ (m.read 5).getLsbD 7 = false
      ∧ (m.read16 6 = 0 ∨ 500 ≤ m.read16 6 ∧ m.read16 6 ≤ 10000) ∧ 5 ≤ m.num 8 ∧ m.num 8 ≤ 60 ∧ m.num 9 ≤ 31
      ∧ m.num 10 ≤ 1 ∧ 1 ≤ m.read16 11 ∧ m.read16 11 ≤ 4095 ∧ m.num 13 ≤ 63 ∧ m.num 14 ≤ 8 ∧ m.num 15 ≤ 8 := by
  simp only [badSettings, Bool.or_eq_false_iff, and_eq_false_iff_imp, decide_eq_false_iff_not, Nat.not_lt,
    maskBits_eq_false_iff, outside_eq_false_iff, badZones_eq_false_iff, bne_iff_ne, ne_eq, ← or_iff_not_imp_left, and_assoc]

/-! ### The first record that fails -/

theorem firstBad_passage (n : NodeNo) (o m : Memory) :
    firstBad n o m 2 = (List.range 65).find? fun e => if e = 64 then badHeader m else badPassEntry m e := by
  have entries : (List.range 64).find? (fun e => if e = 64 then badHeader m else badPassEntry m e)
      = (List.range 64).find? (badPassEntry m) :=
    List.find?_congr fun e mem => by rw [if_neg (by have := List.mem_range.mp mem; omega)]
  rw [List.range_succ, List.find?_append, entries, List.find?_singleton, if_pos rfl]
  rfl

theorem firstBad_ramps (n : NodeNo) (o m : Memory) :
    firstBad n o m 3 = [0, 1].find? fun c => badRamp m (if c = 0 then .a else .b) := by
  show (if badRamp m .a then some 0 else if badRamp m .b then some 1 else none) = _
  cases first : badRamp m .a <;> cases second : badRamp m .b <;> simp [first, second]

theorem firstBad_beacons (n : NodeNo) (o m : Memory) :
    firstBad n o m 6 = (List.range 16).find? fun k => if k < 8 then badBeacon m k else badPattern m (k - 8) := by
  have beacons : (List.range 8).find? (fun k => if k < 8 then badBeacon m k else badPattern m (k - 8))
      = (List.range 8).find? (badBeacon m) :=
    List.find?_congr fun k mem => if_pos (List.mem_range.mp mem)
  have patterns : (fun k => if k < 8 then badBeacon m k else badPattern m (k - 8)) ∘ (8 + ·) = badPattern m := by
    funext k
    exact (if_neg (Nat.not_lt.mpr (Nat.le_add_right 8 k))).trans (congrArg (badPattern m) (Nat.add_sub_cancel_left 8 k))
  rw [show List.range 16 = List.range 8 ++ (List.range 8).map (8 + ·) from rfl, List.find?_append, beacons,
    List.find?_map, patterns]
  rfl

theorem firstBad_settings (n : NodeNo) (o m : Memory) : firstBad n o m 7 = [0].find? fun _ => badSettings m := by
  show (if badSettings m then some 0 else none) = _
  cases badSettings m <;> simp

/-- The check of one section, as its load state and its status ask for it (R174). -/
theorem State.checkSection_listed (s : State) (set : Byte) (i : Fin 8) (listed : inSet set i = true) :
    s.checkSection set i = if (s.sec i).standbyValid then firstBad s.node (s.wouldBe set 0) (s.wouldBe set i) i
      else some 255 := by
  unfold State.checkSection
  cases loaded : (s.sec i).standbyValid <;> simp [listed]

theorem State.checkSection_unlisted (s : State) (set : Byte) (i : Fin 8) (unlisted : inSet set i = false) :
    s.checkSection set i = match (s.sec i).status with
      | .corrupt => some 255
      | .empty => none
      | .valid => firstBad s.node (s.wouldBe set 0) (s.wouldBe set i) i := by
  unfold State.checkSection
  cases status : (s.sec i).status <;> simp [unlisted]

/-- The first of a rising list that yields something. -/
theorem findSome?_rising_eq_some_iff {α : Type} {n : Nat} {l : List (Fin n)} (rising : l.Pairwise (· < ·))
    (all : ∀ i, i ∈ l) (f : Fin n → Option α) (x : α) :
    l.findSome? f = some x ↔ ∃ i, f i = some x ∧ ∀ j, j < i → f j = none := by
  rw [List.findSome?_eq_some_iff]
  constructor
  · rintro ⟨before, i, after, rfl, found, none⟩
    refine ⟨i, found, fun j less => none j ?_⟩
    obtain mem | mem := List.mem_append.mp (all j)
    · exact mem
    · obtain rfl | mem := List.mem_cons.mp mem
      · exact absurd less (lt_irrefl _)
      · have later := (List.pairwise_cons.mp (List.pairwise_append.mp rising).2.1).1 j mem
        exact absurd less later.asymm
  · rintro ⟨i, found, none⟩
    obtain ⟨before, after, rfl⟩ := List.append_of_mem (all i)
    exact ⟨before, i, after, rfl, found,
      fun j mem => none j ((List.pairwise_append.mp rising).2.2 j mem i List.mem_cons_self)⟩

theorem allSecs_rising : allSecs.Pairwise (· < ·) := by decide

theorem mem_allSecs (i : Fin 8) : i ∈ allSecs := by
  revert i
  decide

theorem State.inconsistency_eq_none_iff (s : State) (set : Byte) :
    s.inconsistency set = none ↔ ∀ i, s.checkSection set i = none := by
  simp only [State.inconsistency, List.findSome?_eq_none_iff, mem_allSecs, true_imp_iff, Option.map_eq_none_iff]

theorem State.inconsistency_eq_some_iff (s : State) (set : Byte) (c e : Byte) :
    s.inconsistency set = some (c, e) ↔ ∃ i k, s.checkSection set i = some k
      ∧ (∀ j, j < i → s.checkSection set j = none) ∧ c = BitVec.ofNat 8 i.val ∧ e = BitVec.ofNat 8 k := by
  rw [State.inconsistency, findSome?_rising_eq_some_iff allSecs_rising mem_allSecs]
  simp only [Option.map_eq_some_iff, Option.map_eq_none_iff, Prod.mk.injEq]
  constructor
  · rintro ⟨i, ⟨k, found, rfl, rfl⟩, none⟩
    exact ⟨i, k, found, none, rfl, rfl⟩
  · rintro ⟨i, k, found, none, rfl, rfl⟩
    exact ⟨i, ⟨k, found, rfl, rfl⟩, none⟩

end Sys2Proof.Machine
end

section
/-! SUPPORT. COMMIT, the pending commit, and its end (R173, R175, R178). -/

namespace Sys2Proof.Machine

open Sys2Proof

/-! ### The gate -/

theorem State.rampMoves_iff (s : State) (ch : Channel) : (!s.rampMoves ch && s.rampEntry ch != 8) = true ↔
    s.img.locals.at ch.stateEntry ∉ ([2, 3, 4, 6, 7, 8, 9, 11] : List Byte) := by
  unfold State.rampMoves State.rampEntry
  generalize s.img.locals.at ch.stateEntry = v
  revert v
  decide

theorem State.groupRuns_iff (s : State) (g : Fin 4) : (!([1, 2, 3, 6] : List Nat).contains (s.groupValue g).toNat) = true ↔
    s.img.locals.at (groupEntry g) ∉ ([1, 2, 3, 6] : List Byte) := by
  unfold State.groupValue
  generalize s.img.locals.at (groupEntry g) = v
  revert v
  decide

theorem mem_allGroups (g : Fin 4) : g ∈ allGroups := by
  revert g
  decide

/-- A commit is applied while no entry reads a moving ramp or a group in a sequence (R175). -/
theorem State.gateOpen_iff (s : State) : s.gateOpen = true ↔
    (∀ ch : Channel, s.img.locals.at ch.stateEntry ∉ ([2, 3, 4, 6, 7, 8, 9, 11] : List Byte))
      ∧ ∀ g : Fin 4, s.img.locals.at (groupEntry g) ∉ ([1, 2, 3, 6] : List Byte) := by
  have channels (P : Channel → Prop) : (∀ ch ∈ [Channel.a, Channel.b], P ch) ↔ ∀ ch, P ch :=
    ⟨fun h ch => h ch (by cases ch <;> decide), fun h ch _ => h ch⟩
  rw [State.gateOpen, Bool.and_eq_true, List.all_eq_true, List.all_eq_true]
  simp only [s.rampMoves_iff, s.groupRuns_iff, channels, mem_allGroups, true_imp_iff]

/-! ### COMMIT -/

theorem State.tryApply_pending (s : State) (c : CommitRec) (pending : s.ts.commit = some c) :
    s.tryApply = if s.gateOpen then s.applyCommit c.set else s := by
  rw [State.tryApply, pending]

/-- The commit pending from an accepted COMMIT on (R173). -/
def State.pendCommit (s : State) (set : Byte) : State :=
  { s with ts := { s.ts with commit := some { set := set, expiry := s.now + 120 * Config.second } } }

/-- A COMMIT of three bytes, by its checks in order (R173). -/
theorem State.commitTables_eq (s : State) (n : NodeNo) (set hi lo : Byte) :
    s.commitTables { source := n, payload := [set, hi, lo] } =
      if set = 0 then s.reply n 2 .badRequest
      else if s.tablesBusy then s.reply n 2 .busy
      else if (s.standbyCode set).toNat ≠ word16 hi lo then s.reply n 2 .crcMismatch
      else if s.dcc.deck = .emergency then s.refuse n 2 .deckCondition
      else ((s.inconsistency set).map fun x => s.reply n 2 .inconsistent [x.1, x.2]).getD
        ((s.pendCommit set).reply n 2 .accepted).tryApply := by
  unfold State.commitTables
  dsimp only
  cases s.inconsistency set <;> rfl

theorem State.replied_pending (s : State) (q : Request) (set : Byte) :
    ((s.pendCommit set).replied q 2 .accepted).ts.commit = some { set := set, expiry := s.now + 120 * Config.second } :=
  congrArg Ts.commit (State.queued_calm _ _).ts

theorem State.replied_gateOpen (s : State) (q : Request) (set : Byte) :
    ((s.pendCommit set).replied q 2 .accepted).gateOpen = s.gateOpen := by
  have img : ((s.pendCommit set).replied q 2 .accepted).img = s.img := State.queued_img _ _
  simp only [State.gateOpen, State.rampMoves, State.rampEntry, State.groupValue, img]

/-- The judgement of a COMMIT (R173, R175). -/
theorem commitJudged_request (s : State) (n : NodeNo) (set hi lo : Byte) (settled : Settled s) (room : HasRoom s) :
    let q : Request := { source := n, payload := [set, hi, lo] }
    let out := exec (.commit q) s
    let free := set ≠ 0 ∧ s.ts.commit = none ∧ s.ts.copy = none
    let coded := free ∧ (s.standbyCode set).toNat = word16 hi lo
    let allowed := coded ∧ s.dcc.deck ≠ .emergency
    (set = 0 → out = .next (s.replied q 2 .badRequest))
      ∧ (set ≠ 0 → (s.ts.commit ≠ none ∨ s.ts.copy ≠ none) → out = .next (s.replied q 2 .busy))
      ∧ (free → (s.standbyCode set).toNat ≠ word16 hi lo → out = .next (s.replied q 2 .crcMismatch))
      ∧ (coded → s.dcc.deck = .emergency → out = .next (s.refusedWith q 2 .deckCondition))
      ∧ (∀ c e, allowed → s.inconsistency set = some (c, e) → out = .next (s.replied q 2 .inconsistent [c, e]))
      ∧ (allowed → s.inconsistency set = none →
          let u := (s.pendCommit set).replied q 2 .accepted
          (¬ s.gateOpen = true → out = .next u) ∧ (s.gateOpen = true → out = .next (State.settled (u.applyCommit set)))) := by
  intro q out free coded allowed
  have judged := s.commitTables_eq n set hi lo
  have answered {code : Result} {bytes : List Byte} (own : s.commitTables q = s.reply n 2 code bytes) :=
    s.actRequest_replied (·.commitTables q) q 2 code bytes settled room own
  have past_free (h : free) : s.commitTables q = _ :=
    judged.trans ((if_neg h.1).trans (if_neg (ne_true_of_eq_false (s.tablesBusy_of_none h.2.1 h.2.2))))
  have past_coded (h : coded) : s.commitTables q = _ := (past_free h.1).trans (if_neg (not_not.mpr h.2))
  have past_allowed (h : allowed) : s.commitTables q = _ := (past_coded h.1).trans (if_neg h.2)
  refine ⟨fun none => answered (judged.trans (if_pos none)),
    fun some busy => answered (judged.trans ((if_neg some).trans (if_pos (s.tablesBusy_iff.mpr busy)))),
    fun free code => answered ((past_free free).trans (if_pos code)),
    fun coded deck => s.actRequest_refused (·.commitTables q) q 2 _ settled room ((past_coded coded).trans (if_pos deck)),
    fun c e allowed bad => ?_, fun allowed good => ?_⟩
  · have own := past_allowed allowed
    rw [bad] at own
    exact answered own
  · intro u
    have own := past_allowed allowed
    have accepted : (s.pendCommit set).reply n 2 .accepted = u := State.reply_replied _ q 2 .accepted [] room
    rw [good, Option.map_none, Option.getD_none, accepted, u.tryApply_pending _ (s.replied_pending q set),
      s.replied_gateOpen q set] at own
    refine ⟨fun shut => s.actRequest_exact _ (·.commitTables q) settled (own.trans (if_neg shut)) (State.queued_agenda _ _)
      (congrArg Fc.owed (State.queued_fc _ _)) (State.queued_calm _ _).dls, fun gate => ?_⟩
    obtain ⟨node, -, -, -, restarting⟩ := settled
    exact s.actRequest_own _ (·.commitTables q) node restarting (own.trans (if_pos gate))

/-- Settles O21: the judgement, the first failure, the first record of a section that fails, and the limits. -/
theorem commitJudged : Obligations.CommitJudged := by
  refine ⟨fun s n set hi lo settled room => ?_, fun s set => ?_, fun n o m => ?_, fun n o m => ?_, badTerm_eq_false_iff,
    RampParams.outOfRange_eq_false_iff⟩
  · intro q out free coded allowed gate
    have judged := commitJudged_request s n set hi lo settled room
    rw [s.gateOpen_iff] at judged
    exact judged
  · intro copy fails
    have check (i : Fin 8) : fails i = s.checkSection set i := by
      cases listed : inSet set i with
      | true => rw [s.checkSection_listed set i listed]; exact if_pos listed
      | false => rw [s.checkSection_unlisted set i listed]; exact if_neg (ne_true_of_eq_false listed)
    simp only [check]
    exact ⟨s.inconsistency_eq_none_iff set, s.inconsistency_eq_some_iff set⟩
  · exact ⟨rfl, rfl, firstBad_passage n o m, firstBad_ramps n o m, rfl, rfl, firstBad_beacons n o m, firstBad_settings n o m⟩
  · exact ⟨badDef_eq_false_iff n m, badCondition_eq_false_iff o m, badHeader_eq_false_iff m, badPassEntry_eq_false_iff m,
      badRamp_eq_false_iff m, badGroup_eq_false_iff o m, badZoneByte_eq_false_iff o m, badBeacon_eq_false_iff m,
      badPattern_eq_false_iff m, badSettings_eq_false_iff m⟩

end Sys2Proof.Machine
end

section
/-! SUPPORT. The blocks that act at a swap leave the tables alone (R176). -/

namespace Sys2Proof.Machine

open Sys2Proof

/-- What each step of a fold leaves alone, the fold leaves alone. -/
theorem foldl_keeps {α β γ : Type} (g : β → γ) (f : β → α → β) (keeps : ∀ t x, g (f t x) = g t) (l : List α) (s : β) :
    g (l.foldl f s) = g s := by
  induction l generalizing s with
  | nil => rfl
  | cons x l ih => exact (ih (f s x)).trans (keeps s x)

/-! ### EMERGENCY -/

theorem State.changeDeck_ts (s : State) (d : DeckCondition) (c : DeckCause) : (s.changeDeck d c).ts = s.ts :=
  (s.changeDeck_only d c).ts

theorem State.zeroTestCount_ts (s : State) (id : TestId) : (s.zeroTestCount id).ts = s.ts := by
  cases id <;> rfl

theorem State.endTest_ts (s : State) (r : TestResult) : (s.endTest r).ts = s.ts := by
  unfold State.endTest
  split
  · rfl
  · next t test =>
    rw [(State.notice_calm _ _ _ _).ts]
    exact s.zeroTestCount_ts t.id

theorem State.abortCommit_none (s : State) (idle : s.ts.commit = none) : s.abortCommit = s := by
  rw [State.abortCommit, idle]

theorem State.haltRamp_only (s : State) (ch : Channel) : RampOnly ch s (s.haltRamp ch) := by
  unfold State.haltRamp
  have same := RampOnly.refl ch s
  cases (s.ramp ch).state with
  | lowering | landing | raising | stowing | jog | starting => exact same.enterRamp _
  | halting => exact same.setRamp _
  | disabled | stowedLocked | landed | halted | locking | fault => exact same

theorem State.emergencyClose_only (s : State) (g : Fin 4) : GroupOnly g s (s.emergencyClose g) :=
  (GroupOnly.refl g s).emergencyClose

/-- The requests of the entry to EMERGENCY, before the commit and the proof test (R53). -/
def State.emergencyRequests (s : State) (cause : DeckCause) : State :=
  let s := (s.changeDeck .emergency cause).raiseBeacons.placeEmergency
  let s := allGroups.foldl (fun s g => if (s.group g).defn.fire then s.emergencyClose g else s) s
  (s.haltRamp .a).haltRamp .b

theorem State.enterEmergency_eq (s : State) (cause : DeckCause) :
    s.enterEmergency cause = (s.emergencyRequests cause).abortCommit.endTest .aborted := rfl

theorem State.emergencyRequests_ts (s : State) (cause : DeckCause) : (s.emergencyRequests cause).ts = s.ts := by
  unfold State.emergencyRequests
  have calls : CallsOnly (s.changeDeck .emergency cause) (s.changeDeck .emergency cause).raiseBeacons.placeEmergency :=
    (CallsOnly.refl _).raiseBeacons.placeEmergency
  have group (t : State) (g : Fin 4) : (if (t.group g).defn.fire then t.emergencyClose g else t).ts = t.ts := by
    split
    · exact (t.emergencyClose_only g).ts
    · rfl
  dsimp only
  rw [(State.haltRamp_only _ .b).ts, (State.haltRamp_only _ .a).ts, foldl_keeps State.ts _ group, calls.ts, s.changeDeck_ts]

theorem State.enterEmergency_ts (s : State) (cause : DeckCause) (idle : s.ts.commit = none) :
    (s.enterEmergency cause).ts = s.ts := by
  have requests := s.emergencyRequests_ts cause
  rw [s.enterEmergency_eq, State.abortCommit_none _ (by rw [requests, idle]), State.endTest_ts, requests]

/-! ### The blocks at a swap -/

theorem State.changeRemote_ts (s : State) (d : Fin 96) (r : Remote) : (s.changeRemote d r).ts = s.ts := by
  unfold State.changeRemote
  dsimp only
  split <;> rfl

theorem State.resetImage_ts (s : State) : s.resetImage.ts = s.ts := by
  unfold State.resetImage
  dsimp only
  exact foldl_keeps State.ts _ (fun t d => t.changeRemote_ts d _) _ s

theorem State.discardPoll_ts (s : State) : s.discardPoll.ts = s.ts := by
  unfold State.discardPoll
  split
  · rfl
  · split <;> rfl

theorem State.swapObjects_ts (s : State) : s.swapObjects.ts = s.ts := by
  simp only [State.swapObjects, State.wakeArbiter, State.discardPoll_ts, State.resetImage_ts]

/-- The RAMPS swap touches one channel (R104). -/
theorem State.swapRamp_only (s : State) (ch : Channel) (p : RampParams) : RampOnly ch s (s.swapRamp ch p) := by
  have same := RampOnly.refl ch s
  unfold State.swapRamp
  split
  · split
    · unfold State.enableRamp
      dsimp only
      split
      · exact ((same.setRamp _).enterRamp _).raiseFlag _
      · exact (same.setRamp _).enterRamp _
    · exact same
  · split
    · exact ((same.setRamp _).abortTestOn).formBeacons
    · exact (same.setRamp _).enterRamp _

theorem State.swapRamps_ts (s : State) : s.swapRamps.ts = s.ts :=
  (State.swapRamp_only _ .b _).ts.trans (State.swapRamp_only _ .a _).ts

/-- The DOORS swap touches one group (R143). -/
theorem State.swapGroup_only (s : State) (g : Fin 4) (d : GroupDef) : GroupOnly g s (s.swapGroup g d) := by
  have taken := (GroupOnly.refl g s).setGroup { s.group g with defn := d }
  unfold State.swapGroup
  dsimp only
  split
  · exact taken
  · split
    · exact taken.resetSteps
    · exact taken.resetSteps.enterGroup _ _

theorem State.swapGroups_ts (s : State) : s.swapGroups.ts = s.ts :=
  foldl_keeps State.ts _ (fun t g => (t.swapGroup_only g _).ts) _ s

theorem State.swapZones_ts (s : State) (old : Tab ObjDef 96) (index : Fin 12 → Nat) : (s.swapZones old index).ts = s.ts :=
  ((CallsOnly.refl s).swapZones old index).ts

theorem State.restartBeacons_ts (s : State) : s.restartBeacons.ts = s.ts := (CallsOnly.refl s).restartBeacons.ts

theorem State.swapSilence_ts (s : State) : s.swapSilence.ts = s.ts := by
  unfold State.swapSilence
  dsimp only
  split
  · split
    · exact (State.writeLocal_calm _ _ _).ts
    · rfl
  · split <;> rfl

theorem State.swapSettings_ts (s : State) (idle : s.ts.commit = none) : s.swapSettings.ts = s.ts := by
  have before : s.swapSilence.reform.formBeacons.ts = s.ts :=
    (CallsOnly.refl _).formBeacons.ts.trans ((State.reform_calm _).ts.trans s.swapSilence_ts)
  unfold State.swapSettings
  dsimp only
  split
  · rw [State.enterEmergency_ts _ _ (by rw [before, idle]), before]
  · exact before

theorem State.takeCopies_ts (s : State) (set : Byte) : (s.takeCopies set).ts = s.ts := by
  unfold State.takeCopies
  cases inSet set 0 <;> cases inSet set 6 <;> cases inSet set 7 <;> rfl

end Sys2Proof.Machine
end

section
/-! SUPPORT. The application of a commit, the copy, and what the blocks do at the swap (R36, R104, R143, R159, R165,
R176, R177). -/

namespace Sys2Proof.Machine

open Sys2Proof

/-! ### The exchange -/

theorem State.sec_of_ts {s t : State} (same : t.ts = s.ts) (i : Fin 8) : t.sec i = s.sec i :=
  congrArg (fun x : Ts => x.secs.at i) same

theorem State.ite_ts {b : Bool} {s t : State} (same : t.ts = s.ts) : (if b then t else s).ts = s.ts := by
  split
  · exact same
  · rfl

theorem State.exchange_sec (s : State) (set : Byte) (i : Fin 8) :
    (s.exchange set).sec i = if inSet set i then (s.sec i).swap i else s.sec i := Tab.at_make _ _

theorem State.swapCalls_ts (s : State) (set : Byte) (old : Tab ObjDef 96) : (s.swapCalls set old).ts = s.ts :=
  s.swapZones_ts _ _

theorem State.blocksSwap_ts (s : State) (set : Byte) (old : Tab ObjDef 96) (idle : s.ts.commit = none) :
    (s.blocksSwap set old).ts = s.ts := by
  unfold State.blocksSwap
  extract_lets x0 x3 x4 x5 x6
  have h0 : x0.ts = s.ts := State.ite_ts s.swapObjects_ts
  have h3 : x3.ts = s.ts := (State.ite_ts x0.swapRamps_ts).trans h0
  have h4 : x4.ts = s.ts := (State.ite_ts x3.swapGroups_ts).trans h3
  have h5 : x5.ts = s.ts := (State.ite_ts (x4.swapCalls_ts set old)).trans h4
  have h6 : x6.ts = s.ts := (State.ite_ts x5.restartBeacons_ts).trans h5
  exact (State.ite_ts (x6.swapSettings_ts (by rw [h6, idle]))).trans h6

/-- The tables after an application are those of the exchange (R176). -/
theorem State.applyCommit_ts (s : State) (set : Byte) : (s.applyCommit set).ts = (s.exchange set).ts := by
  have noticed : ((s.exchange set).notice 30 1 [set]).ts = (s.exchange set).ts := (State.notice_calm _ _ _ _).ts
  have taken := (((s.exchange set).notice 30 1 [set]).takeCopies_ts set).trans noticed
  have idle : (s.exchange set).ts.commit = none := rfl
  exact (State.blocksSwap_ts _ set s.img.defs (by rw [taken, idle])).trans taken

/-! ### The blocks, in order -/

theorem foldl_congr_of_keeps {α β : Type} (P : β → Prop) (f g : β → α → β) (same : ∀ t x, P t → f t x = g t x)
    (keeps : ∀ t x, P t → P (g t x)) (l : List α) (s : β) (start : P s) : l.foldl f s = l.foldl g s := by
  induction l generalizing s with
  | nil => rfl
  | cons x l ih =>
    rw [List.foldl_cons, List.foldl_cons, same s x start]
    exact ih _ (keeps s x start)

theorem State.swapRamps_eq {s e : State} (same : s.ts = e.ts) :
    s.swapRamps = (s.swapRamp .a (readRamp (e.sec 3).active .a)).swapRamp .b (readRamp (e.sec 3).active .b) := by
  rw [State.swapRamps, State.sec_of_ts same]

theorem State.swapGroups_eq {s e : State} (same : s.ts = e.ts) :
    s.swapGroups = allGroups.foldl (fun t g => t.swapGroup g (readGroup (e.sec 4).active g)) s :=
  foldl_congr_of_keeps (fun t => t.ts = e.ts) _ _ (fun t g at_ => by rw [State.sec_of_ts at_])
    (fun t g at_ => (t.swapGroup_only g _).ts.trans at_) allGroups s same

theorem State.swapCalls_eq {s e : State} (same : s.ts = e.ts) (set : Byte) (old : Tab ObjDef 96) :
    s.swapCalls set old = s.swapZones old fun z =>
      if inSet set 5 then readZoneIndex (e.sec 5).active z else (s.cl.zones.at z).index := by
  rw [State.swapCalls, State.sec_of_ts same]

/-- The application, block by block, each reading what was exchanged (R176). -/
theorem State.applyCommit_eq (s : State) (set : Byte) :
    let e := (s.exchange set).notice 30 1 [set]
    let copied := e.takeCopies set
    let x0 := if inSet set 0 then copied.swapObjects else copied
    let x3 := if inSet set 3 then
      (x0.swapRamp .a (readRamp (e.sec 3).active .a)).swapRamp .b (readRamp (e.sec 3).active .b) else x0
    let x4 := if inSet set 4 then allGroups.foldl (fun t g => t.swapGroup g (readGroup (e.sec 4).active g)) x3 else x3
    let x5 := if inSet set 0 ∨ inSet set 5 then x4.swapZones s.img.defs fun z =>
      if inSet set 5 then readZoneIndex (e.sec 5).active z else (x4.cl.zones.at z).index else x4
    let x6 := if inSet set 6 then x5.restartBeacons else x5
    s.applyCommit set = if inSet set 7 then x6.swapSettings else x6 := by
  intro e copied x0 x3 x4 x5 x6
  have taken : copied.ts = e.ts := e.takeCopies_ts set
  have h0 : x0.ts = e.ts := (State.ite_ts copied.swapObjects_ts).trans taken
  have ramps := State.swapRamps_eq h0
  have e3 : (if inSet set 3 then x0.swapRamps else x0) = x3 := by rw [ramps]
  have h3 : x3.ts = e.ts := by
    rw [← e3]
    exact (State.ite_ts x0.swapRamps_ts).trans h0
  have groups := State.swapGroups_eq h3
  have e4 : (if inSet set 4 then x3.swapGroups else x3) = x4 := by rw [groups]
  have h4 : x4.ts = e.ts := by
    rw [← e4]
    exact (State.ite_ts x3.swapGroups_ts).trans h3
  have e5 : (if inSet set 0 || inSet set 5 then x4.swapCalls set s.img.defs else x4) = x5 := by
    rw [State.swapCalls_eq h4]
    simp only [Bool.or_eq_true]
    rfl
  unfold State.applyCommit State.blocksSwap
  dsimp only
  rw [show (if inSet set 0 then (((s.exchange set).notice 30 1 [set]).takeCopies set).swapObjects
    else ((s.exchange set).notice 30 1 [set]).takeCopies set) = x0 from rfl, e3, e4, e5]

/-! ### The working copies -/

theorem State.takeCopies_defs (s : State) (set : Byte) : (s.takeCopies set).img.defs =
    if inSet set 0 then readDefs (s.sec 0).active else s.img.defs := by
  unfold State.takeCopies
  cases inSet set 0 <;> cases inSet set 6 <;> cases inSet set 7 <;> rfl

theorem State.takeCopies_bd (s : State) (set : Byte) : (s.takeCopies set).bd =
    if inSet set 6 then { s.bd with recs := Tab.make (readBeacon (s.sec 6).active)
                                    patterns := Tab.make (readPattern (s.sec 6).active) } else s.bd := by
  unfold State.takeCopies
  cases inSet set 0 <;> cases inSet set 6 <;> cases inSet set 7 <;> rfl

theorem State.takeCopies_settings (s : State) (set : Byte) : (s.takeCopies set).settings =
    if inSet set 7 then readSettings (s.sec 7).active else s.settings := by
  unfold State.takeCopies
  cases inSet set 0 <;> cases inSet set 6 <;> cases inSet set 7 <;> rfl

theorem State.takeCopies_fc (s : State) (set : Byte) : (s.takeCopies set).fc =
    if inSet set 7 then { s.fc with masks := readMasks (s.sec 7).active
                                    summaryMasks := readSummaryMasks (s.sec 7).active } else s.fc := by
  unfold State.takeCopies
  cases inSet set 0 <;> cases inSet set 6 <;> cases inSet set 7 <;> rfl

theorem at_ite_make {α : Type} {n : Nat} (b : Bool) (f : Fin n → α) (t : Tab α n) (i : Fin n) :
    (if b then Tab.make f else t).at i = if b then f i else t.at i := by
  split
  · exact Tab.at_make f i
  · rfl

/-! ### The copy -/

theorem State.copyCompleted_eq (s : State) (c : CopyRec) (copy : s.ts.copy = some c) :
    s.copyCompleted = { s with
      now := max s.now (c.start + copyMsBefore c.set 8 * 4000)
      ts := { s.ts with
        secs := Tab.make fun i => if inSet c.set i then (s.sec i).copied else s.sec i
        copy := none } } := by
  rw [State.copyCompleted, copy]
  rfl

theorem Sec.copied_eq (x : Sec) :
    x.copied = { x with standby := x.active, standbyValid := decide (x.status ≠ .corrupt) } := by
  unfold Sec.copied
  cases x.status <;> rfl

/-! ### OBJECTS -/

/-- Remote entries replaced and events raised, nothing else. -/
def State.withRemotes (s : State) (remotes : Tab Remote 96) (events : List Task) : State :=
  { s with img := { s.img with remotes := remotes }, agenda := s.agenda ++ events }

theorem State.withRemotes_twice (s : State) (r x : Tab Remote 96) (e f : List Task) :
    (s.withRemotes r e).withRemotes x f = s.withRemotes x (e ++ f) := by
  simp only [State.withRemotes, List.append_assoc]

theorem State.changeRemote_eq (s : State) (d : Fin 96) (r : Remote) :
    s.changeRemote d r = s.withRemotes (s.img.remotes.put d r)
      (if (s.img.remotes.at d).value = r.value then []
        else [.imageChange (remoteIndex d) (s.img.remotes.at d).value r.value]) := by
  unfold State.changeRemote State.withRemotes
  dsimp only
  split
  · rw [List.append_nil]
    rfl
  · rfl

/-- A remote entry as an OBJECTS swap or a RESTART leaves it (R36, R37). -/
def Remote.awaiting (now : Nat) : Remote := { value := 255, detail := [], standing := .awaiting, since := now }

/-- The events of entries that become 255 (R36). -/
def State.resetEvents (s : State) (l : List (Fin 96)) : List Task :=
  (l.filter fun d => decide ((s.img.remotes.at d).value ≠ 255)).map fun d =>
    .imageChange (remoteIndex d) (s.img.remotes.at d).value 255

theorem State.resetEvents_cons (s : State) (d : Fin 96) (l : List (Fin 96)) : s.resetEvents (d :: l) =
    (if (s.img.remotes.at d).value = 255 then [] else [.imageChange (remoteIndex d) (s.img.remotes.at d).value 255])
      ++ s.resetEvents l := by
  unfold State.resetEvents
  by_cases same : (s.img.remotes.at d).value = 255
  · rw [if_pos same, List.filter_cons_of_neg (by simpa using same), List.nil_append]
  · rw [if_neg same, List.filter_cons_of_pos (by simpa using same), List.map_cons, List.singleton_append]

theorem State.resetEvents_congr {s t : State} {l : List (Fin 96)}
    (same : ∀ d ∈ l, t.img.remotes.at d = s.img.remotes.at d) : t.resetEvents l = s.resetEvents l := by
  unfold State.resetEvents
  rw [List.filter_congr fun d mem => by rw [same d mem]]
  exact List.map_congr_left fun d mem => by rw [same d (List.mem_filter.mp mem).1]

/-- Entries of a list without repetition reset one after another: each read as it was before, and told if it
changes (R36). -/
theorem foldl_changeRemote (l : List (Fin 96)) (once : l.Nodup) (s : State) :
    let t := l.foldl (fun s d => s.changeRemote d (Remote.awaiting s.now)) s
    t = s.withRemotes t.img.remotes (s.resetEvents l)
      ∧ ∀ d, t.img.remotes.at d = if d ∈ l then Remote.awaiting s.now else s.img.remotes.at d := by
  induction l generalizing s with
  | nil => exact ⟨by simp [State.withRemotes, State.resetEvents], fun d => by simp⟩
  | cons x l ih =>
    obtain ⟨fresh, once⟩ := List.nodup_cons.mp once
    rw [List.foldl_cons]
    obtain ⟨frame, entries⟩ := ih once (s.changeRemote x (Remote.awaiting s.now))
    have first := s.changeRemote_eq x (Remote.awaiting s.now)
    generalize s.changeRemote x (Remote.awaiting s.now) = u at frame entries first ⊢
    generalize l.foldl (fun s d => s.changeRemote d (Remote.awaiting s.now)) u = t at frame entries ⊢
    have remotes : u.img.remotes = s.img.remotes.put x (Remote.awaiting s.now) := by
      rw [first]
      rfl
    have now : u.now = s.now := by
      rw [first]
      rfl
    have others (d : Fin 96) (other : d ≠ x) : u.img.remotes.at d = s.img.remotes.at d := by
      rw [remotes]
      exact Tab.at_put_ne _ _ other.symm
    have told : u.resetEvents l = s.resetEvents l :=
      State.resetEvents_congr fun d mem => others d fun same => fresh (same ▸ mem)
    refine ⟨?_, fun d => ?_⟩
    · rw [told, first, State.withRemotes_twice] at frame
      rw [State.resetEvents_cons]
      exact frame
    · rw [entries d, now]
      by_cases mem : d ∈ l
      · rw [if_pos mem, if_pos (List.mem_cons_of_mem x mem)]
      · rw [if_neg mem]
        by_cases same : d = x
        · rw [if_pos (same ▸ List.mem_cons_self), remotes, same, Tab.at_put_self]
        · rw [if_neg fun h => (List.mem_cons.mp h).elim same mem, others d same]

theorem State.resetImage_eq (s : State) :
    s.resetImage = { s with
        img := { s.img with remotes := s.resetImage.img.remotes, pointer := 0, pass := 0 }
        agenda := s.agenda ++ s.resetEvents (List.finRange 96) }
      ∧ ∀ d, s.resetImage.img.remotes.at d = Remote.awaiting s.now := by
  obtain ⟨frame, entries⟩ := foldl_changeRemote (List.finRange 96) (List.nodup_finRange 96) s
  unfold Remote.awaiting at frame entries
  unfold State.resetImage
  dsimp only
  generalize (List.finRange 96).foldl _ s = t at frame entries ⊢
  refine ⟨?_, fun d => (entries d).trans (if_pos (List.mem_finRange d))⟩
  rw [frame]
  rfl

/-- The outcome of an open POLL is discarded (R36). -/
def Transaction.discardedPoll (x : Transaction) : Transaction := if x.kind = .poll then { x with discard := true } else x

theorem State.discardPoll_eq (s : State) :
    s.discardPoll = { s with dls := { s.dls with tx := s.dls.tx.map Transaction.discardedPoll } } := by
  unfold State.discardPoll
  split
  · next idle =>
    have same : s.dls.tx.map Transaction.discardedPoll = s.dls.tx := by rw [idle]; rfl
    rw [same]
  · next x open_ =>
    have taken : s.dls.tx.map Transaction.discardedPoll = some x.discardedPoll := by rw [open_]; rfl
    rw [taken, Transaction.discardedPoll]
    split
    · rfl
    · rw [← open_]

/-- The OBJECTS swap: image, rotation, open POLL, arbiter (R36). -/
theorem State.swapObjects_eq (s : State) :
    s.swapObjects = { s with
        img := { s.img with remotes := s.swapObjects.img.remotes, pointer := 0, pass := 0 }
        agenda := s.agenda ++ s.resetEvents (List.finRange 96)
        dls := { s.dls with
          tx := s.dls.tx.map Transaction.discardedPoll
          choose := s.dls.choose || decide (s.dls.line = .free) } }
      ∧ ∀ d, s.swapObjects.img.remotes.at d = Remote.awaiting s.now := by
  obtain ⟨frame, entries⟩ := s.resetImage_eq
  unfold State.swapObjects State.wakeArbiter
  rw [State.discardPoll_eq]
  generalize s.resetImage = t at frame entries ⊢
  refine ⟨?_, entries⟩
  rw [frame]

/-! ### RAMPS and DOORS -/

theorem State.swapGroup_same (s : State) (g : Fin 4) (d : GroupDef) (doors : (s.group g).defn.doors = d.doors) :
    s.swapGroup g d = s.setGroup g { s.group g with defn := d } := if_pos doors

theorem Group.enter_defn (r : Group) (st : GroupState) : (r.enter st).defn = r.defn := by
  unfold Group.enter Group.releaseSteps
  split <;> rfl

/-- A group with no step COMMANDED releases none (R130). -/
theorem Group.enter_steps (r : Group) (st : GroupState) (none : ∀ k, (r.steps.at k).state ≠ .commanded) (k : Fin 8) :
    ((r.enter st).steps.at k) = r.steps.at k := by
  unfold Group.enter Group.releaseSteps
  split
  · exact (Tab.at_make _ _).trans (if_neg (none k))
  · rfl

theorem State.group_resetSteps (s : State) (g : Fin 4) : (s.resetSteps g).group g =
    { s.group g with steps := Tab.make fun k => ((s.group g).steps.at k).restarted } := State.group_setGroup_self _ _ _

theorem State.enterGroup_published (s : State) (g : Fin 4) (st : GroupState) (breach : Byte) :
    (s.enterGroup g st breach).img.locals.at (groupEntry g) = st.code := by
  unfold State.enterGroup
  extract_lets old entered written r
  have other : (11 : Fin 32) ≠ groupEntry g := (groupEntry_ne g).2.1.symm
  refine (State.place_locals _ _ _ other).trans ?_
  rw [State.writeLocal_locals, Tab.at_put_self]

/-- A group whose door list changes is built anew (R143). -/
theorem State.swapGroup_record (s : State) (g : Fin 4) (d : GroupDef) (doors : (s.group g).defn.doors ≠ d.doors) :
    let t := s.swapGroup g d
    (t.group g).defn = d ∧ (t.group g).state = .idle
      ∧ t.img.locals.at (groupEntry g) = (if (s.group g).state = .idle then s.img.locals.at (groupEntry g) else 0)
      ∧ ∀ k, (t.group g).steps.at k = ((s.group g).steps.at k).restarted := by
  intro t
  have taken : t = (let u := (s.setGroup g { s.group g with defn := d }).resetSteps g
      if (s.group g).state = .idle then u else u.enterGroup g .idle) := if_neg doors
  have record : ((s.setGroup g { s.group g with defn := d }).resetSteps g).group g =
      { s.group g with defn := d, steps := Tab.make fun k => ((s.group g).steps.at k).restarted } := by
    rw [State.group_resetSteps, State.group_setGroup_self]
  rw [taken]
  dsimp only
  split
  · next idle =>
    rw [record]
    exact ⟨rfl, idle, rfl, fun k => Tab.at_make _ _⟩
  · have waiting (k : Fin 8) : ((Tab.make fun k => ((s.group g).steps.at k).restarted).at k) =
        ((s.group g).steps.at k).restarted := Tab.at_make _ _
    rw [State.enterGroup_record, record]
    refine ⟨Group.enter_defn _ _, rfl, State.enterGroup_published _ _ _ _, fun k => ?_⟩
    rw [Group.enter_steps]
    · exact waiting k
    · intro k
      rw [waiting k]
      show StepState.waiting ≠ .commanded
      decide

/-! ### CALLS -/

theorem State.zone_setZone_self (s : State) (z : Fin 12) (x : Zone) : (s.setZone z x).cl.zones.at z = x :=
  Tab.at_put_self _ _ _

theorem State.zone_setZone_ne (s : State) {z y : Fin 12} (x : Zone) (other : z ≠ y) :
    (s.setZone z x).cl.zones.at y = s.cl.zones.at y := Tab.at_put_ne _ _ other

/-- The owning call depends on the zone's owner and the calls alone (R152). -/
theorem State.ownerCall_congr {s t : State} {z : Fin 12} (owner : (t.cl.zones.at z).owner = (s.cl.zones.at z).owner)
    (calls : t.cl.calls = s.cl.calls) : t.ownerCall z = s.ownerCall z := by
  rw [State.ownerCall, State.ownerCall, owner, calls]

/-- A zone whose pending frames are discarded at its move (R159). -/
def State.clearZone (s : State) (z : Fin 12) : State :=
  s.setZone z { s.cl.zones.at z with pendingCut := none, pendingPlay := none }

theorem State.clearZone_ownerCall (s : State) (z : Fin 12) : (s.clearZone z).ownerCall z = s.ownerCall z :=
  State.ownerCall_congr (by rw [State.clearZone, State.zone_setZone_self]) rfl

theorem State.moveZone_unowned (s : State) (z : Fin 12) (old : Option (NodeNo × Byte)) (unowned : s.ownerCall z = none) :
    s.moveZone z old = (s.clearZone z).playOwner z := by
  have same := (s.clearZone_ownerCall z).trans unowned
  unfold State.clearZone at same ⊢
  rw [State.moveZone, same]

theorem State.moveZone_playing (s : State) (z : Fin 12) (e : Fin 16) (c : Call) (node : NodeNo) (object : Byte)
    (owned : s.ownerCall z = some (e, c)) (playing : c.isPlaying z = true) :
    s.moveZone z (some (node, object)) =
      (((s.clearZone z).cutTo z node object c.isEmergency).setMark e z (.pending false)).playOwner z := by
  have same := (s.clearZone_ownerCall z).trans owned
  unfold State.clearZone at same ⊢
  simp only [State.moveZone, same, if_pos playing]

theorem State.moveZone_still (s : State) (z : Fin 12) (old : Option (NodeNo × Byte)) (e : Fin 16) (c : Call)
    (owned : s.ownerCall z = some (e, c)) (still : c.isPlaying z = false ∨ old = none) :
    s.moveZone z old = ((s.clearZone z).setMark e z (.pending false)).playOwner z := by
  have same := (s.clearZone_ownerCall z).trans owned
  unfold State.clearZone at same ⊢
  cases old with
  | none => simp only [State.moveZone, same]
  | some target =>
    obtain ⟨node, object⟩ := target
    simp only [State.moveZone, same, still.resolve_right (by simp), Bool.false_eq_true, if_false]

/-! ### BEACONS -/

/-- A beacon restarted at the pattern of its source (R165). -/
def State.beaconRestarted (s : State) (b : Fin 8) : Shown := s.beaconAt b (s.sourcePattern (s.bd.recs.at b).source) 0

/-- What the beacons show replaced, nothing else. -/
def State.withShown (s : State) (shown : Tab Shown 8) : State := { s with bd := { s.bd with shown := shown } }

/-- Beacons restarted one after another, each from the same records, calls and ramps (R165). -/
theorem foldl_restartBeacon (l : List (Fin 8)) (s : State) (shown : Tab Shown 8) :
    l.foldl (fun t b => t.setShown b (t.beaconRestarted b)) (s.withShown shown)
      = s.withShown (l.foldl (fun sh b => sh.put b (s.beaconRestarted b)) shown) := by
  induction l generalizing shown with
  | nil => rfl
  | cons b l ih => exact ih (shown.put b (s.beaconRestarted b))

theorem foldl_put_at {α : Type} {n : Nat} (f : Fin n → α) (l : List (Fin n)) (t : Tab α n) (i : Fin n) :
    (l.foldl (fun t i => t.put i (f i)) t).at i = if i ∈ l then f i else t.at i := by
  induction l generalizing t with
  | nil => simp
  | cons x l ih =>
    rw [List.foldl_cons, ih]
    by_cases mem : i ∈ l
    · rw [if_pos mem, if_pos (List.mem_cons_of_mem x mem)]
    · rw [if_neg mem]
      by_cases same : i = x
      · rw [if_pos (same ▸ List.mem_cons_self), same, Tab.at_put_self]
      · rw [if_neg fun h => (List.mem_cons.mp h).elim same mem, Tab.at_put_ne _ _ fun h => same h.symm]

theorem State.restartBeacons_eq (s : State) : s.restartBeacons =
    s.withShown (allBeacons.foldl (fun sh b => sh.put b (s.beaconRestarted b)) s.bd.shown) :=
  foldl_restartBeacon allBeacons s s.bd.shown

theorem State.restartBeacons_shown (s : State) (b : Fin 8) : s.restartBeacons.bd.shown.at b = s.beaconRestarted b := by
  have listed : b ∈ allBeacons := by
    revert b
    decide
  rw [s.restartBeacons_eq]
  exact (foldl_put_at s.beaconRestarted allBeacons s.bd.shown b).trans (if_pos listed)

theorem State.beaconRestarted_eq (s : State) (b : Fin 8) :
    let r := s.bd.recs.at b
    let p := s.sourcePattern r.source
    let pat := s.bd.pattern p
    s.beaconRestarted b = {
      pattern := p, step := 0
      timer := if p = 0 then none else some (s.now + pat.length * (50 * Config.msec))
      level := if p ≠ 0 ∧ (pat.steps.getLsbD 0 != r.opposite) = true then
        (if s.dcc.deck = .emergency then 31 else r.intensity) else 0 } := by
  intro r p pat
  have lit : s.stepLit b p 0 = true ↔ p ≠ 0 ∧ (pat.steps.getLsbD 0 != r.opposite) = true := by
    rw [State.stepLit, Bool.and_eq_true, bne_iff_ne]
    rfl
  have level : (if s.stepLit b p 0 then s.intensity b else 0) =
      if p ≠ 0 ∧ (pat.steps.getLsbD 0 != r.opposite) = true then s.intensity b else 0 := if_congr lit rfl rfl
  exact congrArg (fun n => ({ pattern := p, step := 0, level := n
                              timer := if p = 0 then none else s.timerFor (pat.length * Config.stepUnit) } : Shown)) level

/-! ### The application -/

theorem State.swapRamp_enabled (s : State) (ch : Channel) (p : RampParams) (state : (s.ramp ch).state = .disabled)
    (enable : p.enable = true) : s.swapRamp ch p = s.enableRamp ch p :=
  (if_pos state).trans (if_pos enable)

theorem State.swapRamp_updated (s : State) (ch : Channel) (p : RampParams) (state : (s.ramp ch).state ≠ .disabled)
    (enable : p.enable = true) : s.swapRamp ch p = s.updateRamp ch p :=
  (if_neg state).trans (if_pos enable)

theorem State.swapRamp_disabled (s : State) (ch : Channel) (p : RampParams) (state : (s.ramp ch).state ≠ .disabled)
    (disable : p.enable = false) : s.swapRamp ch p = s.disableRamp ch :=
  (if_neg state).trans (if_neg (ne_true_of_eq_false disable))

/-! ### SETTINGS -/

theorem State.swapSilence_stop (s : State) (zero : s.settings.tBridge = 0) (going : s.bli.silence ≠ .expired) :
    s.swapSilence = { s with bli := { s.bli with silence := .stopped } } := (if_pos zero).trans (if_neg going)

theorem State.swapSilence_end (s : State) (zero : s.settings.tBridge = 0) (expired : s.bli.silence = .expired) :
    s.swapSilence = State.writeLocal { s with bli := { s.bli with silence := .stopped } } 10 0 :=
  (if_pos zero).trans (if_pos expired)

theorem State.swapSilence_run (s : State) (some_ : s.settings.tBridge ≠ 0) (going : s.bli.silence ≠ .expired) :
    s.swapSilence = { s with bli := { s.bli with
      silence := .running (s.now + s.settings.tBridge * Config.msec) } } := by
  refine (if_neg some_).trans ?_
  cases silence : s.bli.silence with
  | stopped => rfl
  | running _ => rfl
  | expired => exact absurd silence going

theorem State.swapSilence_stay (s : State) (some_ : s.settings.tBridge ≠ 0) (expired : s.bli.silence = .expired) :
    s.swapSilence = s := by
  refine (if_neg some_).trans ?_
  rw [expired]

/-- Settles O22: the exchange, the copy, the order of the blocks, then each block. -/
theorem swapAndCopy : Obligations.SwapAndCopy := by
  refine ⟨fun s set _ => ?_, fun s c settled copy => ?_, fun s set => ?_, fun s => ?_, fun s ch p => ?_, fun s g d => ?_,
    fun s old index => ⟨rfl, fun z from_ => ⟨s.moveZone_unowned z from_, fun e c owned => ⟨?_, ?_⟩⟩⟩,
    fun s b => ⟨(s.restartBeacons_shown b).trans (s.beaconRestarted_eq b), ?_⟩, fun s => ?_⟩
  · intro t
    have ts : t.ts = (s.exchange set).ts := s.applyCommit_ts set
    have sec (i : Fin 8) : t.sec i = if inSet set i then (s.sec i).swap i else s.sec i :=
      (State.sec_of_ts ts i).trans (s.exchange_sec set i)
    refine ⟨congrArg Ts.commit ts, congrArg Ts.copy ts, fun i => ⟨fun unlisted => ?_, fun listed => ?_⟩⟩
    · rw [sec i, if_neg (ne_true_of_eq_false unlisted)]
    · rw [sec i, if_pos listed]
      exact ⟨rfl, rfl, rfl, rfl⟩
  · refine ⟨_, s.act_exact _ (·.copyCompleted) settled (s.copyCompleted_eq c copy) rfl rfl rfl, rfl, fun i => ?_⟩
    refine (Tab.at_make _ i).trans ?_
    rw [Sec.copied_eq]
  · intro e m copied x0 x3 x4 x5 x6
    have calm : Calm (s.exchange set) e := State.notice_calm _ _ _ _
    refine ⟨s.applyCommit_eq set, fun d => ?_, fun b => ?_, fun p => ?_, ?_, ?_, ?_⟩
    · exact (congrArg (fun x : Tab ObjDef 96 => x.at d) (e.takeCopies_defs set)).trans (by
        rw [calm.defs]
        exact at_ite_make _ _ _ d)
    · rw [e.takeCopies_bd set, calm.bd]
      split
      · exact Tab.at_make _ b
      · rfl
    · rw [e.takeCopies_bd set, calm.bd]
      split
      · exact Tab.at_make _ p
      · rfl
    · rw [e.takeCopies_settings set, calm.settings]
      rfl
    · rw [e.takeCopies_fc set, apply_ite Fc.masks, calm.masks]
      rfl
    · rw [e.takeCopies_fc set, apply_ite Fc.summaryMasks, calm.summaryMasks]
      rfl
  · obtain ⟨frame, entries⟩ := s.swapObjects_eq
    intro t
    refine ⟨?_, entries, ?_, ?_⟩
    · exact frame.trans (by rw [congrArg State.dls frame, congrArg State.agenda frame])
    · exact congrArg State.dls frame
    · exact congrArg State.agenda frame
  · intro r t cleared
    refine ⟨s.swapRamp_only ch p, fun state disable => ?_, fun state enable => ?_, fun state enable => ?_,
      fun state disable => ?_⟩
    · exact (if_pos state).trans (if_neg (ne_true_of_eq_false disable))
    · exact s.swapRamp_enabled ch p state enable
    · refine (s.swapRamp_updated ch p state enable).trans ?_
      rw [← beq_eq_decide]
      rfl
    · exact s.swapRamp_disabled ch p state disable
  · refine ⟨s.swapGroup_same g d, fun doors => ⟨s.swapGroup_only g d, ?_⟩⟩
    exact s.swapGroup_record g d doors
  · intro playing node object target
    rw [target]
    exact s.moveZone_playing z e c node object owned playing
  · exact s.moveZone_still z from_ e c owned
  · rw [s.restartBeacons_eq]
    rfl
  · exact ⟨s.swapSilence_stop, s.swapSilence_end, s.swapSilence_run, s.swapSilence_stay, rfl⟩

end Sys2Proof.Machine
end

section
/-! SUPPORT. The end of a pending commit and the end of a scrub slot (R178, R180, R194). -/

namespace Sys2Proof.Machine

open Sys2Proof

/-! ### Frames and flags -/

/-- A flag survives what is calm (R184). -/
theorem Calm.keeps_flag {s t : State} (calm : Calm s t) {f : Flag} (set : s.hasFlag f) : t.hasFlag f :=
  flags_trans set calm.flags

theorem State.noticeFrame_congr {s t : State} (same : t.node = s.node) (object value : Byte) (payload : List Byte) :
    t.noticeFrame object value payload = s.noticeFrame object value payload := by
  rw [State.noticeFrame, State.noticeFrame, same]

/-- A notice placed while there is room is told (R76). -/
theorem State.notice_tells (s : State) (object value : Byte) (payload : List Byte) (room : HasRoom s) :
    (s.notice object value payload).tells (s.noticeFrame object value payload) := (s.place_tells _ room).1

/-! ### A pending commit -/

/-- A commit closed without an application. -/
def State.commitClosed (s : State) : State := { s with ts := { s.ts with commit := none } }

theorem State.abortTables_idle (s : State) (n : NodeNo) (idle : s.ts.commit = none) :
    s.abortTables ⟨n, []⟩ = s.reply n 3 .done := by
  unfold State.abortTables
  rw [if_neg (by simp), idle]

theorem State.abortTables_pending (s : State) (n : NodeNo) (c : CommitRec) (pending : s.ts.commit = some c) :
    s.abortTables ⟨n, []⟩ = (s.commitClosed.reply n 3 .done).notice 30 3 [c.set] := by
  unfold State.abortTables
  rw [if_neg (by simp), pending]
  rfl

theorem State.commitExpired_eq (s : State) (c : CommitRec) (pending : s.ts.commit = some c) :
    s.commitExpired = ((s.reach c.expiry).commitClosed.raiseFlag .commitExpired).notice 30 2 [c.set] := by
  unfold State.commitExpired
  rw [pending]
  rfl

/-- Settles O23: the pending commit, closed by the request or by its timer. -/
theorem pendingCommitEnds : Obligations.PendingCommitEnds := by
  refine ⟨fun s n settled room => ?_, fun s c node pending => ?_⟩
  · intro q
    refine ⟨fun idle => s.actRequest_replied (·.abortTables q) q 3 .done [] settled room (s.abortTables_idle n idle),
      fun c pending => ?_⟩
    obtain ⟨node, _, _, _, restarting⟩ := settled
    refine s.actRequest_own _ (·.abortTables q) node restarting ((s.abortTables_pending n c pending).trans ?_)
    exact congrArg (State.notice · 30 3 [c.set]) (s.commitClosed.reply_replied q 3 .done [] room)
  · let raised := (s.reach c.expiry).commitClosed.raiseFlag .commitExpired
    have calm : Calm (s.reach c.expiry).commitClosed (raised.notice 30 2 [c.set]) :=
      (State.raiseFlag_calm _ _).trans (State.notice_calm _ _ _ _)
    refine ⟨_, s.act_own _ (·.commitExpired) node (s.commitExpired_eq c pending), ?_, calm.dls, calm.cl, ?_, fun room => ?_⟩
    · exact ((CallsOnly.refl _).raiseFlag _).notice _ _ _
    · exact (State.notice_calm _ _ _ _).keeps_flag (State.raiseFlag_has _ _)
    · have sent := raised.notice_tells 30 2 [c.set] (by
        show raised.bli.queue.length < 32
        rw [show raised.bli = s.bli from State.raiseFlag_bli _ _]
        omega)
      have node : raised.node = s.node := (State.raiseFlag_calm _ _).node
      rwa [State.noticeFrame_congr node] at sent

/-! ### A channel halted -/

/-- A channel's record before and after a halt (R88, R100). -/
structure HaltedFrom (r t : Ramp) : Prop where
  state : t.state = r.state.afterHalt
  pendingStart : t.pendingStart = if r.state = .halting then .none else r.pendingStart
  x : t.x = r.x
  vCmd : t.vCmd = r.vCmd
  referenced : t.referenced = r.referenced
  params : t.params = r.params
  stays : r.state.isRest = true ∨ r.state = .locking → t = r

theorem State.enterRamp_haltedFrom (s : State) (ch : Channel) {old new : RampState} (state : (s.ramp ch).state = old)
    (moves : new = old.afterHalt) (active : old.isRest = false ∧ old ≠ .locking ∧ old ≠ .halting) :
    HaltedFrom (s.ramp ch) ((s.enterRamp ch new).ramp ch) := by
  obtain ⟨o, v, -, -, record⟩ := s.enterRamp_record ch new
  obtain ⟨active, unlocked, going⟩ := active
  subst state
  rw [record]
  refine ⟨moves, (if_neg going).symm, rfl, rfl, rfl, rfl, fun rest => ?_⟩
  exact rest.elim (fun rest => absurd rest (ne_true_of_eq_false active)) fun locking => absurd locking unlocked

theorem State.haltRamp_haltedFrom (s : State) (ch : Channel) : HaltedFrom (s.ramp ch) ((s.haltRamp ch).ramp ch) := by
  unfold State.haltRamp
  cases state : (s.ramp ch).state with
  | lowering | landing | raising | stowing | jog | starting => exact s.enterRamp_haltedFrom ch state rfl (by decide)
  | halting =>
    dsimp only
    rw [State.ramp_setRamp_self]
    exact ⟨by rw [state]; rfl, (if_pos state).symm, rfl, rfl, rfl, rfl, fun rest => by simp [state, RampState.isRest] at rest⟩
  | disabled | stowedLocked | landed | halted | locking | fault =>
    exact ⟨by rw [state]; rfl, by rw [state]; exact (if_neg (by decide)).symm, rfl, rfl, rfl, rfl, fun _ => rfl⟩

/-- Both channels halted, A before B (R100, log 49). -/
def State.haltBoth (s : State) : State := (s.haltRamp .a).haltRamp .b

theorem State.haltBoth_haltedFrom (s : State) (ch : Channel) : HaltedFrom (s.ramp ch) (s.haltBoth.ramp ch) := by
  have onlyA := s.haltRamp_only .a
  have onlyB := (s.haltRamp .a).haltRamp_only .b
  cases ch with
  | a =>
    rw [State.haltBoth, onlyB.others .a (by decide)]
    exact s.haltRamp_haltedFrom .a
  | b =>
    have same : (s.haltRamp .a).ramp .b = s.ramp .b := onlyA.others .b (by decide)
    exact same ▸ (s.haltRamp .a).haltRamp_haltedFrom .b

/-- What an event that touches the two channels alone leaves alone, with the tables and the proof test aside. -/
structure RampsFrame (s t : State) : Prop where
  grow : Grows s t
  pending : t.pending = s.pending
  node : t.node = s.node
  straps : t.straps = s.straps
  pins : t.pins = s.pins
  dcc : t.dcc = s.dcc
  held : t.held = s.held
  estop : t.estop = s.estop
  groups : t.groups = s.groups
  settings : t.settings = s.settings
  remotes : t.img.remotes = s.img.remotes
  defs : t.img.defs = s.img.defs
  pointer : t.img.pointer = s.img.pointer
  pass : t.img.pass = s.img.pass
  silence : t.bli.silence = s.bli.silence
  restarting : t.bli.restarting = s.bli.restarting
  masks : t.fc.masks = s.fc.masks
  summaryMasks : t.fc.summaryMasks = s.fc.summaryMasks
  locals : ∀ k : Fin 32, k.val = 0 ∨ 2 < k.val ∧ k.val < 11 ∨ 23 < k.val → t.img.locals.at k = s.img.locals.at k

theorem RampsFrame.trans {s t u : State} (h : RampsFrame s t) (k : RampsFrame t u) : RampsFrame s u where
  grow := h.grow.trans k.grow
  pending := k.pending.trans h.pending
  node := k.node.trans h.node
  straps := k.straps.trans h.straps
  pins := k.pins.trans h.pins
  dcc := k.dcc.trans h.dcc
  held := k.held.trans h.held
  estop := k.estop.trans h.estop
  groups := k.groups.trans h.groups
  settings := k.settings.trans h.settings
  remotes := k.remotes.trans h.remotes
  defs := k.defs.trans h.defs
  pointer := k.pointer.trans h.pointer
  pass := k.pass.trans h.pass
  silence := k.silence.trans h.silence
  restarting := k.restarting.trans h.restarting
  masks := k.masks.trans h.masks
  summaryMasks := k.summaryMasks.trans h.summaryMasks
  locals i at_ := (k.locals i at_).trans (h.locals i at_)

theorem RampOnly.frame {ch : Channel} {s t : State} (h : RampOnly ch s t) : RampsFrame s t where
  grow := h.grow
  pending := h.pending
  node := h.node
  straps := h.straps
  pins := h.pins
  dcc := h.dcc
  held := h.held
  estop := h.estop
  groups := h.groups
  settings := h.settings
  remotes := h.remotes
  defs := h.defs
  pointer := h.pointer
  pass := h.pass
  silence := h.silence
  restarting := h.restarting
  masks := h.masks
  summaryMasks := h.summaryMasks
  locals i at_ := h.locals i (by omega) fun same => by
    subst same
    cases ch with
    | a => exact absurd at_ (by decide)
    | b => exact absurd at_ (by decide)

theorem Calm.frame {s t : State} (h : Calm s t) (locals : ∀ k : Fin 32, 11 ≠ k → t.img.locals.at k = s.img.locals.at k) :
    RampsFrame s t where
  grow := .ofCalm h
  pending := h.pending
  node := h.node
  straps := h.straps
  pins := h.pins
  dcc := h.dcc
  held := h.held
  estop := h.estop
  groups := h.groups
  settings := h.settings
  remotes := h.remotes
  defs := h.defs
  pointer := h.pointer
  pass := h.pass
  silence := h.silence
  restarting := h.restarting
  masks := h.masks
  summaryMasks := h.summaryMasks
  locals i at_ := locals i fun same => by
    subst same
    exact absurd at_ (by decide)

/-! ### The calls and the queues at a halt -/

theorem State.formBeacon_eq (s : State) (b : Fin 8) : ∃ shown, s.formBeacon b = s.withShown shown := by
  unfold State.formBeacon
  dsimp only
  split
  · exact ⟨_, rfl⟩
  · exact ⟨_, rfl⟩

/-- Forming the beacons changes what they show and nothing else (R162). -/
theorem State.formBeacons_eq (s : State) : ∃ shown, s.formBeacons = s.withShown shown := by
  unfold State.formBeacons
  generalize allBeacons = l
  induction l generalizing s with
  | nil => exact ⟨_, rfl⟩
  | cons b l ih =>
    obtain ⟨x, first⟩ := s.formBeacon_eq b
    obtain ⟨y, later⟩ := ih (s.formBeacon b)
    exact ⟨y, later.trans (by rw [first]; rfl)⟩

theorem State.endTest_deck (s : State) (result : TestResult) :
    (s.endTest result).cl = s.cl ∧ (s.endTest result).dls = s.dls := by
  unfold State.endTest
  split
  · exact ⟨rfl, rfl⟩
  · next t _ =>
    dsimp only
    have zeroed : (s.zeroTestCount t.id).cl = s.cl ∧ (s.zeroTestCount t.id).dls = s.dls := by
      unfold State.zeroTestCount
      split
      · exact ⟨rfl, rfl⟩
      · exact ⟨rfl, rfl⟩
      · exact ⟨rfl, rfl⟩
      · exact ⟨rfl, rfl⟩
    exact ⟨(State.notice_calm _ _ _ _).cl.trans zeroed.1, (State.notice_calm _ _ _ _).dls.trans zeroed.2⟩

/-- A state without a warning call of its own keeps the call list as it is (R81). -/
theorem State.enterRamp_halting_deck (s : State) (ch : Channel) :
    (s.enterRamp ch .halting).cl = s.cl ∧ (s.enterRamp ch .halting).dls = s.dls := by
  let entered := (s.setRamp ch ((s.ramp ch).enter .halting)).writeLocal ch.stateEntry RampState.halting.code
  have calm : Calm (s.setRamp ch ((s.ramp ch).enter .halting)) entered := State.writeLocal_calm _ _ _
  have taken : s.enterRamp ch .halting = (entered.abortTestOn ch).formBeacons := rfl
  obtain ⟨shown, formed⟩ := (entered.abortTestOn ch).formBeacons_eq
  have aborted : (entered.abortTestOn ch).cl = entered.cl ∧ (entered.abortTestOn ch).dls = entered.dls := by
    unfold State.abortTestOn
    split
    · exact entered.endTest_deck _
    · exact ⟨rfl, rfl⟩
  rw [taken, formed]
  exact ⟨aborted.1.trans calm.cl, aborted.2.trans calm.dls⟩

theorem State.haltRamp_deck (s : State) (ch : Channel) (calm : (s.ramp ch).state ≠ .starting) :
    (s.haltRamp ch).cl = s.cl ∧ (s.haltRamp ch).dls = s.dls := by
  unfold State.haltRamp
  cases state : (s.ramp ch).state with
  | lowering | landing | raising | stowing | jog => exact s.enterRamp_halting_deck ch
  | starting => exact absurd state calm
  | halting => exact ⟨rfl, rfl⟩
  | disabled | stowedLocked | landed | halted | locking | fault => exact ⟨rfl, rfl⟩

theorem State.haltBoth_deck (s : State) (calm : ∀ ch, (s.ramp ch).state ≠ .starting) :
    s.haltBoth.cl = s.cl ∧ s.haltBoth.dls = s.dls := by
  obtain ⟨clA, dlsA⟩ := s.haltRamp_deck .a (calm .a)
  have same : (s.haltRamp .a).ramp .b = s.ramp .b := (s.haltRamp_only .a).others .b (by decide)
  obtain ⟨clB, dlsB⟩ := (s.haltRamp .a).haltRamp_deck .b (by rw [same]; exact calm .b)
  exact ⟨clB.trans clA, dlsB.trans dlsA⟩

/-! ### The scrub -/

/-- A state with the clock, the tables and the proof test of another. -/
def State.retimed (s t : State) : State :=
  { s with now := t.now, ts := t.ts, fc := { s.fc with test := t.fc.test, last := t.fc.last } }

theorem Calm.retimed {s t : State} (h : Calm s t) : Calm (s.retimed t) t :=
  { h with now := rfl, ts := rfl, test := rfl, last := rfl }

theorem Calm.retimed_trans {s t u : State} (h : Calm (s.retimed t) t) (k : Calm (t.retimed u) u) : Calm (s.retimed u) u :=
  (show Calm (s.retimed u) (t.retimed u) from { h with now := rfl, ts := rfl, test := rfl, last := rfl }).trans k

theorem State.scrubMismatch_iff (s : State) :
    s.scrubMismatch = true ↔ (s.sec s.ts.slot).status = .valid ∧ s.ts.slotSwapped = false
      ∧ (s.sec s.ts.slot).code ≠ some (checkCode ((s.sec s.ts.slot).active.slice 0 (secSize s.ts.slot))) := by
  unfold State.scrubMismatch
  dsimp only
  rw [Bool.and_eq_true, Bool.and_eq_true, beq_iff_eq, Bool.not_eq_true', bne_iff_ne, and_assoc]

/-- The slot's section becomes CORRUPT and the flag is raised (R180). -/
def State.slotCorrupted (s : State) : State :=
  (s.setSec s.ts.slot { s.sec s.ts.slot with status := .corrupt }).raiseFlag .sectionCorrupt

theorem State.scrubSection_still (s : State) (fine : ¬ s.scrubMismatch = true) : s.scrubSection = s := if_neg fine

theorem State.scrubSection_other (s : State) (bad : s.scrubMismatch = true) (other : s.ts.slot ≠ 3) :
    s.scrubSection = s.slotCorrupted := (if_pos bad).trans (if_neg other)

theorem State.scrubSection_ramps (s : State) (bad : s.scrubMismatch = true) (ramps : s.ts.slot = 3) :
    s.scrubSection = s.slotCorrupted.haltBoth := (if_pos bad).trans (if_pos ramps)

/-- The SCRUB test over, its result recorded (R194). -/
def State.scrubJudged (s : State) (result : TestResult) : State :=
  { s with fc := { s.fc with test := none, last := some (.scrub, result) } }

theorem runsTest_scrub_iff (s : State) : s.runsTest .scrub = true ↔ ∃ arg steps, s.fc.test = some ⟨.scrub, arg, steps⟩ := by
  unfold State.runsTest
  cases test : s.fc.test with
  | none => simp
  | some t =>
    obtain ⟨id, arg, steps⟩ := t
    simp

def State.scrubResult (s : State) : TestResult := if checkCode s.ts.testArea ≠ s.ts.testCode then .pass else .fail

theorem State.scrubTest_still (s : State) (idle : s.runsTest .scrub = false) : s.scrubTest = s :=
  if_neg (ne_true_of_eq_false idle)

theorem State.scrubTest_running (s : State) (arg : Byte) (steps : Nat) (test : s.fc.test = some ⟨.scrub, arg, steps⟩) :
    s.scrubTest = (s.scrubJudged s.scrubResult).notice 30 s.scrubResult.code [TestId.scrub.code, arg] := by
  unfold State.scrubTest
  rw [if_pos ((runsTest_scrub_iff s).mpr ⟨arg, steps, test⟩), State.endTest, test]
  rfl

theorem State.scrubTest_calm (s : State) : Calm (s.retimed s.scrubTest) s.scrubTest ∧ s.scrubTest.ts = s.ts
    ∧ s.scrubTest.now = s.now ∧ ∀ k : Fin 32, 11 ≠ k → s.scrubTest.img.locals.at k = s.img.locals.at k := by
  cases runs : s.runsTest .scrub with
  | false =>
    rw [s.scrubTest_still runs]
    exact ⟨Calm.refl s, rfl, rfl, fun _ _ => rfl⟩
  | true =>
    obtain ⟨arg, steps, test⟩ := (runsTest_scrub_iff s).mp runs
    have noticed := (s.scrubJudged s.scrubResult).notice_calm 30 s.scrubResult.code [TestId.scrub.code, arg]
    rw [s.scrubTest_running arg steps test]
    exact ⟨noticed.retimed, noticed.ts, noticed.now, fun k other => State.place_locals _ _ k other⟩

theorem State.slotCorrupted_calm (s : State) : Calm (s.retimed s.slotCorrupted) s.slotCorrupted
    ∧ s.slotCorrupted.ts = (s.setSec s.ts.slot { s.sec s.ts.slot with status := .corrupt }).ts
    ∧ s.slotCorrupted.now = s.now ∧ s.slotCorrupted.fc.test = s.fc.test ∧ s.slotCorrupted.fc.last = s.fc.last
    ∧ ∀ k : Fin 32, 11 ≠ k → s.slotCorrupted.img.locals.at k = s.img.locals.at k := by
  have raised := (s.setSec s.ts.slot { s.sec s.ts.slot with status := .corrupt }).raiseFlag_calm .sectionCorrupt
  have locals (k : Fin 32) (other : 11 ≠ k) := State.raiseFlag_locals
    (s.setSec s.ts.slot { s.sec s.ts.slot with status := .corrupt }) .sectionCorrupt k other
  unfold State.slotCorrupted
  generalize State.raiseFlag _ _ = t at raised locals ⊢
  exact ⟨raised.retimed, raised.ts, raised.now, raised.test, raised.last, locals⟩

theorem RampsFrame.retimed (s t : State) : RampsFrame s (s.retimed t) :=
  ⟨Grows.same rfl rfl rfl rfl rfl, rfl, rfl, rfl, rfl, rfl, rfl, rfl, rfl, rfl, rfl, rfl, rfl, rfl, rfl, rfl, rfl, rfl,
    fun _ _ => rfl⟩

theorem State.haltBoth_frame (s : State) : RampsFrame s s.haltBoth :=
  (s.haltRamp_only .a).frame.trans ((s.haltRamp .a).haltRamp_only .b).frame

theorem RampOnly.keeps_scrub {ch : Channel} {s t : State} (only : RampOnly ch s t) (runs : s.runsTest .scrub = true) :
    t.fc.test = s.fc.test := by
  obtain ⟨arg, steps, test⟩ := (runsTest_scrub_iff s).mp runs
  refine only.test.elim And.left fun aborted => absurd aborted.1 ?_
  rw [State.testingOn, test]
  cases ch with
  | a => exact Bool.false_ne_true
  | b => exact Bool.false_ne_true

theorem State.haltBoth_scrub (s : State) (runs : s.runsTest .scrub = true) : s.haltBoth.fc.test = s.fc.test := by
  have first : (s.haltRamp .a).fc.test = s.fc.test := (s.haltRamp_only .a).keeps_scrub runs
  have still : (s.haltRamp .a).runsTest .scrub = true := by rw [State.runsTest, first]; exact runs
  exact (((s.haltRamp .a).haltRamp_only .b).keeps_scrub still).trans first

/-- What the check of the slot's section keeps, whatever it finds (R180). -/
theorem State.scrubSection_keeps (s : State) : s.scrubSection.now = s.now
    ∧ s.scrubSection.ts = { s.ts with secs := s.scrubSection.ts.secs }
    ∧ (∀ k, k ≠ s.ts.slot → s.scrubSection.sec k = s.sec k)
    ∧ (s.runsTest .scrub = true → s.scrubSection.fc.test = s.fc.test)
    ∧ (s.scrubMismatch = true → s.scrubSection.sec s.ts.slot = { s.sec s.ts.slot with status := .corrupt }
        ∧ s.scrubSection.hasFlag .sectionCorrupt) := by
  obtain ⟨-, tables, now, test, -⟩ := s.slotCorrupted_calm
  have others (u : State) (same : u.ts = s.slotCorrupted.ts) (k : Fin 8) (other : k ≠ s.ts.slot) : u.sec k = s.sec k :=
    (State.sec_of_ts (same.trans tables) k).trans (Tab.at_put_ne _ _ other.symm)
  have own (u : State) (same : u.ts = s.slotCorrupted.ts) : u.sec s.ts.slot = { s.sec s.ts.slot with status := .corrupt } :=
    (State.sec_of_ts (same.trans tables) _).trans (Tab.at_put_self _ _ _)
  have flagged : s.slotCorrupted.hasFlag .sectionCorrupt := State.raiseFlag_has _ _
  by_cases bad : s.scrubMismatch = true
  · by_cases ramps : s.ts.slot = 3
    · rw [s.scrubSection_ramps bad ramps]
      have onlyA := s.slotCorrupted.haltRamp_only .a
      have onlyB := (s.slotCorrupted.haltRamp .a).haltRamp_only .b
      have same : s.slotCorrupted.haltBoth.ts = s.slotCorrupted.ts := onlyB.ts.trans onlyA.ts
      have clock : s.slotCorrupted.haltBoth.now = s.slotCorrupted.now := onlyB.now.trans onlyA.now
      refine ⟨clock.trans now, by rw [same, tables]; rfl, others _ same, fun runs => ?_,
        fun _ => ⟨own _ same, onlyB.keeps_flag (onlyA.keeps_flag flagged)⟩⟩
      exact (State.haltBoth_scrub _ (by rw [State.runsTest, test]; exact runs)).trans test
    · rw [s.scrubSection_other bad ramps]
      exact ⟨now, by rw [tables]; rfl, others _ rfl, fun _ => test, fun _ => ⟨own _ rfl, flagged⟩⟩
  · rw [s.scrubSection_still bad]
    exact ⟨rfl, rfl, fun _ _ => rfl, fun _ => rfl, fun mismatch => absurd mismatch bad⟩

/-- Without a halt the check changes the tables and the flags alone (R180). -/
theorem State.scrubSection_calm (s : State) (still : ¬ (s.scrubMismatch = true ∧ s.ts.slot = 3)) :
    Calm (s.retimed s.scrubSection) s.scrubSection ∧ s.scrubSection.fc.test = s.fc.test
      ∧ s.scrubSection.fc.last = s.fc.last
      ∧ ∀ k : Fin 32, 11 ≠ k → s.scrubSection.img.locals.at k = s.img.locals.at k := by
  by_cases bad : s.scrubMismatch = true
  · rw [s.scrubSection_other bad fun ramps => still ⟨bad, ramps⟩]
    obtain ⟨calm, -, -, test, last, locals⟩ := s.slotCorrupted_calm
    exact ⟨calm, test, last, locals⟩
  · rw [s.scrubSection_still bad]
    exact ⟨Calm.refl s, rfl, rfl, fun _ _ => rfl⟩

/-- The next slot begun. -/
def State.nextSlot (s : State) (due : Nat) : State :=
  { s with ts := { s.ts with slot := s.ts.slot + 1, slotEnd := due + Config.slotTime, slotSwapped := false } }

theorem State.scrubSlotEnded_eq (s : State) :
    s.scrubSlotEnded = ((s.reach s.ts.slotEnd).scrubSection.scrubTest).nextSlot s.ts.slotEnd := rfl

/-- The slot's end without a halt, all its stages (R180, R194). -/
theorem State.scrubSlotEnded_calm (s : State) (still : ¬ (s.scrubMismatch = true ∧ s.ts.slot = 3)) :
    Calm (s.retimed s.scrubSlotEnded) s.scrubSlotEnded
      ∧ ∀ k : Fin 32, 11 ≠ k → s.scrubSlotEnded.img.locals.at k = s.img.locals.at k := by
  obtain ⟨calm, -, -, locals⟩ := (s.reach s.ts.slotEnd).scrubSection_calm still
  rw [s.scrubSlotEnded_eq]
  generalize (s.reach s.ts.slotEnd).scrubSection = u at calm locals ⊢
  obtain ⟨ended, -, -, kept⟩ := u.scrubTest_calm
  generalize u.scrubTest = w at ended kept ⊢
  have reached : Calm (s.retimed u) u := calm
  have next : Calm (w.retimed (w.nextSlot s.ts.slotEnd)) (w.nextSlot s.ts.slotEnd) := Calm.refl _
  exact ⟨(reached.retimed_trans ended).retimed_trans next, fun k other => (kept k other).trans (locals k other)⟩

/-- The slot's end with a halt of both channels: the frame and the records (R100, R180). -/
theorem State.scrubSlotEnded_halts (s : State) (halts : s.scrubMismatch = true ∧ s.ts.slot = 3) :
    RampsFrame s s.scrubSlotEnded ∧ (∀ ch, HaltedFrom (s.ramp ch) (s.scrubSlotEnded.ramp ch))
      ∧ ((∀ ch, (s.ramp ch).state ≠ .starting) → s.scrubSlotEnded.cl = s.cl ∧ s.scrubSlotEnded.dls = s.dls) := by
  have corrupted : RampsFrame s (s.reach s.ts.slotEnd).slotCorrupted ∧ (s.reach s.ts.slotEnd).slotCorrupted.ramps = s.ramps
      ∧ (s.reach s.ts.slotEnd).slotCorrupted.cl = s.cl ∧ (s.reach s.ts.slotEnd).slotCorrupted.dls = s.dls := by
    obtain ⟨calm, -, -, -, -, locals⟩ := (s.reach s.ts.slotEnd).slotCorrupted_calm
    generalize (s.reach s.ts.slotEnd).slotCorrupted = c at calm locals ⊢
    exact ⟨(RampsFrame.retimed s c).trans (calm.frame locals), calm.ramps, calm.cl, calm.dls⟩
  rw [s.scrubSlotEnded_eq, (s.reach s.ts.slotEnd).scrubSection_ramps halts.1 halts.2]
  obtain ⟨before, ramps, cl, dls⟩ := corrupted
  generalize (s.reach s.ts.slotEnd).slotCorrupted = c at before ramps cl dls ⊢
  have ramp (ch : Channel) : c.ramp ch = s.ramp ch := by rw [State.ramp, State.ramp, ramps]
  have halted (ch : Channel) : HaltedFrom (s.ramp ch) (c.haltBoth.ramp ch) := ramp ch ▸ c.haltBoth_haltedFrom ch
  have frame := before.trans c.haltBoth_frame
  have deck (calm : ∀ ch, (s.ramp ch).state ≠ .starting) : c.haltBoth.cl = s.cl ∧ c.haltBoth.dls = s.dls := by
    obtain ⟨sameCl, sameDls⟩ := c.haltBoth_deck fun ch => by
      rw [ramp ch]
      exact calm ch
    exact ⟨sameCl.trans cl, sameDls.trans dls⟩
  generalize c.haltBoth = u at halted frame deck ⊢
  obtain ⟨ended, -, -, kept⟩ := u.scrubTest_calm
  generalize u.scrubTest = w at ended kept ⊢
  have next : RampsFrame w (w.nextSlot s.ts.slotEnd) := RampsFrame.retimed w (w.nextSlot s.ts.slotEnd)
  refine ⟨(frame.trans ((RampsFrame.retimed u w).trans (ended.frame kept))).trans next, fun ch => ?_, fun calm => ?_⟩
  · have same : (w.nextSlot s.ts.slotEnd).ramp ch = u.ramp ch := congrArg (fun x : Pair Ramp => x.get ch) ended.ramps
    rw [same]
    exact halted ch
  · obtain ⟨sameCl, sameDls⟩ := deck calm
    exact ⟨ended.cl.trans sameCl, ended.dls.trans sameDls⟩

/-- A running SCRUB test ends with the slot, by the check of the test area (R194). -/
theorem State.scrubSlotEnded_test (s : State) (arg : Byte) (steps : Nat) (test : s.fc.test = some ⟨.scrub, arg, steps⟩) :
    s.scrubSlotEnded.fc.test = none ∧ s.scrubSlotEnded.fc.last = some (.scrub, s.scrubResult) := by
  obtain ⟨-, tables, -, kept, -⟩ := (s.reach s.ts.slotEnd).scrubSection_keeps
  have still := (kept ((runsTest_scrub_iff s).mpr ⟨arg, steps, test⟩)).trans test
  rw [s.scrubSlotEnded_eq]
  generalize (s.reach s.ts.slotEnd).scrubSection = u at tables still ⊢
  have result : u.scrubResult = s.scrubResult := by
    rw [State.scrubResult, tables]
    rfl
  rw [u.scrubTest_running arg steps still, result]
  have noticed := (u.scrubJudged s.scrubResult).notice_calm 30 s.scrubResult.code [TestId.scrub.code, arg]
  exact ⟨noticed.test, noticed.last⟩

/-- With no SCRUB test and no halt the test record stays (R180, R194). -/
theorem State.scrubSlotEnded_idle (s : State) (still : ¬ (s.scrubMismatch = true ∧ s.ts.slot = 3))
    (idle : s.runsTest .scrub = false) :
    s.scrubSlotEnded.fc.test = s.fc.test ∧ s.scrubSlotEnded.fc.last = s.fc.last := by
  obtain ⟨-, test, last, -⟩ := (s.reach s.ts.slotEnd).scrubSection_calm still
  have ended : (s.reach s.ts.slotEnd).scrubSection.runsTest .scrub = false := by
    rw [State.runsTest, test]
    exact idle
  rw [s.scrubSlotEnded_eq, State.scrubTest_still _ ended]
  exact ⟨test, last⟩

/-- The clock and the tables after the slot's end (R180). -/
theorem State.scrubSlotEnded_tables (s : State) : s.scrubSlotEnded.now = max s.now s.ts.slotEnd
    ∧ s.scrubSlotEnded.ts = { s.ts with
        slot := s.ts.slot + 1, slotEnd := s.ts.slotEnd + 125 * Config.msec, slotSwapped := false
        secs := s.scrubSlotEnded.ts.secs }
    ∧ ∀ k, s.scrubSlotEnded.sec k = (s.reach s.ts.slotEnd).scrubSection.sec k := by
  obtain ⟨now, tables, -, -, -⟩ := (s.reach s.ts.slotEnd).scrubSection_keeps
  rw [s.scrubSlotEnded_eq]
  generalize (s.reach s.ts.slotEnd).scrubSection = u at now tables ⊢
  obtain ⟨-, same, clock, -⟩ := u.scrubTest_calm
  generalize u.scrubTest = w at same clock ⊢
  refine ⟨clock.trans now, ?_, fun k => State.sec_of_ts (s := u) (t := w) same k⟩
  rw [State.nextSlot, same, tables]
  rfl

/-- Settles O24: the slot's own section, the test area, the next slot. -/
theorem scrubSlotEnds : Obligations.ScrubSlotEnds := by
  intro s node i x bad halts
  have mismatch : s.scrubMismatch = true ↔ bad := s.scrubMismatch_iff
  obtain ⟨-, -, others, -, corrupted⟩ := (s.reach s.ts.slotEnd).scrubSection_keeps
  obtain ⟨now, tables, secs⟩ := s.scrubSlotEnded_tables
  have unchanged (fine : ¬ bad) : (s.reach s.ts.slotEnd).scrubSection = s.reach s.ts.slotEnd :=
    State.scrubSection_still _ fun found => fine (mismatch.mp found)
  refine ⟨_, s.act_own _ (·.scrubSlotEnded) node rfl, now, tables, fun k other => (secs k).trans (others k other),
    fun isBad => ?_, fun fine => ?_, s.scrubSlotEnded_test, fun fine idle => ?_, fun still => ?_, fun isHalts => ?_⟩
  · obtain ⟨own, flagged⟩ := corrupted (mismatch.mpr isBad)
    refine ⟨(secs i).trans own, ?_⟩
    rw [s.scrubSlotEnded_eq]
    exact ((State.scrubTest_calm _).1.keeps_flag flagged)
  · rw [secs i, unchanged fine]
    rfl
  · rw [s.scrubSlotEnded_eq, unchanged fine, (s.reach s.ts.slotEnd).scrubTest_still idle]
    rfl
  · have quiet : ¬ (s.scrubMismatch = true ∧ s.ts.slot = 3) := fun h => still ⟨mismatch.mp h.1, h.2⟩
    obtain ⟨calm, locals⟩ := s.scrubSlotEnded_calm quiet
    refine ⟨(CallsOnly.refl (s.retimed s.scrubSlotEnded)).ofCalm calm locals, calm.dls, calm.cl, calm.bd, fun idle => ?_,
      fun k other => locals k fun same => other (congrArg Fin.val same).symm⟩
    exact s.scrubSlotEnded_idle quiet idle
  · obtain ⟨frame, halted, deck⟩ := s.scrubSlotEnded_halts ⟨mismatch.mpr isHalts.1, isHalts.2⟩
    have kept : Keeps s s.scrubSlotEnded := (Keeps.refl s).scrubSlotEnded
    generalize s.scrubSlotEnded = t at frame halted deck kept ⊢
    refine ⟨fun ch => ?_, frame.grow, frame.pending, frame.node, frame.straps, frame.pins, frame.dcc, frame.held, frame.estop,
      frame.groups, frame.settings, frame.remotes, frame.defs, frame.pointer, frame.pass, frame.silence, frame.restarting,
      frame.masks, frame.summaryMasks, frame.locals, deck⟩
    obtain ⟨state, pendingStart, x, vCmd, referenced, params, stays⟩ := halted ch
    refine ⟨?_, pendingStart, x, vCmd, referenced, params, stays, fun published => ?_⟩
    · rw [state]
      cases (s.ramp ch).state <;> rfl
    · obtain ⟨-, entries, -⟩ := kept.published published
      exact entries ch

end Sys2Proof.Machine
end

section
/-! SUPPORT. RESTART: the request, the pending restart abandoned or carried out (R181, R182, R196). -/

namespace Sys2Proof.Machine

open Sys2Proof

/-! ### The request -/

theorem State.sequenceRuns_iff (s : State) : s.sequenceRuns = true ↔
    (∃ ch, (s.ramp ch).state.isRest = false) ∨ ∃ g : Fin 4, (s.group g).state.isSequence = true := by
  have ramps : ((!(s.ramp .a).state.isRest) = true ∨ (!(s.ramp .b).state.isRest) = true) ↔
      ∃ ch, (s.ramp ch).state.isRest = false := by
    rw [Bool.not_eq_true', Bool.not_eq_true']
    constructor
    · rintro (a | b)
      · exact ⟨.a, a⟩
      · exact ⟨.b, b⟩
    · rintro ⟨ch, moves⟩
      cases ch with
      | a => exact .inl moves
      | b => exact .inr moves
  have groups : (allGroups.any fun g => (s.group g).state.isSequence) = true ↔
      ∃ g : Fin 4, (s.group g).state.isSequence = true := by
    rw [List.any_eq_true]
    exact ⟨fun ⟨g, _, runs⟩ => ⟨g, runs⟩, fun ⟨g, runs⟩ => ⟨g, mem_allGroups g, runs⟩⟩
  rw [State.sequenceRuns, Bool.or_eq_true, Bool.or_eq_true, ramps, groups]

theorem State.restartRefused_iff (s : State) : s.restartRefused = true ↔
    (∃ ch, (s.ramp ch).state.isRest = false) ∨ (∃ g : Fin 4, (s.group g).state.isSequence = true)
      ∨ s.ts.commit ≠ none ∨ s.ts.copy ≠ none ∨ s.held ≠ [] ∨ s.fc.test ≠ none := by
  have held : (!s.held.isEmpty) = true ↔ s.held ≠ [] := by simp
  have test : s.fc.test.isSome = true ↔ s.fc.test ≠ none := Option.isSome_iff_ne_none
  rw [State.restartRefused, Bool.or_eq_true, Bool.or_eq_true, Bool.or_eq_true, s.sequenceRuns_iff, s.tablesBusy_iff, held, test,
    or_assoc, or_assoc, or_assoc, or_assoc]

/-- The RESTART reply at the end of the bridge transmit queue, marked as such (R181). -/
def State.restartReplied (s : State) (n : NodeNo) : State :=
  State.kickBridge { s with bli := { s.bli with
    restarting := true
    queue := s.bli.queue ++ [{ frame := s.replyFrame n 10 .done [], restartReply := true }] } }

theorem State.restartRequest_refused (s : State) (n : NodeNo) (busy : s.restartRefused = true) :
    s.restartRequest ⟨n, []⟩ = s.refuse n 10 .state := (if_neg (by simp)).trans (if_pos busy)

theorem State.restartRequest_accepted (s : State) (n : NodeNo) (room : HasRoom s) (idle : s.restartRefused = false) :
    s.restartRequest ⟨n, []⟩ = s.restartReplied n := by
  let reply : BridgeRec := { frame := s.replyFrame n 10 .done [], restartReply := true }
  let marked : State := { s with bli := { s.bli with restarting := true } }
  have fresh : s.bli.queue.any (fun x => sameKey x.frame reply.frame) = false := by
    rw [List.any_eq_false]
    intro x _
    simp [sameKey, reply, State.replyFrame]
  have placed : marked.place reply = s.restartReplied n := by
    rw [State.place_raw marked reply room, State.placeRaw, show enqueue marked.bli.queue reply = _ from
      enqueue_joins s.bli.queue reply fresh room]
    rfl
  exact ((if_neg (by simp)).trans (if_neg (ne_true_of_eq_false idle))).trans placed

theorem State.restartReplied_calm (s : State) (n : NodeNo) : (s.restartReplied n).agenda = s.agenda
    ∧ (s.restartReplied n).fc = s.fc ∧ (s.restartReplied n).dls = s.dls :=
  ⟨State.kickBridge_agenda _, State.kickBridge_fc _, (State.kickBridge_calm _).dls⟩

/-! ### When it takes effect -/

/-- The clock at the effect: the last stop bit of the reply, if that is in transmission (R181). -/
def State.restartClock (s : State) : Nat :=
  match s.bli.tx with
  | some x => if x.restartReply then max s.now x.lastStop else s.now
  | none => s.now

theorem State.restartTakesEffect_eq (s : State) (restarting : s.bli.restarting = true)
    (sent : ∀ r ∈ s.bli.queue, r.restartReply = false) :
    s.restartTakesEffect = State.restartNow { s with now := s.restartClock } := by
  have gone : s.bli.replyQueued = false := by
    rw [Bli.replyQueued, List.any_eq_false]
    exact fun r mem => ne_true_of_eq_false (sent r mem)
  unfold State.restartTakesEffect State.restartClock
  rw [if_pos ⟨restarting, gone⟩]
  cases s.bli.tx with
  | none => rfl
  | some x =>
    dsimp only
    cases x.restartReply with
    | true => rfl
    | false => rfl

/-! ### The stages -/

/-- Each item of a list without repetition is changed once, from what it was. -/
theorem foldl_each {α β : Type} [DecidableEq α] (f : State → α → State) (get : State → α → β) (new : β → β)
    (self : ∀ s x, get (f s x) x = new (get s x)) (others : ∀ s x y, x ≠ y → get (f s x) y = get s y) (l : List α)
    (once : l.Nodup) (s : State) (y : α) : get (l.foldl f s) y = if y ∈ l then new (get s y) else get s y := by
  induction l generalizing s with
  | nil => rfl
  | cons x l ih =>
    obtain ⟨fresh, once⟩ := List.nodup_cons.mp once
    rw [List.foldl_cons, ih once]
    by_cases same : y = x
    · subst same
      rw [if_neg fresh, if_pos List.mem_cons_self, self]
    · rw [others s x y (Ne.symm same)]
      exact if_congr (by rw [List.mem_cons, or_iff_right same]) rfl rfl

/-- A group record at RESTART (R145). -/
def Group.atRestart (r : Group) : Group :=
  { r with
    state := if r.state = .closed then .closed else .idle
    mark := false, ready := false, warnTimer := none, spacing := none
    steps := Tab.make fun k => if r.state = .closed then (r.steps.at k).quiet else (r.steps.at k).restarted.quiet }

theorem State.restartGroup_eq (s : State) (g : Fin 4) : s.restartGroup g =
    (s.setGroup g (s.group g).atRestart).writeLocal (groupEntry g) (s.group g).atRestart.state.code := by
  have record : { s.group g with
      state := if (s.group g).state == .closed then .closed else .idle
      mark := false, ready := false, warnTimer := none, spacing := none
      steps := Tab.make fun k => if (s.group g).state == .closed then ((s.group g).steps.at k).quiet
        else ((s.group g).steps.at k).restarted.quiet } = (s.group g).atRestart := by
    unfold Group.atRestart
    simp only [beq_iff_eq]
  unfold State.restartGroup
  dsimp only
  rw [record, State.group_setGroup_self]

theorem State.group_of_groups {s t : State} (same : t.groups = s.groups) (g : Fin 4) : t.group g = s.group g :=
  congrArg (fun x : Tab Group 4 => x.at g) same

/-- Groups, local entries and events replaced, nothing else. -/
def State.withGroups (s : State) (groups : Tab Group 4) (locals : Tab Byte 32) (agenda : List Task) : State :=
  { s with groups := groups, img := { s.img with locals := locals }, agenda := agenda }

theorem State.writeLocal_eq (s : State) (i : Fin 32) (v : Byte) : ∃ agenda,
    s.writeLocal i v = s.withGroups s.groups (s.img.locals.put i v) agenda := by
  by_cases same : s.img.locals.at i = v
  · refine ⟨s.agenda, ?_⟩
    have locals := s.writeLocal_locals i v
    rw [s.writeLocal_same i v same] at locals ⊢
    rw [← locals]
    rfl
  · exact ⟨_, s.writeLocal_other i v same⟩

theorem State.restartGroups_eq (s : State) (l : List (Fin 4)) : ∃ groups locals agenda,
    l.foldl State.restartGroup s = s.withGroups groups locals agenda
      ∧ ∀ k : Fin 32, (∀ g, groupEntry g ≠ k) → locals.at k = s.img.locals.at k := by
  induction l generalizing s with
  | nil => exact ⟨_, _, _, rfl, fun _ _ => rfl⟩
  | cons g l ih =>
    obtain ⟨groups, locals, agenda, later, kept⟩ := ih (s.restartGroup g)
    obtain ⟨told, first⟩ := (s.setGroup g (s.group g).atRestart).writeLocal_eq (groupEntry g) (s.group g).atRestart.state.code
    rw [← s.restartGroup_eq] at first
    refine ⟨groups, locals, agenda, later.trans (by rw [first]; rfl), fun k apart => (kept k apart).trans ?_⟩
    rw [first]
    exact Tab.at_put_ne _ _ (apart g)

theorem State.restartGroups_group (s : State) (g : Fin 4) :
    (allGroups.foldl State.restartGroup s).group g = (s.group g).atRestart := by
  have self (s : State) (g : Fin 4) : (s.restartGroup g).group g = (s.group g).atRestart := by
    rw [s.restartGroup_eq, State.group_of_groups (State.writeLocal_calm _ _ _).groups]
    exact State.group_setGroup_self _ _ _
  have others (s : State) (g k : Fin 4) (other : g ≠ k) : (s.restartGroup g).group k = s.group k := by
    rw [s.restartGroup_eq, State.group_of_groups (State.writeLocal_calm _ _ _).groups]
    exact Tab.at_put_ne _ _ other
  exact (foldl_each _ State.group Group.atRestart self others allGroups (by decide) s g).trans (if_pos (mem_allGroups g))

/-- The state at RESTART but for the calls, the beacons and the flags (R17, R37, R106, R145). -/
def State.atRestart (s : State) (remotes : Tab Remote 96) (groups : Tab Group 4) (locals : Tab Byte 32)
    (agenda : List Task) : State :=
  { s with
    agenda := agenda
    bli := { s.bli with
      queue := []
      silence := if s.settings.tBridge = 0 then .stopped else .running (s.now + s.settings.bridgeTime)
      restarting := false }
    dls := { s.dls with
      urgent := [], normal := [], alternation := .frame
      tx := s.dls.tx.map fun t => { t with discard := true }
      choose := s.dls.choose || decide (s.dls.line = .free) }
    img := { s.img with locals := locals, remotes := remotes, pointer := 0, pass := 0 }
    ramps := { a := s.ramps.a.atRestart, b := s.ramps.b.atRestart }
    groups := groups }

theorem State.restartFirst_eq (s : State) : ∃ remotes locals agenda,
    s.restartBridge.restartDeckLine.resetImage.wakeArbiter.restartRamps = s.atRestart remotes s.groups locals agenda
      ∧ locals.at 10 = 0 ∧ ∀ d, remotes.at d = Remote.awaiting s.now := by
  obtain ⟨agenda, written⟩ := State.writeLocal_eq { s with bli := { s.bli with
    queue := [], restarting := false
    silence := if s.settings.tBridge = 0 then .stopped else .running (s.now + s.settings.bridgeTime) } } 10 0
  have bridge : s.restartBridge = _ := written
  obtain ⟨frame, entries⟩ := s.restartBridge.restartDeckLine.resetImage_eq
  generalize (s.restartBridge.restartDeckLine.resetImage) = t at frame entries ⊢
  refine ⟨t.img.remotes, s.img.locals.put 10 0, t.agenda, ?_, Tab.at_put_self _ _ _, ?_⟩
  · rw [frame, bridge]
    rfl
  · rw [bridge] at entries
    exact entries

/-! ### The deck transmit queue -/

/-- Every frame that waits for the deck line is a PLAY or a CUT (R154). -/
def ZoneQueue (s : State) : Prop := ∀ r ∈ s.dls.urgent ++ s.dls.normal, ∃ z i p, r.origin = .zone z i p

theorem ZoneQueue.same {s t : State} (h : ZoneQueue s) (dls : t.dls = s.dls) : ZoneQueue t := by
  unfold ZoneQueue
  rw [dls]
  exact h

theorem ZoneQueue.withCl {s : State} (h : ZoneQueue s) (x : CallList) : ZoneQueue { s with cl := x } := h

theorem ZoneQueue.foldl {α : Type} (f : State → α → State) (keeps : ∀ t x, ZoneQueue t → ZoneQueue (f t x)) (l : List α)
    {s : State} (h : ZoneQueue s) : ZoneQueue (l.foldl f s) := by
  induction l generalizing s with
  | nil => exact h
  | cons x l ih => exact ih (keeps s x h)

theorem ZoneQueue.offer {s : State} (h : ZoneQueue s) (r : DeckRec) (origin : ∃ z i p, r.origin = .zone z i p) :
    ZoneQueue (s.offer r).1 := by
  cases place : s.dls.hasPlace r.urgent with
  | false =>
    rw [s.offer_full r place]
    exact h
  | true =>
    rw [s.offer_placed r place]
    intro x mem
    have cases_ : x ∈ s.dls.urgent ++ s.dls.normal ∨ x = r := by
      unfold Dls.accept at mem
      dsimp only at mem
      split at mem
      · simp only [List.mem_append, List.mem_singleton] at mem ⊢
        tauto
      · simp only [List.mem_append, List.mem_singleton] at mem ⊢
        tauto
    exact cases_.elim (h x) fun same => same ▸ origin

theorem State.setMark_dls (s : State) (e : Fin 16) (z : Fin 12) (m : Mark) : (s.setMark e z m).dls = s.dls := by
  unfold State.setMark
  split
  · rfl
  · rfl

theorem ZoneQueue.cutTo {s : State} (h : ZoneQueue s) (z : Fin 12) (node : NodeNo) (object : Byte) (urgent : Bool) :
    ZoneQueue (s.cutTo z node object urgent) := by
  unfold State.cutTo
  extract_lets zn r
  have offered : ZoneQueue (s.offer r).1 := h.offer r ⟨_, _, _, rfl⟩
  split
  · next t placed =>
    rw [placed] at offered
    exact offered
  · next t full =>
    rw [full] at offered
    split
    · exact offered
    · exact offered.same rfl

theorem ZoneQueue.buildCut {s : State} (h : ZoneQueue s) (z : Fin 12) (urgent : Bool) : ZoneQueue (s.buildCut z urgent) := by
  unfold State.buildCut
  split
  · exact h
  · exact h.cutTo _ _ _ _

theorem ZoneQueue.buildPlay {s : State} (h : ZoneQueue s) (z : Fin 12) (node : NodeNo) (object : Byte) (c : Call) :
    ZoneQueue (s.buildPlay z node object c) := by
  unfold State.buildPlay
  extract_lets zn r
  have offered : ZoneQueue (s.offer r).1 := h.offer r ⟨_, _, _, rfl⟩
  split
  · next t placed =>
    rw [placed] at offered
    exact offered.same rfl
  · next t full =>
    rw [full] at offered
    exact offered.same rfl

theorem ZoneQueue.playOwner {s : State} (h : ZoneQueue s) (z : Fin 12) : ZoneQueue (s.playOwner z) := by
  unfold State.playOwner
  extract_lets advanced
  have first : ZoneQueue advanced := h.same rfl
  split
  · exact first
  · split
    · refine ZoneQueue.buildPlay ?_ _ _ _ _
      split
      · exact first.same (State.setMark_dls _ _ _ _)
      · exact first
    · exact first.same (State.setMark_dls _ _ _ _)

theorem ZoneQueue.recomputeZone {s : State} (h : ZoneQueue s) (before : CallList) (gone : List (Fin 16)) (z : Fin 12) :
    ZoneQueue (State.recomputeZone before gone s z) := by
  unfold State.recomputeZone
  extract_lets old new removed lost marked source owned cut
  clear_value new removed lost
  have first : ZoneQueue marked := by
    cases holder : old with
    | none =>
      have same : marked = s := by simp only [marked, holder]
      exact same ▸ h
    | some e =>
      have same : marked = if lost.isSome = true ∧ removed = false then s.setMark e z (.pending false) else s := by
        simp only [marked, holder]
      rw [same]
      split
      · exact h.same (State.setMark_dls _ _ _ _)
      · exact h
  have second : ZoneQueue owned := first.same rfl
  have third : ZoneQueue cut := by
    cases loser : lost with
    | none =>
      have same : cut = owned := by simp only [cut, loser]
      exact same ▸ second
    | some c =>
      have same : ∃ urgent, cut = owned.buildCut z urgent := ⟨_, by simp only [cut, loser]; rfl⟩
      obtain ⟨urgent, same⟩ := same
      exact same ▸ second.buildCut z urgent
  split
  · exact h
  · exact third.playOwner z

theorem State.writeOwners_dls (s : State) : s.writeOwners.dls = s.dls :=
  foldl_keeps State.dls _ (fun _ _ => (State.writeLocal_calm _ _ _).dls) allZones s

theorem State.testReady_dls (s : State) : s.testReady.dls = s.dls := by
  refine foldl_keeps State.dls _ (fun t e => ?_) allEntries s
  split
  · rfl
  · split
    · unfold State.makeReady
      dsimp only
      split
      · rfl
      · rfl
    · rfl

theorem ZoneQueue.recompute {s : State} (h : ZoneQueue s) (before : CallList) (gone : List (Fin 16)) :
    ZoneQueue (s.recompute before gone) :=
  (ZoneQueue.foldl _ (fun _ z k => k.recomputeZone before gone z) allZones h).same
    ((State.testReady_dls _).trans (State.writeOwners_dls _))

theorem ZoneQueue.handleDone (n : Nat) {s : State} (h : ZoneQueue s) : ZoneQueue (State.handleDone n s) := by
  induction n generalizing s with
  | zero => exact h
  | succ n ih =>
    unfold State.handleDone
    split
    · exact ih ((h.withCl _).recompute _ _)
    · exact h

theorem State.formBeacons_dls (s : State) : s.formBeacons.dls = s.dls := by
  obtain ⟨shown, formed⟩ := s.formBeacons_eq
  rw [formed]
  rfl

theorem State.formBeacons_cl (s : State) : s.formBeacons.cl = s.cl := by
  obtain ⟨shown, formed⟩ := s.formBeacons_eq
  rw [formed]
  rfl

theorem ZoneQueue.placeEntry {s : State} (h : ZoneQueue s) (e : Fin 16) (c : Call) : ZoneQueue (s.placeEntry e c) := by
  unfold State.placeEntry State.reallocate
  generalize 193 = rounds
  dsimp only
  refine ZoneQueue.same ?_ (State.formBeacons_dls _)
  refine ZoneQueue.handleDone rounds ?_
  exact (h.withCl _).recompute _ _

/-- A CUT to the zone, if its owner is playing there (R161). -/
def State.cutPlaying (s : State) (z : Fin 12) : State :=
  match s.ownerCall z with
  | none => s
  | some (_, c) => if c.isPlaying z then s.buildCut z c.isEmergency else s

/-- No entry listed (R161). -/
def State.callsEmptied (s : State) : State := { s with cl := { s.cl with calls := .fill 16 none, order := [] } }

/-- A zone without an owner and without pending frames, its issue advanced (R161). -/
def State.clearOwner (s : State) (z : Fin 12) : State :=
  s.setZone z { s.cl.zones.at z with
    owner := none, issue := (s.cl.zones.at z).issue + 1, pendingCut := none, pendingPlay := none }

theorem State.restartCalls_eq (s : State) : s.restartCalls =
    (allZones.foldl State.clearOwner (allZones.foldl State.cutPlaying s).callsEmptied).writeOwners := by
  unfold State.restartCalls
  generalize allZones = zones
  rfl

theorem ZoneQueue.cutPlaying {s : State} (h : ZoneQueue s) (z : Fin 12) : ZoneQueue (s.cutPlaying z) := by
  unfold State.cutPlaying
  split
  · exact h
  · split
    · exact h.buildCut _ _
    · exact h

theorem ZoneQueue.restartCalls {s : State} (h : ZoneQueue s) : ZoneQueue s.restartCalls := by
  have first : ZoneQueue (allZones.foldl State.cutPlaying s) := ZoneQueue.foldl _ (fun _ z k => k.cutPlaying z) allZones h
  have second (t : State) : (allZones.foldl State.clearOwner t).dls = t.dls :=
    foldl_keeps State.dls State.clearOwner (fun _ _ => rfl) allZones t
  rw [s.restartCalls_eq]
  generalize allZones.foldl State.cutPlaying s = cut at first ⊢
  exact first.same ((State.writeOwners_dls _).trans (second cut.callsEmptied))

/-! ### The calls -/

theorem State.writeOwners_cl (s : State) : s.writeOwners.cl = s.cl :=
  foldl_keeps State.cl _ (fun _ _ => (State.writeLocal_calm _ _ _).cl) allZones s

theorem State.restartCalls_none (s : State) (e : Fin 16) : s.restartCalls.cl.calls.at e = none := by
  have cleared (t : State) : (allZones.foldl State.clearOwner t).cl.calls = t.cl.calls :=
    foldl_keeps (fun t => t.cl.calls) State.clearOwner (fun _ _ => rfl) allZones t
  rw [s.restartCalls_eq, State.writeOwners_cl, cleared]
  generalize allZones.foldl State.cutPlaying s = cut
  exact Tab.at_fill _ _

/-- The emergency general call placed again after the calls are emptied (R161, R182). -/
def State.emergencyAgain (s : State) : State := if s.dcc.deck = .emergency then s.placeEmergency else s

theorem State.placeEmergency_eq (s : State) : s.placeEmergency = s.placeEntry 6
    (s.newCall .emergency s.settings.emZones s.settings.emMessage .emergency 0 s.settings.emPattern) := rfl

theorem State.emergencyAgain_only (s : State) : CallsOnly s s.emergencyAgain ∧ Silent s s.emergencyAgain := by
  unfold State.emergencyAgain
  split
  · rw [s.placeEmergency_eq]
    exact ⟨(CallsOnly.refl s).placeEntry _ _, (Silent.refl s).placeEntry _ _⟩
  · exact ⟨CallsOnly.refl s, Silent.refl s⟩

theorem ZoneQueue.emergencyAgain {s : State} (h : ZoneQueue s) : ZoneQueue s.emergencyAgain := by
  unfold State.emergencyAgain
  split
  · rw [s.placeEmergency_eq]
    exact h.placeEntry _ _
  · exact h

theorem State.emergencyAgain_calls (s : State) (empty : ∀ e, s.cl.calls.at e = none) :
    (∀ e : Fin 16, (e ≠ 6 ∨ s.dcc.deck ≠ .emergency) → s.emergencyAgain.cl.calls.at e = none)
      ∧ (s.dcc.deck = .emergency → (s.emergencyAgain.cl.calls.at 6).isSome = true) := by
  unfold State.emergencyAgain
  split
  · next emergency =>
    rw [s.placeEmergency_eq]
    refine ⟨fun e other => ?_, fun _ => ?_⟩
    · exact ((Kept.refl e s).placeEntry 6 _ (other.resolve_right (not_not_intro emergency))).1 (empty e)
    · obtain ⟨c, listed, -⟩ := s.placeEntry_listed 6
        (s.newCall .emergency s.settings.emZones s.settings.emMessage .emergency 0 s.settings.emPattern) rfl
      exact Option.isSome_iff_exists.mpr ⟨c, listed⟩
  · next other => exact ⟨fun e _ => empty e, fun emergency => absurd emergency other⟩

/-! ### The restart carried out -/

theorem State.restartStages_eq (s : State) : ∃ remotes groups locals agenda,
    allGroups.foldl State.restartGroup s.restartBridge.restartDeckLine.resetImage.wakeArbiter.restartRamps
        = s.atRestart remotes groups locals agenda
      ∧ locals.at 10 = 0 ∧ (∀ d, remotes.at d = Remote.awaiting s.now) ∧ ∀ g, groups.at g = (s.group g).atRestart := by
  obtain ⟨remotes, before, _, first, ten, awaiting⟩ := s.restartFirst_eq
  obtain ⟨groups, locals, agenda, grouped, kept⟩ := State.restartGroups_eq
    s.restartBridge.restartDeckLine.resetImage.wakeArbiter.restartRamps allGroups
  have record := State.restartGroups_group s.restartBridge.restartDeckLine.resetImage.wakeArbiter.restartRamps
  rw [grouped] at record ⊢
  rw [first] at record kept ⊢
  refine ⟨remotes, groups, locals, agenda, rfl, (kept 10 (by decide)).trans ten, awaiting, record⟩

theorem State.carryOut_eq (s : State) : s.carryOut =
    (allGroups.foldl State.restartGroup
      s.restartBridge.restartDeckLine.resetImage.wakeArbiter.restartRamps).restartCalls.formBeacons.emergencyAgain.restartFlags :=
  rfl

theorem State.anyStale_awaiting (s : State) (now : Nat) (all : ∀ d, s.img.remotes.at d = Remote.awaiting now) :
    s.anyStale = false := by
  rw [State.anyStale, List.any_eq_false]
  intro d _
  rw [all d]
  simp [Remote.awaiting]

theorem State.holding_congr {s t : State} (running : t.bli.silence ≠ .expired) (fresh : t.anyStale = false)
    (estop : t.estop = s.estop) (states : ∀ ch, (t.ramp ch).state = (s.ramp ch).state) (ts : t.ts = s.ts) :
    t.holding = (if s.estopHolds .a then (Flag.ramp .a .estop).bit else 0)
      ||| (if s.estopHolds .b then (Flag.ramp .b .estop).bit else 0)
      ||| (if s.anySec .empty then Flag.sectionEmpty.bit else 0)
      ||| (if s.anySec .corrupt then Flag.sectionCorrupt.bit else 0) := by
  have holds (ch : Channel) : t.estopHolds ch = s.estopHolds ch := by
    rw [State.estopHolds, State.estopHolds, estop, states ch]
  have any (st : ActiveStatus) : t.anySec st = s.anySec st := by
    simp only [State.anySec, State.sec_of_ts ts]
  rw [State.holding, if_neg running, fresh, holds .a, holds .b, any .empty, any .corrupt]
  simp only [Bool.false_eq_true, if_false, BitVec.ofNat_eq_ofNat, BitVec.zero_or]

def State.withFlags (s : State) (flags : BitVec 35) : State := { s with fc := { s.fc with flags := flags } }

/-- The summary notice owed (R196). -/
def State.nowOwed (s : State) : State := { s with fc := { s.fc with owed := true } }

theorem State.restartFlags_eq (s : State) : s.restartFlags = (s.withFlags s.holding).reform.nowOwed := by
  unfold State.restartFlags State.nowOwed State.withFlags
  dsimp only

theorem State.reform_nowOwed_calm (s : State) : Calm s s.reform.nowOwed ∧ s.reform.nowOwed.fc.owed = true
    ∧ s.reform.nowOwed.fc.flags = s.fc.flags ∧ s.reform.nowOwed.bli = s.bli
    ∧ ∀ k : Fin 32, 11 ≠ k → s.reform.nowOwed.img.locals.at k = s.img.locals.at k := by
  have calm := s.reform_calm
  have flags := s.reform_flags
  have bli := s.reform_bli
  have locals := s.reform_locals
  generalize s.reform = t at calm flags bli locals ⊢
  exact ⟨calm.trans (t.owe_calm true), rfl, flags, bli, locals⟩

theorem State.restartCalls_only (s : State) : CallsOnly s s.restartCalls.formBeacons.emergencyAgain
    ∧ Silent s s.restartCalls.formBeacons.emergencyAgain := by
  obtain ⟨only, silent⟩ := s.restartCalls.formBeacons.emergencyAgain_only
  exact ⟨((CallsOnly.refl s).restartCalls.formBeacons).trans only, ((Silent.refl s).restartCalls.formBeacons).trans silent⟩

/-- The restart carried out: the state without calls and flags, then the calls, then the flags (R182, R196). -/
theorem State.carryOut_stages (s : State) : ∃ remotes groups locals agenda, ∃ x : State,
    s.carryOut = (x.withFlags x.holding).reform.nowOwed
      ∧ CallsOnly (s.atRestart remotes groups locals agenda) x ∧ Silent (s.atRestart remotes groups locals agenda) x
      ∧ ZoneQueue x
      ∧ (∀ e : Fin 16, (e ≠ 6 ∨ s.dcc.deck ≠ .emergency) → x.cl.calls.at e = none)
      ∧ (s.dcc.deck = .emergency → (x.cl.calls.at 6).isSome = true)
      ∧ locals.at 10 = 0 ∧ (∀ d, remotes.at d = Remote.awaiting s.now) ∧ ∀ g, groups.at g = (s.group g).atRestart := by
  obtain ⟨remotes, groups, locals, agenda, first, ten, awaiting, record⟩ := s.restartStages_eq
  have taken := s.carryOut_eq
  rw [first] at taken
  obtain ⟨only, silent⟩ := (s.atRestart remotes groups locals agenda).restartCalls_only
  have empty : ZoneQueue (s.atRestart remotes groups locals agenda) := fun r mem => absurd mem List.not_mem_nil
  have queue := (empty.restartCalls.same (State.formBeacons_dls _)).emergencyAgain
  have none (e : Fin 16) : (s.atRestart remotes groups locals agenda).restartCalls.formBeacons.cl.calls.at e = none := by
    rw [State.formBeacons_cl]
    exact State.restartCalls_none _ e
  have deck : (s.atRestart remotes groups locals agenda).restartCalls.formBeacons.dcc = s.dcc :=
    ((CallsOnly.refl _).restartCalls.formBeacons).dcc
  obtain ⟨gone, again⟩ := State.emergencyAgain_calls _ none
  rw [deck] at gone again
  generalize (s.atRestart remotes groups locals agenda).restartCalls.formBeacons.emergencyAgain = x
    at taken only silent queue gone again
  exact ⟨remotes, groups, locals, agenda, x, taken.trans x.restartFlags_eq, only, silent, queue, gone, again, ten, awaiting,
    record⟩

/-- The flags of a state at RESTART: silence and staleness are over, the conditions of the levels and the tables
stay (R196). -/
theorem State.atRestart_holding {s x : State} {remotes : Tab Remote 96} {groups : Tab Group 4} {locals : Tab Byte 32}
    {agenda : List Task} (only : CallsOnly (s.atRestart remotes groups locals agenda) x)
    (awaiting : ∀ d, remotes.at d = Remote.awaiting s.now) : x.holding =
      (if s.estopHolds .a then (Flag.ramp .a .estop).bit else 0)
      ||| (if s.estopHolds .b then (Flag.ramp .b .estop).bit else 0)
      ||| (if s.anySec .empty then Flag.sectionEmpty.bit else 0)
      ||| (if s.anySec .corrupt then Flag.sectionCorrupt.bit else 0) := by
  refine State.holding_congr ?_ (x.anyStale_awaiting s.now fun d => ?_) only.estop (fun ch => ?_) only.ts
  · rw [only.silence]
    show (if s.settings.tBridge = 0 then Silence.stopped else .running _) ≠ .expired
    split
    · simp
    · simp
  · rw [only.remotes]
    exact awaiting d
  · rw [only.ramp ch]
    cases ch with
    | a => rfl
    | b => rfl

/-- Settles O25: the request, then the restart abandoned, then the stages of the restart carried out. -/
theorem restart : Obligations.Restart := by
  refine ⟨fun s n settled room => ?_, fun s node restarting sent => ?_⟩
  · intro q busy
    have refused : s.restartRefused = true ↔ busy := s.restartRefused_iff
    refine ⟨fun isBusy => ?_, fun free => ?_⟩
    · exact s.actRequest_refused (·.restartRequest q) q 10 .state settled room
        (s.restartRequest_refused n (refused.mpr isBusy))
    · have idle : s.restartRefused = false := Bool.not_eq_true _ ▸ fun isBusy => free (refused.mp isBusy)
      obtain ⟨agenda, fc, dls⟩ := s.restartReplied_calm n
      exact s.actRequest_exact _ (·.restartRequest q) settled (s.restartRequest_accepted n room idle) agenda
        (congrArg Fc.owed fc) dls
  · intro moved n
    let v : State := { s with now := n }
    have runs : v.sequenceRuns = true ↔ moved := v.sequenceRuns_iff
    have own : s.restartTakesEffect = v.restartNow := s.restartTakesEffect_eq restarting sent
    refine ⟨fun hasMoved => s.act_own _ (·.restartTakesEffect) node (own.trans (if_pos (runs.mpr hasMoved))), fun still => ?_⟩
    have taken : s.restartTakesEffect = v.carryOut := own.trans (if_neg fun moves => still (runs.mp moves))
    have summary : SummaryOk v → SummaryOk v.carryOut := (Keeps.refl v).carryOut.summary
    obtain ⟨remotes, groups, locals, agenda, x, stages, only, silent, queue, gone, again, ten, awaiting, record⟩ :=
      v.carryOut_stages
    obtain ⟨calm, owed, flags, bli, kept⟩ := (x.withFlags x.holding).reform_nowOwed_calm
    rw [stages] at taken summary
    refine ⟨_, s.act_own _ (·.restartTakesEffect) node taken, ?_⟩
    have holding : x.holding = _ := State.atRestart_holding only awaiting
    generalize x.holding = set at calm owed flags bli kept summary holding ⊢
    generalize (x.withFlags set).reform.nowOwed = t at calm owed flags bli kept summary ⊢
    have tx : x.bli.tx = s.bli.tx := (congrArg Bli.tx silent.1).trans rfl
    have grow : Grows (v.atRestart remotes groups locals agenda) x := only.grow
    refine ⟨calm.now.trans only.now, calm.node.trans only.node, calm.straps.trans only.straps, calm.pins.trans only.pins,
      calm.pending.trans only.pending, calm.restarting.trans only.restarting, calm.silence.trans only.silence,
      (congrArg Bli.queue bli).trans (congrArg Bli.queue silent.1), (congrArg Bli.tx bli).trans tx,
      owed, summary, ?_, (congrArg Dls.line calm.dls).trans grow.line, (congrArg Dls.alternation calm.dls).trans grow.alternation,
      (congrArg Dls.tx calm.dls).trans grow.tx, ?_, fun d => ?_, calm.defs.trans only.defs, calm.pointer.trans only.pointer,
      calm.pass.trans only.pass, calm.dcc.trans only.dcc, calm.held.trans only.held, calm.estop.trans only.estop,
      calm.ts.trans only.ts, calm.settings.trans only.settings, fun ch => ?_, fun g => ?_, fun e other => ?_, fun emergency => ?_,
      calm.masks.trans only.masks, calm.summaryMasks.trans only.summaryMasks, calm.test.trans only.test,
      calm.last.trans only.last, flags.trans holding⟩
    · exact (kept 10 (by decide)).trans ((only.locals 10 (.inl (by decide))).trans ten)
    · exact queue.same calm.dls
    · rw [calm.remotes]
      exact (congrArg (fun r : Tab Remote 96 => r.at d) only.remotes).trans (awaiting d)
    · have same : t.ramp ch = x.ramp ch := congrArg (fun r : Pair Ramp => r.get ch) calm.ramps
      rw [same, only.ramp ch]
      cases ch with
      | a => rfl
      | b => rfl
    · have same : t.group g = (s.group g).atRestart :=
        (State.group_of_groups calm.groups g).trans ((only.group g).trans (record g))
      rw [same]
      refine ⟨rfl, rfl, rfl, rfl, rfl, fun k => ?_⟩
      have step : ((s.group g).atRestart.steps.at k) = if (s.group g).state = .closed then ((s.group g).steps.at k).quiet
        else ((s.group g).steps.at k).restarted.quiet := Tab.at_make _ k
      rw [step]
      split
      · exact ⟨rfl, rfl, rfl, rfl⟩
      · exact ⟨rfl, rfl, rfl, rfl⟩
    · rw [calm.cl]
      exact gone e other
    · rw [calm.cl]
      exact again emergency

end Sys2Proof.Machine
end

section
/-! SUPPORT. Changes of the deck condition, RECOVER, the fire alarm (R43, R48, R52, R54). -/

namespace Sys2Proof.Machine

open Sys2Proof

/-! ### A change of the deck condition -/

/-- A frame placed while there is room raises no flag (R76). -/
theorem State.notice_fc (s : State) (object value : Byte) (payload : List Byte) (room : HasRoom s) :
    (s.notice object value payload).fc = s.fc :=
  (congrArg State.fc (s.place_raw _ room)).trans (s.placeRaw_fc _)

theorem State.changeDeck_fc (s : State) (d : DeckCondition) (c : DeckCause) (room : HasRoom s) :
    (s.changeDeck d c).fc = s.fc := by
  unfold State.changeDeck
  extract_lets old _ moved
  have same : (moved.writeLocal 0 d.code).bli = s.bli := moved.writeLocal_bli 0 d.code
  rw [State.notice_fc _ _ _ _ (by rw [HasRoom, same]; exact room), State.writeLocal_fc]

theorem State.changeDeck_bd (s : State) (d : DeckCondition) (c : DeckCause) : (s.changeDeck d c).bd = s.bd := by
  unfold State.changeDeck
  extract_lets old _ moved
  rw [(State.notice_calm _ _ _ _).bd, (moved.writeLocal_calm _ _).bd]

theorem State.seaReady_iff {s : State} (published : PublishedOk s) : s.seaReady = true ↔
    (∀ g : Fin 4, (s.group g).defn.sea = true → (s.group g).state = .closed)
      ∧ ∀ ch, (s.ramp ch).state = .disabled ∨ (s.ramp ch).state = .stowedLocked := by
  have closed (g) : s.groupValue g = 4 ↔ _ := State.groupValue_eq_code_iff published g .closed
  simp only [State.seaReady, Bool.and_eq_true, List.all_eq_true, beq_iff_eq, s.mem_seaGroups, closed,
    State.rampsStowed_iff published]

/-- Settles O26: the change itself, then the test for SEA. -/
theorem deckConditionChanges : Obligations.DeckConditionChanges := by
  refine ⟨fun s d c => ⟨rfl, s.changeDeck_only d c, s.changeDeck_dls d c, s.changeDeck_cl d c, s.changeDeck_bd d c,
    fun room => ⟨s.changeDeck_fc d c room, (s.changeDeck_tells d c room).1⟩⟩, fun s published closing => ?_⟩
  intro ready
  have asks : s.seaReady = true ↔ ready := State.seaReady_iff published
  exact ⟨fun isReady => if_pos ⟨closing, asks.mpr isReady⟩, fun waits => if_neg fun goes => waits (asks.mp goes.2)⟩

/-! ### RECOVER -/

theorem State.recoverDeck_transition (s : State) (n : NodeNo) (deck : s.dcc.deck ≠ .emergency) :
    s.recoverDeck ⟨n, []⟩ = s.refuse n 0 .transition := (if_neg (by simp)).trans (if_pos deck)

theorem State.recoverDeck_alarm (s : State) (n : NodeNo) (deck : s.dcc.deck = .emergency) (alarm : s.dcc.fire.level = true) :
    s.recoverDeck ⟨n, []⟩ = s.refuse n 0 .state :=
  (if_neg (by simp)).trans ((if_neg (not_not_intro deck)).trans (if_pos alarm))

theorem State.recoverDeck_done (s : State) (n : NodeNo) (deck : s.dcc.deck = .emergency) (quiet : s.dcc.fire.level = false) :
    s.recoverDeck ⟨n, []⟩ = ((s.reply n 0 .done).changeDeck .harbour .recover).removeEntry 6 :=
  (if_neg (by simp)).trans ((if_neg (not_not_intro deck)).trans (if_neg (ne_true_of_eq_false quiet)))

/-- An answer and then a change of the deck condition, against the state before both (R43). -/
theorem State.replied_changeDeck_only (s : State) (q : Request) (d : DeckCondition) (c : DeckCause) :
    CallsOnly (({ s with dcc := { s.dcc with deck := d } } : State).published 0 d.code)
      ((s.replied q 0 .done).changeDeck d c) := by
  let asked : State := { s with dcc := { s.dcc with deck := d } }
  have calm := s.replied_calm q 0 .done []
  have img : (s.replied q 0 .done).img = s.img := s.queued_img _
  have moved := (s.replied q 0 .done).changeDeck_only d c
  generalize s.replied q 0 .done = r at calm img moved ⊢
  let answered : State := { r with dcc := { r.dcc with deck := d } }
  have sameDcc : answered.dcc = asked.dcc := congrArg (fun x : Dcc => { x with deck := d }) calm.dcc
  have step : Calm (asked.published 0 d.code) (answered.published 0 d.code) := { calm with dcc := sameDcc }
  refine (CallsOnly.ofCalm (CallsOnly.refl _) step fun i _ => ?_).trans moved
  exact congrArg (fun x : Image => (x.locals.put 0 d.code).at i) img

/-- Settles O29: the refusals, then the return to HARBOUR. -/
theorem recoverReturnsToHarbour : Obligations.RecoverReturnsToHarbour := by
  intro s n settled room q out
  refine ⟨fun deck => s.actRequest_refused (·.recoverDeck q) q 0 .transition settled room (s.recoverDeck_transition n deck),
    fun deck alarm => s.actRequest_refused (·.recoverDeck q) q 0 .state settled room (s.recoverDeck_alarm n deck alarm),
    fun deck quiet => ?_⟩
  obtain ⟨node, -, -, -, restarting⟩ := settled
  have own := s.recoverDeck_done n deck quiet
  rw [s.reply_replied q 0 .done [] room] at own
  refine ⟨_, s.actRequest_own _ (·.recoverDeck q) node restarting own, State.removeEntry_absent _ 6, fun short => ?_, ?_⟩
  · obtain ⟨reply, notice⟩ := s.replied_changeDeck_tells q 0 .done [] .harbour .recover (by omega)
    rw [deck] at notice
    have silent := (Silent.refl ((s.replied q 0 .done).changeDeck .harbour .recover)).removeEntry 6
    exact ⟨silent.tells _ reply, silent.tells _ notice⟩
  · exact (s.replied_changeDeck_only q .harbour .recover).removeEntry 6

/-! ### The fire alarm -/

/-- The level taken by the pin and the filter (R21, R52, log 25). -/
def State.fireLevel (s : State) (a : Bool) : State :=
  { s with
    pins := { s.pins with fireAlarm := a }
    dcc := { s.dcc with fire := { level := a, seen := true, sampled := a, run := 0 } } }

theorem State.fireAccepted_first (s : State) (a : Bool) (first : s.dcc.fire.seen = false) :
    s.fireAccepted a = (s.fireLevel a).published 9 (bit a) := if_pos first

theorem State.fireAccepted_same (s : State) (a : Bool) (seen : s.dcc.fire.seen = true) (same : s.dcc.fire.level = a) :
    s.fireAccepted a = s.fireLevel a := (if_neg (by rw [seen]; decide)).trans (if_pos same)

theorem State.fireAccepted_changed (s : State) (a : Bool) (seen : s.dcc.fire.seen = true) (other : s.dcc.fire.level ≠ a) :
    s.fireAccepted a = (let u := (s.fireLevel a).writeLocal 9 (bit a)
      if a = true ∧ u.settings.fireEnable = true ∧ u.dcc.deck ≠ .emergency then u.enterEmergency .fireAlarm else u) :=
  (if_neg (by rw [seen]; decide)).trans (if_neg other)

/-- Settles O30: the first level, a level that stays, a level that changes. -/
theorem fireAlarmAccepted : Obligations.FireAlarmAccepted := by
  intro s a settled out u
  have node : s.node ≠ 63 := settled.1
  refine ⟨fun first => s.act_exact _ (·.fireAccepted a) settled (s.fireAccepted_first a first) rfl rfl rfl,
    fun seen same => s.act_exact _ (·.fireAccepted a) settled (s.fireAccepted_same a seen same) rfl rfl rfl,
    fun seen other => ?_⟩
  have changed := s.fireAccepted_changed a seen other
  have calm := (s.fireLevel a).writeLocal_calm 9 (bit a)
  dsimp only at changed
  rw [calm.settings, calm.dcc, show s.fireLevel a = u from rfl] at changed
  refine ⟨fun enters => s.act_own _ (·.fireAccepted a) node (changed.trans ?_),
    fun stays => s.act_own _ (·.fireAccepted a) node (changed.trans (if_neg stays))⟩
  have active : bit a = 1 := congrArg bit enters.1
  rw [if_pos (show a = true ∧ u.settings.fireEnable = true ∧ u.dcc.deck ≠ .emergency from enters), active]

end Sys2Proof.Machine
end

section
/-! SUPPORT. What the requests of the deck condition do to a door group (R47, R50, R128, R132, R142). -/

namespace Sys2Proof.Machine

open Sys2Proof

/-! ### Entering a state -/

theorem Group.enter_state (r : Group) (st : GroupState) : (r.enter st).state = st := rfl

/-- Leaving CLOSING or OPENING releases the COMMANDED steps (R130). -/
theorem Group.enter_released (r : Group) (st : GroupState) (sequence : r.state = .closing ∨ r.state = .opening) (k : Fin 8) :
    (r.enter st).steps.at k = if (r.steps.at k).state = .commanded then (r.steps.at k).release else r.steps.at k := by
  unfold Group.enter Group.releaseSteps
  rw [if_pos sequence]
  exact Tab.at_make _ k

theorem State.enterGroup_state (s : State) (g : Fin 4) (st : GroupState) (breach : Byte) :
    ((s.enterGroup g st breach).group g).state = st := by
  rw [s.enterGroup_record, Group.enter_state]

/-- Entering a state moves neither the calls nor the deck transmit queue. -/
theorem State.enterGroup_deck (s : State) (g : Fin 4) (st : GroupState) (breach : Byte) :
    (s.enterGroup g st breach).cl = s.cl ∧ (s.enterGroup g st breach).dls = s.dls := by
  unfold State.enterGroup
  extract_lets old entered written r
  have wrote := entered.writeLocal_calm (groupEntry g) st.code
  have told := written.notice_calm (groupObject g) st.code
    [old.code, BitVec.ofNat 8 (r.count .confirmed), BitVec.ofNat 8 (r.count .failed), breach]
  exact ⟨told.cl.trans wrote.cl, told.dls.trans wrote.dls⟩

/-! ### STOP frames -/

/-- A group record that differs in the pending STOPs of its steps alone (R130). -/
def Group.SameButStops (r t : Group) : Prop :=
  t = { r with steps := t.steps }
    ∧ ∀ j, t.steps.at j = { r.steps.at j with pendingStop := (t.steps.at j).pendingStop }

theorem Group.SameButStops.refl (r : Group) : r.SameButStops r := ⟨rfl, fun _ => rfl⟩

theorem Group.SameButStops.trans {r t u : Group} (h : r.SameButStops t) (k : t.SameButStops u) : r.SameButStops u := by
  obtain ⟨frame, steps⟩ := h
  obtain ⟨frame', steps'⟩ := k
  refine ⟨frame'.trans (by rw [frame]), fun j => (steps' j).trans (by rw [steps j])⟩

theorem State.group_setStep_self (s : State) (g : Fin 4) (k : Fin 8) (x : Step) :
    (s.setStep g k x).group g = { s.group g with steps := (s.group g).steps.put k x } := State.group_setGroup_self _ _ _

theorem State.offer_frame (s : State) (r : DeckRec) : ∃ dls, (s.offer r).1 = { s with dls := dls } := by
  unfold State.offer
  split
  · exact ⟨_, rfl⟩
  · exact ⟨_, rfl⟩

theorem State.buildStopTo_frame (s : State) (g : Fin 4) (k : Fin 8) (d : Fin 96) (target : NodeNo × Byte) :
    (s.buildStopTo g k d target).cl = s.cl ∧ (s.group g).SameButStops ((s.buildStopTo g k d target).group g) := by
  unfold State.buildStopTo
  extract_lets t r
  obtain ⟨dls, offered⟩ := s.offer_frame r
  split
  · next u placed =>
    rw [placed] at offered
    dsimp only at offered
    rw [offered]
    exact ⟨rfl, .refl _⟩
  · next u full =>
    rw [full] at offered
    dsimp only at offered
    rw [offered]
    split
    · exact ⟨rfl, .refl _⟩
    · refine ⟨rfl, ?_⟩
      rw [State.group_setStep_self]
      refine ⟨rfl, fun j => ?_⟩
      by_cases same : k = j
      · subst same
        rw [Tab.at_put_self]
      · rw [Tab.at_put_ne _ _ same]
        rfl

theorem State.buildStop_frame (s : State) (g : Fin 4) (k : Fin 8) :
    (s.buildStop g k).cl = s.cl ∧ (s.group g).SameButStops ((s.buildStop g k).group g) := by
  unfold State.buildStop
  split
  · exact ⟨rfl, .refl _⟩
  · exact s.buildStopTo_frame _ _ _ _

theorem State.buildStops_frame (s : State) (g : Fin 4) (l : List (Fin 8)) :
    (l.foldl (fun s k => s.buildStop g k) s).cl = s.cl
      ∧ (s.group g).SameButStops ((l.foldl (fun s k => s.buildStop g k) s).group g) := by
  induction l generalizing s with
  | nil => exact ⟨rfl, .refl _⟩
  | cons k l ih =>
    obtain ⟨cl, stops⟩ := s.buildStop_frame g k
    obtain ⟨cl', stops'⟩ := ih (s.buildStop g k)
    exact ⟨cl'.trans cl, stops.trans stops'⟩

/-- The doors in motion stopped: the group STOPPED, each COMMANDED step released (R130, R142). -/
theorem State.haltGroup_record (s : State) (g : Fin 4) (sequence : (s.group g).state = .closing ∨ (s.group g).state = .opening) :
    (s.haltGroup g).cl = s.cl ∧ ((s.haltGroup g).group g).state = .stopped
      ∧ ∀ k : Fin 8, ((s.group g).steps.at k).state = .commanded →
        (((s.haltGroup g).group g).steps.at k).travel = none ∧ (((s.haltGroup g).group g).steps.at k).retry = none
          ∧ (((s.haltGroup g).group g).steps.at k).issue = ((s.group g).steps.at k).issue + 1 := by
  unfold State.haltGroup
  extract_lets moving
  obtain ⟨cl, frame, steps⟩ := s.buildStops_frame g moving
  generalize moving.foldl (fun s k => s.buildStop g k) s = u at cl frame steps ⊢
  refine ⟨(u.enterGroup_deck g .stopped 255).1.trans cl, u.enterGroup_state g .stopped 255, fun k commanded => ?_⟩
  have state : (u.group g).state = (s.group g).state := (congrArg Group.state frame).trans rfl
  have held : ((u.group g).steps.at k).state = .commanded := (congrArg Step.state (steps k)).trans commanded
  rw [u.enterGroup_record, Group.enter_released _ _ (by rw [state]; exact sequence), if_pos held]
  exact ⟨rfl, rfl, (congrArg (fun x : Step => x.issue + 1) (steps k)).trans rfl⟩

/-! ### The cancel request -/

theorem State.cancelGroup_only (s : State) (g : Fin 4) : GroupOnly g s (s.cancelGroup g) := by
  unfold State.cancelGroup
  cases (s.group g).state with
  | warning => exact ((GroupOnly.refl g s).removeEntry _).enterGroup _ _
  | waitPermit => exact (GroupOnly.refl g s).enterGroup _ _
  | closing => exact (GroupOnly.foldl _ (fun t k h => h.buildStop k) _ (GroupOnly.refl g s)).enterGroup _ _
  | idle | closed | incomplete | opening | stopped => exact GroupOnly.refl g s

/-- A cancel takes no call but the group's own out of the list. -/
theorem State.cancelGroup_kept (s : State) (g : Fin 4) (e : Fin 16) (absent : s.cl.calls.at e = none) :
    (s.cancelGroup g).cl.calls.at e = none := by
  unfold State.cancelGroup
  cases state : (s.group g).state with
  | warning =>
    dsimp only
    rw [(State.enterGroup_deck _ g .idle 255).1]
    by_cases own : e = groupCallEntry g
    · rw [own]
      exact s.removeEntry_absent _
    · exact ((Kept.refl e s).removeEntry _ own).1 absent
  | waitPermit =>
    dsimp only
    rw [(s.enterGroup_deck g .idle 255).1]
    exact absent
  | closing =>
    dsimp only
    rw [(s.haltGroup_record g (.inl state)).1]
    exact absent
  | idle | closed | incomplete | opening | stopped => exact absent

theorem State.cancelGroup_warning (s : State) (g : Fin 4) (state : (s.group g).state = .warning) :
    ((s.cancelGroup g).group g).state = .idle ∧ (s.cancelGroup g).cl.calls.at (groupCallEntry g) = none := by
  have taken : s.cancelGroup g = (s.removeEntry (groupCallEntry g)).enterGroup g .idle := by
    rw [State.cancelGroup, state]
  rw [taken, (State.enterGroup_deck _ g .idle 255).1]
  exact ⟨State.enterGroup_state _ g .idle 255, s.removeEntry_absent _⟩

theorem State.cancelGroup_waitPermit (s : State) (g : Fin 4) (state : (s.group g).state = .waitPermit) :
    ((s.cancelGroup g).group g).state = .idle := by
  have taken : s.cancelGroup g = s.enterGroup g .idle := by rw [State.cancelGroup, state]
  rw [taken]
  exact s.enterGroup_state g .idle 255

theorem State.cancelGroup_closing (s : State) (g : Fin 4) (state : (s.group g).state = .closing) :
    s.cancelGroup g = s.haltGroup g := by rw [State.cancelGroup, state]

theorem State.cancelGroup_still (s : State) (g : Fin 4)
    (state : (s.group g).state ∈ [GroupState.idle, .closed, .incomplete, .opening, .stopped]) : s.cancelGroup g = s := by
  unfold State.cancelGroup
  cases other : (s.group g).state with
  | idle | closed | incomplete | opening | stopped => rfl
  | warning | waitPermit | closing => simp [other] at state

/-! ### The close request of the deck condition -/

theorem State.normalClose_busy (s : State) (g : Fin 4)
    (state : (s.group g).state ∈ [GroupState.closed, .warning, .waitPermit, .closing]) : s.normalClose g none = s := by
  unfold State.normalClose
  dsimp only
  cases other : (s.group g).state with
  | closed | warning | waitPermit | closing => rfl
  | idle | stopped | incomplete | opening => simp [other] at state

theorem State.normalClose_judged (s : State) (g : Fin 4)
    (state : (s.group g).state ∈ [GroupState.idle, .stopped, .incomplete, .opening]) :
    s.normalClose g none = if (s.sec 4).status = .corrupt then s
      else if s.condition (s.group g).defn.closePermit then s.warnNormal g else s := by
  unfold State.normalClose
  dsimp only
  cases other : (s.group g).state with
  | idle | stopped | incomplete | opening => rfl
  | closed | warning | waitPermit | closing => simp [other] at state

theorem State.normalClose_none (s : State) (g : Fin 4) : s.normalClose g none =
    if (s.group g).state ∈ [GroupState.idle, .stopped, .incomplete, .opening] ∧ (s.sec 4).status ≠ .corrupt
        ∧ s.condition (s.group g).defn.closePermit = true then s.warnNormal g else s := by
  by_cases state : (s.group g).state ∈ [GroupState.idle, .stopped, .incomplete, .opening]
  · rw [s.normalClose_judged g state]
    by_cases corrupt : (s.sec 4).status = .corrupt
    · rw [if_pos corrupt, if_neg fun h => h.2.1 corrupt]
    · rw [if_neg corrupt]
      exact if_congr ⟨fun permit => ⟨state, corrupt, permit⟩, fun h => h.2.2⟩ rfl rfl
  · rw [if_neg fun h => state h.1]
    refine s.normalClose_busy g ?_
    cases other : (s.group g).state with
    | closed | warning | waitPermit | closing => simp
    | idle | stopped | incomplete | opening => exact absurd (by simp [other]) state

/-- Entry to WARNING by a normal close: every step WAITING with no attempt (R132). -/
theorem State.warnNormal_record (s : State) (g : Fin 4) : ((s.warnNormal g).group g).state = .warning
    ∧ ∀ k, ((s.warnNormal g).group g).steps.at k = ((s.group g).steps.at k).restarted := by
  have waiting (k : Fin 8) : ((s.resetSteps g).group g).steps.at k = ((s.group g).steps.at k).restarted := by
    rw [State.group_resetSteps]
    exact Tab.at_make _ k
  have record : (s.warnNormal g).group g = ((s.resetSteps g).group g).enter .warning := by
    rw [State.warnNormal, State.group_placeEntry, State.enterGroup_record]
  rw [record]
  refine ⟨rfl, fun k => ?_⟩
  rw [Group.enter_steps, waiting k]
  intro j
  rw [waiting j]
  show StepState.waiting ≠ .commanded
  decide

theorem State.normalClose_only (s : State) (g : Fin 4) : GroupOnly g s (s.normalClose g none) :=
  (GroupOnly.refl g s).normalClose none

/-! ### Several groups in turn -/

theorem foldl_group_other (f : State → Fin 4 → State) (only : ∀ t g, GroupOnly g t (f t g)) (l : List (Fin 4)) (s : State)
    (g : Fin 4) (apart : g ∉ l) : (l.foldl f s).group g = s.group g := by
  induction l generalizing s with
  | nil => rfl
  | cons x l ih =>
    rw [List.mem_cons, not_or] at apart
    exact (ih (f s x) apart.2).trans ((only s x).others g apart.1)

/-- A group of a list without repetition is met once, with the record it had at the start. -/
theorem foldl_group_own (f : State → Fin 4 → State) (only : ∀ t g, GroupOnly g t (f t g)) (l : List (Fin 4)) (once : l.Nodup)
    (s : State) (g : Fin 4) (mem : g ∈ l) : ∃ (t : State) (after : List (Fin 4)), t.group g = s.group g
      ∧ l.foldl f s = after.foldl f (f t g) ∧ (l.foldl f s).group g = (f t g).group g := by
  obtain ⟨before, after, rfl⟩ := List.append_of_mem mem
  have split := List.nodup_append'.mp once
  obtain ⟨_, tail, apart⟩ := split
  refine ⟨before.foldl f s, after, foldl_group_other f only before s g fun h => ?_, List.foldl_append, ?_⟩
  · exact apart h List.mem_cons_self
  · rw [List.foldl_append, List.foldl_cons]
    exact foldl_group_other f only after _ g (List.nodup_cons.mp tail).1

theorem State.seaGroups_once (s : State) : s.seaGroups.Nodup :=
  List.Nodup.filter _ (by decide)

theorem State.seaGroups_of_groups {s t : State} (same : t.groups = s.groups) : t.seaGroups = s.seaGroups :=
  List.filter_congr fun g _ => by rw [State.group_of_groups same]

end Sys2Proof.Machine
end

section
/-! SUPPORT. SET_CONDITION: the request judged, the closing up and the reopening (R45 to R50, R132, R142). -/

namespace Sys2Proof.Machine

open Sys2Proof

/-! ### The request -/

theorem DeckCondition.ofCode_code (d : DeckCondition) : DeckCondition.ofCode? d.code = some d := by
  cases d <;> rfl

theorem State.setCondition_same (s : State) (n : NodeNo) : s.setCondition ⟨n, [s.dcc.deck.code]⟩ = s.reply n 0 .done := by
  simp only [State.setCondition, DeckCondition.ofCode_code, if_true]

theorem State.setCondition_moved (s : State) (n : NodeNo) (d : DeckCondition) (f : State → State) (other : d ≠ s.dcc.deck)
    (target : s.setTarget d = .ok f) : s.setCondition ⟨n, [d.code]⟩ = f (s.reply n 0 .done) := by
  simp only [State.setCondition, DeckCondition.ofCode_code, if_neg other, target]

theorem State.setCondition_refused (s : State) (n : NodeNo) (d : DeckCondition) (r : Reason) (other : d ≠ s.dcc.deck)
    (target : s.setTarget d = .error r) : s.setCondition ⟨n, [d.code]⟩ = s.refuse n 0 r := by
  simp only [State.setCondition, DeckCondition.ofCode_code, if_neg other, target]

/-- The codes of STARTING and the motion states (R46, R80). -/
theorem RampState.code_moves_iff (st : RampState) :
    [2, 3, 4, 6, 7, 9, 11].contains st.code.toNat = true ↔ st = .starting ∨ st.isMotion = true := by
  cases st <;> decide

theorem State.anyRampMoves_iff {s : State} (published : PublishedOk s) : (s.rampMoves .a || s.rampMoves .b) = true ↔
    ∃ ch, (s.ramp ch).state = .starting ∨ (s.ramp ch).state.isMotion = true := by
  obtain ⟨-, entries, -⟩ := published
  have moves (ch : Channel) : s.rampMoves ch = true ↔ (s.ramp ch).state = .starting ∨ (s.ramp ch).state.isMotion = true := by
    rw [State.rampMoves, State.rampEntry, entries ch, RampState.code_moves_iff]
  rw [Bool.or_eq_true, moves .a, moves .b]
  constructor
  · rintro (a | b)
    · exact ⟨.a, a⟩
    · exact ⟨.b, b⟩
  · rintro ⟨ch, moving⟩
    cases ch with
    | a => exact .inl moving
    | b => exact .inr moving

/-! ### Closing up -/

theorem State.trySea_frame (s : State) (closing : s.dcc.deck = .closingUp) :
    (s.trySea.dcc.deck = .closingUp ∨ s.trySea.dcc.deck = .sea) ∧ s.trySea.groups = s.groups ∧ s.trySea.ramps = s.ramps := by
  unfold State.trySea
  split
  · exact ⟨.inr (State.changeDeck_deck _ _ _), State.changeDeck_groups _ _ _, (s.changeDeck_only .sea .automaticSea).ramps⟩
  · exact ⟨.inl closing, rfl, rfl⟩

/-- The SEA groups asked to close, one after another (R47). -/
def State.closeSea (s : State) : State :=
  s.seaGroups.foldl (fun t g => t.normalClose g none) (s.changeDeck .closingUp .setCondition)

theorem State.closeUp_eq (s : State) : s.closeUp = s.closeSea.trySea := by
  unfold State.closeUp State.closeSea
  dsimp only
  rw [State.seaGroups_of_groups (s.changeDeck_groups .closingUp .setCondition)]

theorem State.closeSea_frame (s : State) : s.closeSea.dcc.deck = .closingUp ∧ s.closeSea.ramps = s.ramps := by
  have dcc : s.closeSea.dcc = (s.changeDeck .closingUp .setCondition).dcc :=
    foldl_keeps State.dcc _ (fun t g => (t.normalClose_only g).dcc) s.seaGroups _
  have ramps : s.closeSea.ramps = (s.changeDeck .closingUp .setCondition).ramps :=
    foldl_keeps State.ramps _ (fun t g => (t.normalClose_only g).ramps) s.seaGroups _
  exact ⟨(congrArg Dcc.deck dcc).trans (s.changeDeck_deck _ _), ramps.trans (s.changeDeck_only .closingUp .setCondition).ramps⟩

theorem State.closeUp_frame (s : State) : (s.closeUp.dcc.deck = .closingUp ∨ s.closeUp.dcc.deck = .sea)
    ∧ s.closeUp.ramps = s.ramps ∧ ∀ g, s.closeUp.group g = s.closeSea.group g := by
  obtain ⟨deck, ramps⟩ := s.closeSea_frame
  obtain ⟨after, groups, same⟩ := s.closeSea.trySea_frame deck
  rw [s.closeUp_eq]
  exact ⟨after, same.trans ramps, State.group_of_groups groups⟩

theorem State.changeDeck_group (s : State) (d : DeckCondition) (c : DeckCause) (g : Fin 4) :
    (s.changeDeck d c).group g = s.group g := State.group_of_groups (s.changeDeck_groups d c) g

theorem State.closeSea_other (s : State) (g : Fin 4) (land : (s.group g).defn.sea = false) :
    s.closeSea.group g = s.group g :=
  (foldl_group_other _ State.normalClose_only s.seaGroups _ g fun mem =>
    ne_true_of_eq_false land ((s.mem_seaGroups g).mp mem)).trans (s.changeDeck_group _ _ g)

/-- A SEA group after the closing up: what a normal close makes of its record (R47, R132). -/
theorem State.closeSea_own (s : State) (g : Fin 4) (sea : (s.group g).defn.sea = true) : ∃ t : State,
    t.group g = s.group g ∧ s.closeSea.group g = (t.normalClose g none).group g := by
  obtain ⟨t, after, same, -, own⟩ := foldl_group_own _ State.normalClose_only s.seaGroups s.seaGroups_once
    (s.changeDeck .closingUp .setCondition) g ((s.mem_seaGroups g).mpr sea)
  exact ⟨t, same.trans (s.changeDeck_group _ _ g), own⟩

theorem State.closeSea_busy (s : State) (g : Fin 4) (sea : (s.group g).defn.sea = true)
    (state : (s.group g).state ∈ [GroupState.closed, .warning, .waitPermit, .closing]) :
    s.closeSea.group g = s.group g := by
  obtain ⟨t, same, own⟩ := s.closeSea_own g sea
  rw [own, t.normalClose_busy g (by rw [same]; exact state), same]

theorem State.closeSea_asked (s : State) (g : Fin 4) (sea : (s.group g).defn.sea = true) :
    s.closeSea.group g = s.group g ∨ (s.closeSea.group g).state = .warning
      ∧ ∀ k, ((s.closeSea.group g).steps.at k).state = .waiting ∧ ((s.closeSea.group g).steps.at k).attempts = 0 := by
  obtain ⟨t, same, own⟩ := s.closeSea_own g sea
  rw [own, t.normalClose_none g]
  split
  · obtain ⟨warning, steps⟩ := t.warnNormal_record g
    refine .inr ⟨warning, fun k => ?_⟩
    rw [steps k]
    exact ⟨rfl, rfl⟩
  · exact .inl same

/-! ### Reopening -/

theorem State.reopen_eq (s : State) : s.reopen = s.seaGroups.foldl State.cancelGroup (s.changeDeck .loading .setCondition) := by
  unfold State.reopen
  dsimp only
  rw [State.seaGroups_of_groups (s.changeDeck_groups .loading .setCondition)]

theorem State.reopen_frame (s : State) : s.reopen.dcc.deck = .loading ∧ s.reopen.ramps = s.ramps := by
  rw [s.reopen_eq]
  have dcc := foldl_keeps State.dcc State.cancelGroup (fun t g => (t.cancelGroup_only g).dcc) s.seaGroups
    (s.changeDeck .loading .setCondition)
  have ramps := foldl_keeps State.ramps State.cancelGroup (fun t g => (t.cancelGroup_only g).ramps) s.seaGroups
    (s.changeDeck .loading .setCondition)
  exact ⟨(congrArg Dcc.deck dcc).trans (s.changeDeck_deck _ _), ramps.trans (s.changeDeck_only .loading .setCondition).ramps⟩

theorem State.reopen_other (s : State) (g : Fin 4) (land : (s.group g).defn.sea = false) : s.reopen.group g = s.group g := by
  rw [s.reopen_eq]
  exact (foldl_group_other _ State.cancelGroup_only s.seaGroups _ g fun mem =>
    ne_true_of_eq_false land ((s.mem_seaGroups g).mp mem)).trans (s.changeDeck_group _ _ g)

theorem foldl_cancelGroup_kept (l : List (Fin 4)) (s : State) (e : Fin 16) (absent : s.cl.calls.at e = none) :
    (l.foldl State.cancelGroup s).cl.calls.at e = none := by
  induction l generalizing s with
  | nil => exact absent
  | cons g l ih => exact ih _ (s.cancelGroup_kept g e absent)

/-- A SEA group after the reopening: what a cancel makes of its record (R50, R142). -/
theorem State.reopen_own (s : State) (g : Fin 4) (sea : (s.group g).defn.sea = true) : ∃ t : State,
    t.group g = s.group g ∧ s.reopen.group g = (t.cancelGroup g).group g
      ∧ ∀ e, (t.cancelGroup g).cl.calls.at e = none → s.reopen.cl.calls.at e = none := by
  obtain ⟨t, after, same, rest, own⟩ := foldl_group_own _ State.cancelGroup_only s.seaGroups s.seaGroups_once
    (s.changeDeck .loading .setCondition) g ((s.mem_seaGroups g).mpr sea)
  rw [s.reopen_eq]
  refine ⟨t, same.trans (s.changeDeck_group _ _ g), own, fun e absent => ?_⟩
  rw [rest]
  exact foldl_cancelGroup_kept after _ e absent

/-- What the reopening makes of a SEA group, by its state (R142). -/
theorem State.reopen_sea (s : State) (g : Fin 4) (sea : (s.group g).defn.sea = true) :
    ((s.group g).state ∈ [GroupState.warning, .waitPermit] → (s.reopen.group g).state = .idle)
      ∧ ((s.group g).state = .warning → s.reopen.cl.calls.at (groupCallEntry g) = none)
      ∧ ((s.group g).state = .closing → (s.reopen.group g).state = .stopped
          ∧ ∀ k : Fin 8, ((s.group g).steps.at k).state = .commanded →
            ((s.reopen.group g).steps.at k).travel = none ∧ ((s.reopen.group g).steps.at k).retry = none
              ∧ ((s.reopen.group g).steps.at k).issue = ((s.group g).steps.at k).issue + 1)
      ∧ ((s.group g).state ∈ [GroupState.idle, .closed, .incomplete, .opening, .stopped] →
          s.reopen.group g = s.group g) := by
  obtain ⟨t, same, own, calls⟩ := s.reopen_own g sea
  refine ⟨fun state => ?_, fun state => ?_, fun state => ?_, fun state => ?_⟩
  · rw [own]
    rw [← same] at state
    simp only [List.mem_cons, List.not_mem_nil, or_false] at state
    exact state.elim (fun warning => (t.cancelGroup_warning g warning).1) (t.cancelGroup_waitPermit g)
  · exact calls _ (t.cancelGroup_warning g (by rw [same]; exact state)).2
  · have closing : (t.group g).state = .closing := by rw [same]; exact state
    obtain ⟨-, stopped, steps⟩ := t.haltGroup_record g (.inl closing)
    rw [own, t.cancelGroup_closing g closing]
    rw [same] at steps
    exact ⟨stopped, steps⟩
  · rw [own, t.cancelGroup_still g (by rw [same]; exact state), same]

/-! ### The transitions -/

/-- The answer to a SET_CONDITION, from the transition it names (R45). -/
theorem State.exec_setCondition (s : State) (n : NodeNo) (d : DeckCondition) (settled : Settled s) (room : HasRoom s)
    (other : d ≠ s.dcc.deck) :
    let q : Request := { source := n, payload := [d.code] }
    (∀ f, s.setTarget d = .ok f → exec (.setCondition q) s = .next (f (s.replied q 0 .done)).settled)
      ∧ ∀ r, s.setTarget d = .error r → exec (.setCondition q) s = .next (s.refusedWith q 0 r) := by
  intro q
  refine ⟨fun f target => ?_, fun r target => ?_⟩
  · obtain ⟨node, -, -, -, restarting⟩ := settled
    have own := s.setCondition_moved n d f other target
    rw [s.reply_replied q 0 .done [] room] at own
    exact s.actRequest_own _ (·.setCondition q) node restarting own
  · exact s.actRequest_refused (·.setCondition q) q 0 r settled room (s.setCondition_refused n d r other target)

/-- A move that R45 does not give (R45). -/
theorem State.setTarget_none (s : State) (d : DeckCondition)
    (apart : s.dcc.deck = .emergency ∧ d ≠ .emergency ∨ s.dcc.deck ≠ .emergency ∧ s.dcc.deck ≠ .sea ∧ d = .sea
      ∨ s.dcc.deck = .closingUp ∧ d = .harbour ∨ s.dcc.deck = .sea ∧ (d = .loading ∨ d = .closingUp)) :
    d ≠ s.dcc.deck ∧ s.setTarget d = .error .transition := by
  unfold State.setTarget
  rcases apart with ⟨now, other⟩ | ⟨alert, ashore, rfl⟩ | ⟨now, rfl⟩ | ⟨now, rfl | rfl⟩
  · rw [now]
    cases d with
    | harbour | loading | closingUp | sea => exact ⟨by decide, rfl⟩
    | emergency => exact absurd rfl other
  · cases now : s.dcc.deck with
    | harbour | loading | closingUp => exact ⟨by decide, rfl⟩
    | sea => exact absurd now ashore
    | emergency => exact absurd now alert
  · rw [now]
    exact ⟨by decide, rfl⟩
  · rw [now]
    exact ⟨by decide, rfl⟩
  · rw [now]
    exact ⟨by decide, rfl⟩

/-- The permit and the ramp states that a move asks for (R46, R47). -/
theorem State.setTarget_loading (s : State) (now : s.dcc.deck = .harbour) : s.setTarget .loading =
    if s.condition s.settings.loadingPermit then .ok fun s => s.changeDeck .loading .setCondition
    else .error (.conditionFalse s.settings.loadingPermit) := by
  unfold State.setTarget
  rw [now]

theorem State.setTarget_harbour (s : State) (now : s.dcc.deck = .loading) : s.setTarget .harbour =
    if s.rampMoves .a || s.rampMoves .b then .error .state else .ok fun s => s.changeDeck .harbour .setCondition := by
  unfold State.setTarget
  rw [now]

theorem State.setTarget_closingUp (s : State) (now : s.dcc.deck = .harbour ∨ s.dcc.deck = .loading) :
    s.setTarget .closingUp = if s.rampsStowed then .ok State.closeUp else .error .state := by
  unfold State.setTarget
  rcases now with now | now
  · rw [now]
  · rw [now]

theorem State.setTarget_reopen (s : State) (now : s.dcc.deck = .closingUp) : s.setTarget .loading = .ok State.reopen := by
  unfold State.setTarget
  rw [now]

theorem State.setTarget_ashore (s : State) (now : s.dcc.deck = .sea) :
    s.setTarget .harbour = .ok fun s => s.changeDeck .harbour .setCondition := by
  unfold State.setTarget
  rw [now]

theorem State.setTarget_emergency (s : State) (calm : s.dcc.deck ≠ .emergency) :
    s.setTarget .emergency = .ok fun s => s.enterEmergency .setCondition := by
  unfold State.setTarget
  cases now : s.dcc.deck with
  | harbour | loading | closingUp | sea => rfl
  | emergency => exact absurd now calm

theorem ne_deck {s : State} {d now : DeckCondition} (deck : s.dcc.deck = now) (other : d ≠ now) : d ≠ s.dcc.deck :=
  deck ▸ other

/-- Settles O27: each move of the table, then the closing up and the reopening group by group. -/
theorem setConditionJudged : Obligations.SetConditionJudged := by
  refine ⟨fun s n d settled room published => ?_, fun s => ?_⟩
  · intro q u now out refused becomes stowed moving
    have judged (other : d ≠ s.dcc.deck) := s.exec_setCondition n d settled room other
    have stows : s.rampsStowed = true ↔ stowed := State.rampsStowed_iff published
    have moves : (s.rampMoves .a || s.rampMoves .b) = true ↔ moving := State.anyRampMoves_iff published
    refine ⟨fun same => ?_, fun harbour loading => ?_, fun loading harbour => ?_, fun open_ closing => ?_,
      fun closing loading => ?_, fun sea harbour => ?_, fun calm emergency => ?_, fun apart => ?_⟩
    · have own : s.setCondition q = s.reply n 0 .done := by
        unfold q
        rw [show d = s.dcc.deck from same]
        exact s.setCondition_same n
      exact s.actRequest_replied (·.setCondition q) q 0 .done [] settled room own
    · subst loading
      obtain ⟨goes, stays⟩ := judged (ne_deck harbour (by decide))
      have target := s.setTarget_loading harbour
      exact ⟨fun permit => goes _ (target.trans (if_pos permit)),
        fun permit => stays _ (target.trans (if_neg (ne_true_of_eq_false permit)))⟩
    · subst harbour
      obtain ⟨goes, stays⟩ := judged (ne_deck loading (by decide))
      have target := s.setTarget_harbour loading
      exact ⟨fun still => goes _ (target.trans (if_neg fun runs => still (moves.mp runs))),
        fun runs => stays _ (target.trans (if_pos (moves.mpr runs)))⟩
    · subst closing
      have other : DeckCondition.closingUp ≠ s.dcc.deck := open_.elim (ne_deck · (by decide)) (ne_deck · (by decide))
      obtain ⟨goes, stays⟩ := judged other
      have target := s.setTarget_closingUp open_
      exact ⟨fun isStowed => goes _ (target.trans (if_pos (stows.mpr isStowed))),
        fun away => stays _ (target.trans (if_neg fun isStowed => away (stows.mp isStowed)))⟩
    · subst loading
      exact (judged (ne_deck closing (by decide))).1 _ (s.setTarget_reopen closing)
    · subst harbour
      exact (judged (ne_deck sea (by decide))).1 _ (s.setTarget_ashore sea)
    · subst emergency
      have moved := (judged (Ne.symm calm)).1 _ (s.setTarget_emergency calm)
      beta_reduce at moved
      exact moved
    · obtain ⟨other, target⟩ := s.setTarget_none d apart
      exact (judged other).2 _ target
  · intro groups sea close up back
    obtain ⟨deck, ramps, same⟩ := s.closeUp_frame
    obtain ⟨loading, kept⟩ := s.reopen_frame
    have asked : (fun (t : State) (g : Fin 4) => t.normalClose g none) = close := by
      funext t g
      exact t.normalClose_none g
    refine ⟨s.closeUp_eq.trans ?_, deck, fun g land => ⟨(same g).trans (s.closeSea_other g land), s.reopen_other g land⟩,
      fun g isSea => ?_, loading, fun ch => ⟨congrArg (fun x : Pair Ramp => x.get ch) kept,
        congrArg (fun x : Pair Ramp => x.get ch) ramps⟩⟩
    · rw [State.closeSea, asked]
      rfl
    · have upSame : up.group g = s.closeSea.group g := same g
      rw [upSame]
      obtain ⟨idle, calls, closing, still⟩ := s.reopen_sea g isSea
      exact ⟨s.closeSea_busy g isSea, fun _ => s.closeSea_asked g isSea, idle, calls, closing, still⟩

end Sys2Proof.Machine
end

section
/-! SUPPORT. What a change of the call list touches: the list, the deck transmit queue, local entries, events; and then
what the beacons show (R152, R162). -/

namespace Sys2Proof.Machine

open Sys2Proof

/-- The call list, the deck line, local entries and events replaced, nothing else. -/
def State.withCalls (s : State) (cl : CallList) (dls : Dls) (locals : Tab Byte 32) (agenda : List Task) : State :=
  { s with cl := cl, dls := dls, img := { s.img with locals := locals }, agenda := agenda }

/-- Nothing changes but the call list, the deck line, local entries and events. -/
def CallsFrame (s t : State) : Prop := ∃ cl dls locals agenda, t = s.withCalls cl dls locals agenda

theorem CallsFrame.refl (s : State) : CallsFrame s s := ⟨s.cl, s.dls, s.img.locals, s.agenda, rfl⟩

theorem CallsFrame.trans {s t u : State} (h : CallsFrame s t) (k : CallsFrame t u) : CallsFrame s u := by
  obtain ⟨cl, dls, locals, agenda, rfl⟩ := h
  obtain ⟨cl', dls', locals', agenda', rfl⟩ := k
  exact ⟨cl', dls', locals', agenda', rfl⟩

theorem CallsFrame.foldl {α : Type} (f : State → α → State) (step : ∀ t x, CallsFrame t (f t x)) (l : List α) (s : State) :
    CallsFrame s (l.foldl f s) := by
  induction l generalizing s with
  | nil => exact .refl s
  | cons x l ih => exact (step s x).trans (ih _)

theorem CallsFrame.withCl (s : State) (x : CallList) : CallsFrame s { s with cl := x } :=
  ⟨x, s.dls, s.img.locals, s.agenda, rfl⟩

theorem CallsFrame.setZone (s : State) (z : Fin 12) (x : Zone) : CallsFrame s (s.setZone z x) := .withCl s _

theorem CallsFrame.setCall (s : State) (e : Fin 16) (x : Option Call) : CallsFrame s (s.setCall e x) := .withCl s _

theorem CallsFrame.push (s : State) (x : Task) : CallsFrame s (s.push x) :=
  ⟨s.cl, s.dls, s.img.locals, s.agenda ++ [x], rfl⟩

theorem CallsFrame.setMark (s : State) (e : Fin 16) (z : Fin 12) (m : Mark) : CallsFrame s (s.setMark e z m) := by
  unfold State.setMark
  split
  · exact .refl s
  · exact .setCall s _ _

theorem CallsFrame.writeLocal (s : State) (i : Fin 32) (v : Byte) : CallsFrame s (s.writeLocal i v) := by
  obtain ⟨agenda, written⟩ := s.writeLocal_eq i v
  exact ⟨s.cl, s.dls, s.img.locals.put i v, agenda, written⟩

theorem CallsFrame.offer (s : State) (r : DeckRec) : CallsFrame s (s.offer r).1 := by
  obtain ⟨dls, offered⟩ := s.offer_frame r
  exact ⟨s.cl, dls, s.img.locals, s.agenda, offered⟩

theorem CallsFrame.cutTo (s : State) (z : Fin 12) (node : NodeNo) (object : Byte) (urgent : Bool) :
    CallsFrame s (s.cutTo z node object urgent) := by
  unfold State.cutTo
  extract_lets zn r
  have offered := CallsFrame.offer s r
  split
  · next t placed =>
    rw [placed] at offered
    exact offered
  · next t full =>
    rw [full] at offered
    split
    · exact offered
    · exact offered.trans (.setZone _ _ _)

theorem CallsFrame.buildCut (s : State) (z : Fin 12) (urgent : Bool) : CallsFrame s (s.buildCut z urgent) := by
  unfold State.buildCut
  split
  · exact .refl s
  · exact .cutTo _ _ _ _ _

theorem CallsFrame.buildPlay (s : State) (z : Fin 12) (node : NodeNo) (object : Byte) (c : Call) :
    CallsFrame s (s.buildPlay z node object c) := by
  unfold State.buildPlay
  extract_lets zn r
  have offered := CallsFrame.offer s r
  split
  · next t placed =>
    rw [placed] at offered
    exact offered.trans (.setZone _ _ _)
  · next t full =>
    rw [full] at offered
    exact offered.trans (.setZone _ _ _)

theorem CallsFrame.playOwner (s : State) (z : Fin 12) : CallsFrame s (s.playOwner z) := by
  unfold State.playOwner
  extract_lets advanced
  have first : CallsFrame s advanced := .setZone s _ _
  split
  · exact first
  · split
    · refine CallsFrame.trans (first.trans ?_) (.buildPlay _ _ _ _ _)
      split
      · exact .setMark _ _ _ _
      · exact .refl _
    · exact first.trans (.setMark _ _ _ _)

theorem CallsFrame.recomputeZone (s : State) (before : CallList) (gone : List (Fin 16)) (z : Fin 12) :
    CallsFrame s (State.recomputeZone before gone s z) := by
  unfold State.recomputeZone
  extract_lets old new removed lost marked source owned cut
  clear_value new removed lost
  have first : CallsFrame s marked := by
    cases holder : old with
    | none =>
      have same : marked = s := by simp only [marked, holder]
      exact same ▸ .refl s
    | some e =>
      have same : marked = if lost.isSome = true ∧ removed = false then s.setMark e z (.pending false) else s := by
        simp only [marked, holder]
      rw [same]
      split
      · exact .setMark _ _ _ _
      · exact .refl s
  have second : CallsFrame s owned := first.trans (.setZone _ _ _)
  have third : CallsFrame s cut := by
    cases loser : lost with
    | none =>
      have same : cut = owned := by simp only [cut, loser]
      exact same ▸ second
    | some c =>
      have same : ∃ urgent, cut = owned.buildCut z urgent := ⟨_, by simp only [cut, loser]; rfl⟩
      obtain ⟨urgent, same⟩ := same
      exact same ▸ second.trans (.buildCut _ _ _)
  split
  · exact .refl s
  · exact third.trans (.playOwner _ z)

theorem CallsFrame.testReady (s : State) : CallsFrame s s.testReady := by
  refine CallsFrame.foldl _ (fun t e => ?_) allEntries s
  split
  · exact .refl t
  · split
    · unfold State.makeReady
      dsimp only
      split
      · exact (CallsFrame.setCall _ _ _).trans (.push _ _)
      · exact .setCall _ _ _
    · exact .refl t

theorem CallsFrame.recompute (s : State) (before : CallList) (gone : List (Fin 16)) :
    CallsFrame s (s.recompute before gone) :=
  ((CallsFrame.foldl _ (fun t z => .recomputeZone t before gone z) allZones s).trans
    (CallsFrame.foldl _ (fun t _ => .writeLocal t _ _) allZones _)).trans (.testReady _)

theorem CallsFrame.handleDone (n : Nat) (s : State) : CallsFrame s (State.handleDone n s) := by
  induction n generalizing s with
  | zero => exact .refl s
  | succ n ih =>
    unfold State.handleDone
    split
    · exact ((CallsFrame.withCl s _).trans (.recompute _ _ _)).trans (ih _)
    · exact .refl s

/-- A reallocation changes the calls first, then forms the beacons once (R162, log 44). -/
theorem State.reallocate_eq (s : State) (before : CallList) (gone : List (Fin 16)) :
    ∃ u, CallsFrame s u ∧ s.reallocate before gone = u.formBeacons := by
  unfold State.reallocate
  generalize 193 = rounds
  exact ⟨_, (CallsFrame.recompute s before gone).trans (.handleDone rounds _), rfl⟩

theorem State.placeEntry_eq (s : State) (e : Fin 16) (c : Call) :
    ∃ u, CallsFrame s u ∧ s.placeEntry e c = u.formBeacons := by
  unfold State.placeEntry
  dsimp only
  obtain ⟨u, frame, formed⟩ := State.reallocate_eq _ s.cl (if (s.cl.calls.at e).isSome then [e] else [])
  exact ⟨u, (CallsFrame.withCl s _).trans frame, formed⟩

theorem State.removeEntry_eq (s : State) (e : Fin 16) :
    ∃ u, CallsFrame s u ∧ (s.removeEntry e = s ∨ CallsFrame u.formBeacons (s.removeEntry e)) := by
  unfold State.removeEntry
  split
  · unfold State.removeEntries
    extract_lets gone before after
    obtain ⟨u, frame, formed⟩ := State.reallocate_eq { s with cl := s.cl.remove gone } before gone
    have taken : after = u.formBeacons := formed
    refine ⟨u, (CallsFrame.withCl s _).trans frame, .inr ?_⟩
    rw [taken]
    split
    · exact .push _ _
    · exact .refl _
  · exact ⟨s, .refl s, .inl rfl⟩

end Sys2Proof.Machine
end

section
/-! SUPPORT. The entry to EMERGENCY: beacons, calls, groups, channels, commit and proof test (R43, R53, R100, R135, R164,
R178, R195). -/

namespace Sys2Proof.Machine

open Sys2Proof

/-! ### The beacons at 31 -/

/-- A beacon on a lit step shows 31 (R164). -/
def Lit31 (s : State) (b : Fin 8) : Prop :=
  s.stepLit b (s.bd.shown.at b).pattern (s.bd.shown.at b).step = true → (s.bd.shown.at b).level = 31

/-- In EMERGENCY, each beacon on a lit step shows 31 (R164). -/
def Raised (s : State) : Prop := s.dcc.deck = .emergency ∧ ∀ b, Lit31 s b

theorem Lit31.setShown_self {s : State} {b : Fin 8} {x : Shown} (lit : s.stepLit b x.pattern x.step = true → x.level = 31) :
    Lit31 (s.setShown b x) b := by
  have shown : (s.setShown b x).bd.shown.at b = x := Tab.at_put_self _ _ _
  unfold Lit31
  rw [shown]
  exact lit

theorem Lit31.setShown_other {s : State} {b c : Fin 8} (x : Shown) (other : b ≠ c) (h : Lit31 s c) :
    Lit31 (s.setShown b x) c := by
  have shown : (s.setShown b x).bd.shown.at c = s.bd.shown.at c := Tab.at_put_ne _ _ other
  unfold Lit31
  rw [shown]
  exact h

theorem Raised.same {s t : State} (h : Raised s) (dcc : t.dcc = s.dcc) (bd : t.bd = s.bd) : Raised t := by
  unfold Raised Lit31 State.stepLit at *
  rw [dcc, bd]
  exact h

theorem Raised.calls {s t : State} (h : Raised s) (frame : CallsFrame s t) : Raised t := by
  obtain ⟨cl, dls, locals, agenda, rfl⟩ := frame
  exact h.same rfl rfl

theorem Raised.setShown {s : State} (h : Raised s) (b : Fin 8) (x : Shown)
    (lit : s.stepLit b x.pattern x.step = true → x.level = 31) : Raised (s.setShown b x) := by
  obtain ⟨deck, all⟩ := h
  refine ⟨deck, fun c => ?_⟩
  by_cases same : b = c
  · exact same ▸ Lit31.setShown_self lit
  · exact (all c).setShown_other x same

theorem Raised.formBeacons {s : State} (h : Raised s) : Raised s.formBeacons := by
  unfold State.formBeacons
  generalize allBeacons = l
  induction l generalizing s with
  | nil => exact h
  | cons b l ih =>
    refine ih ?_
    unfold State.formBeacon
    dsimp only
    split
    · exact h
    · refine h.setShown b _ fun lit => ?_
      exact (if_pos lit).trans (if_pos h.1)

theorem Raised.placeEntry {s : State} (h : Raised s) (e : Fin 16) (c : Call) : Raised (s.placeEntry e c) := by
  obtain ⟨u, frame, formed⟩ := s.placeEntry_eq e c
  rw [formed]
  exact (h.calls frame).formBeacons

theorem Raised.removeEntry {s : State} (h : Raised s) (e : Fin 16) : Raised (s.removeEntry e) := by
  obtain ⟨u, frame, still | formed⟩ := s.removeEntry_eq e
  · rw [still]
    exact h
  · exact (h.calls frame).formBeacons.calls formed

/-- A lit step in progress raised to 31 (R164). -/
def State.raiseBeacon (s : State) (b : Fin 8) : State :=
  if s.stepLit b (s.bd.shown.at b).pattern (s.bd.shown.at b).step
  then s.setShown b { s.bd.shown.at b with level := 31 } else s

theorem State.raiseBeacon_lit (s : State) (b c : Fin 8) (or : b = c ∨ Lit31 s c) : Lit31 (s.raiseBeacon b) c := by
  unfold State.raiseBeacon
  by_cases lit : s.stepLit b (s.bd.shown.at b).pattern (s.bd.shown.at b).step = true
  · rw [if_pos lit]
    by_cases same : b = c
    · exact same ▸ Lit31.setShown_self fun _ => rfl
    · exact (or.resolve_left same).setShown_other _ same
  · rw [if_neg lit]
    exact or.elim (fun same on => absurd on (same ▸ lit)) id

theorem foldl_raiseBeacon_lit (l : List (Fin 8)) (s : State) (c : Fin 8) (or : c ∈ l ∨ Lit31 s c) :
    Lit31 (l.foldl State.raiseBeacon s) c := by
  induction l generalizing s with
  | nil => exact or.resolve_left List.not_mem_nil
  | cons b l ih =>
    refine ih _ ?_
    rcases or with mem | lit
    · rcases List.mem_cons.mp mem with same | later
      · exact .inr (s.raiseBeacon_lit b c (.inl same.symm))
      · exact .inl later
    · exact .inr (s.raiseBeacon_lit b c (.inr lit))

/-- The entry to EMERGENCY raises every lit step (R164). -/
theorem State.raiseBeacons_raised (s : State) (deck : s.dcc.deck = .emergency) : Raised s.raiseBeacons := by
  have dcc : s.raiseBeacons.dcc = s.dcc := (CallsOnly.refl s).raiseBeacons.dcc
  refine ⟨(congrArg Dcc.deck dcc).trans deck, fun b => foldl_raiseBeacon_lit allBeacons s b (.inl ?_)⟩
  revert b
  decide

/-! ### What leaves calls, beacons and deck condition alone -/

/-- The call list, the beacons and the deck condition stay. -/
structure Stays (s t : State) : Prop where
  cl : t.cl = s.cl
  bd : t.bd = s.bd
  dcc : t.dcc = s.dcc

theorem Stays.refl (s : State) : Stays s s := ⟨rfl, rfl, rfl⟩

theorem Stays.trans {s t u : State} (h : Stays s t) (k : Stays t u) : Stays s u :=
  ⟨k.cl.trans h.cl, k.bd.trans h.bd, k.dcc.trans h.dcc⟩

theorem Calm.stays {s t : State} (h : Calm s t) : Stays s t := ⟨h.cl, h.bd, h.dcc⟩

theorem Stays.raised {s t : State} (h : Stays s t) (raised : Raised s) : Raised t := raised.same h.dcc h.bd

theorem Stays.kept {s t : State} (h : Stays s t) (i : Fin 16) : Kept i s t :=
  (Kept.refl i s).same (congrArg CallList.calls h.cl)

theorem Stays.enterGroup (s : State) (g : Fin 4) (st : GroupState) (breach : Byte) : Stays s (s.enterGroup g st breach) := by
  unfold State.enterGroup
  extract_lets old entered written r
  have first : Stays s entered := ⟨rfl, rfl, rfl⟩
  exact (first.trans (State.writeLocal_calm _ _ _).stays).trans (State.notice_calm _ _ _ _).stays

/-! ### A group under the mark -/

/-- A group record that differs in its steps alone. -/
def Group.SameButSteps (r t : Group) : Prop := t = { r with steps := t.steps }

theorem Group.SameButSteps.refl (r : Group) : r.SameButSteps r := rfl

theorem Group.SameButSteps.trans {r t u : Group} (h : r.SameButSteps t) (k : t.SameButSteps u) : r.SameButSteps u := by
  unfold Group.SameButSteps at *
  rw [k, h]

theorem State.setStep_sameButSteps (s : State) (g : Fin 4) (k : Fin 8) (x : Step) :
    (s.group g).SameButSteps ((s.setStep g k x).group g) := by
  rw [State.group_setStep_self]
  rfl

theorem State.buildDoor_frame (s : State) (g : Fin 4) (k : Fin 8) (cmd : DoorCmd) :
    Stays s (s.buildDoor g k cmd) ∧ (s.group g).SameButSteps ((s.buildDoor g k cmd).group g) := by
  unfold State.buildDoor
  split
  · exact ⟨.refl s, .refl _⟩
  · extract_lets t issued advanced r
    obtain ⟨dls, offered⟩ := advanced.offer_frame r
    have first : (s.group g).SameButSteps (advanced.group g) := s.setStep_sameButSteps g k issued
    split
    · next u placed =>
      rw [placed] at offered
      dsimp only at offered
      rw [offered]
      exact ⟨⟨rfl, rfl, rfl⟩, first⟩
    · next u full =>
      rw [full] at offered
      dsimp only at offered
      rw [offered]
      exact ⟨⟨rfl, rfl, rfl⟩, first.trans (State.setStep_sameButSteps _ g k _)⟩

theorem State.commandNext_frame (s : State) (g : Fin 4) :
    Stays s (s.commandNext g) ∧ (s.group g).SameButSteps ((s.commandNext g).group g) := by
  unfold State.commandNext
  split
  · next cmd k _ _ =>
    obtain ⟨stays, steps⟩ := (s.setStep g k { (s.group g).steps.at k with state := .commanded }).buildDoor_frame g k cmd
    exact ⟨⟨stays.cl, stays.bd, stays.dcc⟩, (s.setStep_sameButSteps g k _).trans steps⟩
  · exact ⟨.refl s, .refl _⟩

theorem State.enterClosing_frame (s : State) (g : Fin 4) : Stays s (s.enterClosing g)
    ∧ ((s.enterClosing g).group g).state = .closing ∧ ((s.enterClosing g).group g).mark = (s.group g).mark := by
  obtain ⟨stays, steps⟩ := (s.enterGroup g .closing).commandNext_frame g
  have mark : ((s.enterGroup g .closing).group g).mark = (s.group g).mark := by
    rw [s.enterGroup_record]
    exact Bool.and_true _
  exact ⟨(Stays.enterGroup s g .closing 255).trans stays,
    (congrArg Group.state steps).trans (s.enterGroup_state g .closing 255), (congrArg Group.mark steps).trans mark⟩

/-- A warning under the mark begins to count, or ends at once (R135). -/
theorem State.beginCount_marked (s : State) (g : Fin 4) (marked : (s.group g).mark = true)
    (warning : (s.group g).state = .warning) : Stays s (s.beginCount g)
      ∧ (((s.beginCount g).group g).state = .warning ∨ ((s.beginCount g).group g).state = .closing)
      ∧ ((s.beginCount g).group g).mark = true := by
  unfold State.beginCount
  extract_lets r time counting
  have record : counting.group g = _ := State.group_setGroup_self _ _ _
  have stays : Stays s counting := ⟨rfl, rfl, rfl⟩
  have still : (counting.group g).mark = true := (congrArg Group.mark record).trans marked
  have state : (counting.group g).state = .warning := (congrArg Group.state record).trans warning
  clear_value counting
  split
  · have ended : counting.endWarning g = counting.enterClosing g := if_pos still
    obtain ⟨frame, closing, mark⟩ := counting.enterClosing_frame g
    rw [ended]
    exact ⟨stays.trans frame, .inr closing, mark.trans still⟩
  · exact ⟨stays, .inl state, still⟩

theorem groupCallEntry_ne_emergency (g : Fin 4) : (6 : Fin 16) ≠ groupCallEntry g := by
  revert g
  decide

theorem State.warnUnderMark_marked (s : State) (g : Fin 4) (marked : (s.group g).mark = true)
    (warning : (s.group g).state = .warning) : (Raised s → Raised (s.warnUnderMark g)) ∧ Kept 6 s (s.warnUnderMark g)
      ∧ (((s.warnUnderMark g).group g).state = .warning ∨ ((s.warnUnderMark g).group g).state = .closing)
      ∧ ((s.warnUnderMark g).group g).mark = true := by
  unfold State.warnUnderMark
  extract_lets removed record cleared
  have same : removed.group g = s.group g := s.group_removeEntry _ g
  have taken : cleared.group g = _ := State.group_setGroup_self _ _ _
  have still : (cleared.group g).mark = true := (congrArg Group.mark taken).trans ((congrArg Group.mark same).trans marked)
  have state : (cleared.group g).state = .warning :=
    (congrArg Group.state taken).trans ((congrArg Group.state same).trans warning)
  have kept : Kept 6 s cleared := ((Kept.refl 6 s).removeEntry _ (groupCallEntry_ne_emergency g)).same rfl
  have raised (h : Raised s) : Raised cleared := (h.removeEntry _).same rfl rfl
  clear_value cleared
  split
  · obtain ⟨frame, ends, mark⟩ := cleared.beginCount_marked g still state
    exact ⟨fun h => frame.raised (raised h), kept.trans (frame.kept 6), ends, mark⟩
  · exact ⟨raised, kept, .inl state, still⟩

/-- An emergency close: the beacons and entry 6 stay, and the group's state and mark (R135). -/
theorem State.emergencyClose_record (s : State) (g : Fin 4) : (Raised s → Raised (s.emergencyClose g))
    ∧ Kept 6 s (s.emergencyClose g)
    ∧ ((s.group g).state = .closed → s.emergencyClose g = s)
    ∧ ((s.group g).state ≠ .closed → ((s.emergencyClose g).group g).mark = true)
    ∧ ((s.group g).state = .waitPermit ∨ (s.group g).state = .closing → ((s.emergencyClose g).group g).state = .closing)
    ∧ ((s.group g).state ∈ [GroupState.idle, .stopped, .incomplete, .opening, .warning] →
        ((s.emergencyClose g).group g).state = .warning ∨ ((s.emergencyClose g).group g).state = .closing) := by
  have marked : (s.markGroup g).group g = { s.group g with mark := true } := State.group_setGroup_self _ _ _
  unfold State.emergencyClose
  cases state : (s.group g).state with
  | idle | stopped | incomplete | opening =>
    dsimp only
    have record : (((s.resetSteps g).markGroup g).group g).mark = true :=
      congrArg Group.mark (State.group_setGroup_self (s.resetSteps g) g _)
    have mark : ((((s.resetSteps g).markGroup g).enterGroup g .warning).group g).mark = true := by
      rw [State.enterGroup_record]
      exact (Bool.and_true _).trans record
    have frame : Stays s (((s.resetSteps g).markGroup g).enterGroup g .warning) :=
      (show Stays s ((s.resetSteps g).markGroup g) from ⟨rfl, rfl, rfl⟩).trans (Stays.enterGroup _ g .warning 255)
    obtain ⟨raised, kept, ends, still⟩ := State.warnUnderMark_marked _ g mark (State.enterGroup_state _ g .warning 255)
    exact ⟨fun h => raised (frame.raised h), (frame.kept 6).trans kept, nofun, fun _ => still, nofun, fun _ => ends⟩
  | warning =>
    dsimp only
    have frame : Stays s (s.markGroup g) := ⟨rfl, rfl, rfl⟩
    obtain ⟨raised, kept, ends, still⟩ := (s.markGroup g).warnUnderMark_marked g (congrArg Group.mark marked)
      ((congrArg Group.state marked).trans state)
    exact ⟨fun h => raised (frame.raised h), (frame.kept 6).trans kept, nofun, fun _ => still, nofun, fun _ => ends⟩
  | waitPermit =>
    dsimp only
    obtain ⟨stays, closing, mark⟩ := (s.markGroup g).enterClosing_frame g
    have frame : Stays s ((s.markGroup g).enterClosing g) := (show Stays s (s.markGroup g) from ⟨rfl, rfl, rfl⟩).trans stays
    exact ⟨frame.raised, frame.kept 6, nofun, fun _ => mark.trans (congrArg Group.mark marked), fun _ => closing,
      fun h => .inr closing⟩
  | closing =>
    dsimp only
    have frame : Stays s (s.markGroup g) := ⟨rfl, rfl, rfl⟩
    have closing : ((s.markGroup g).group g).state = .closing := (congrArg Group.state marked).trans state
    exact ⟨frame.raised, frame.kept 6, nofun, fun _ => congrArg Group.mark marked, fun _ => closing, fun _ => .inr closing⟩
  | closed => exact ⟨id, Kept.refl 6 s, fun _ => rfl, fun h => absurd rfl h, nofun, fun h => by simp at h⟩

end Sys2Proof.Machine
end

section
/-! SUPPORT. The entry to EMERGENCY, continued: the channels, the commit, the proof test, and the whole (R53, R100, R178,
R195). -/

namespace Sys2Proof.Machine

open Sys2Proof

/-! ### The proof test -/

/-- The channels and the end of the proof test taken, nothing else. -/
def State.tested (s : State) (ramps : Pair Ramp) (last : Option (TestId × TestResult)) : State :=
  { s with ramps := ramps, fc := { s.fc with test := none, last := last } }

theorem State.zeroTestCount_eq (s : State) (id : TestId) : ∃ ramps, s.zeroTestCount id = { s with ramps := ramps }
    ∧ ∀ ch, ((s.zeroTestCount id).ramp ch).state = (s.ramp ch).state := by
  have one (ch : Channel) (r : Ramp) (state : r.state = (s.ramp ch).state) : ∃ ramps, s.setRamp ch r = { s with ramps := ramps }
      ∧ ∀ c, ((s.setRamp ch r).ramp c).state = (s.ramp c).state := by
    refine ⟨_, rfl, fun c => ?_⟩
    by_cases same : c = ch
    · subst same
      rw [State.ramp_setRamp_self]
      exact state
    · rw [State.ramp_setRamp_ne s r (Ne.symm same)]
  unfold State.zeroTestCount
  cases id with
  | overspeed ch => exact one ch _ rfl
  | overload ch => exact one ch _ rfl
  | landInput ch => exact ⟨_, rfl, fun _ => rfl⟩
  | scrub => exact ⟨_, rfl, fun _ => rfl⟩

theorem State.endTest_calm (s : State) (result : TestResult) : ∃ ramps last, Calm (s.tested ramps last) (s.endTest result)
    ∧ (∀ k : Fin 32, 11 ≠ k → (s.endTest result).img.locals.at k = s.img.locals.at k)
    ∧ (∀ ch, (ramps.get ch).state = (s.ramp ch).state)
    ∧ (∀ p, s.fc.test = some p → last = some (p.id, result)) ∧ (s.fc.test = none → last = s.fc.last) := by
  unfold State.endTest
  cases test : s.fc.test with
  | none =>
    refine ⟨s.ramps, s.fc.last, ?_, fun _ _ => rfl, fun _ => rfl, nofun, fun _ => rfl⟩
    have same : s.tested s.ramps s.fc.last = s := by
      rw [State.tested, ← test]
    exact same ▸ Calm.refl s
  | some t =>
    dsimp only
    obtain ⟨ramps, zeroed, states⟩ := s.zeroTestCount_eq t.id
    generalize s.zeroTestCount t.id = z at zeroed states ⊢
    subst zeroed
    refine ⟨ramps, some (t.id, result), State.notice_calm _ _ _ _, fun k other => State.place_locals _ _ k other, states,
      fun p same => ?_, nofun⟩
    rw [Option.some.inj same]

/-- The proof test goes on, or has been aborted (R195). -/
def TestAborted (s t : State) : Prop := (t.fc.test = s.fc.test ∧ t.fc.last = s.fc.last)
  ∨ ∃ p, s.fc.test = some p ∧ t.fc.test = none ∧ t.fc.last = some (p.id, .aborted)

theorem TestAborted.same {s t : State} (test : t.fc.test = s.fc.test) (last : t.fc.last = s.fc.last) : TestAborted s t :=
  .inl ⟨test, last⟩

theorem TestAborted.trans {s t u : State} (h : TestAborted s t) (k : TestAborted t u) : TestAborted s u := by
  rcases h with ⟨test, last⟩ | ⟨p, run, none_, aborted⟩
  · rcases k with ⟨test', last'⟩ | ⟨p, run, none_, aborted⟩
    · exact .inl ⟨test'.trans test, last'.trans last⟩
    · exact .inr ⟨p, test.symm.trans run, none_, aborted⟩
  · rcases k with ⟨test', last'⟩ | ⟨q, run', -, -⟩
    · exact .inr ⟨p, run, test'.trans none_, last'.trans aborted⟩
    · rw [none_] at run'
      exact absurd run' nofun

theorem State.abortTestOn_frame (s : State) (ch : Channel) : Stays s (s.abortTestOn ch) ∧ TestAborted s (s.abortTestOn ch) := by
  unfold State.abortTestOn
  split
  · obtain ⟨ramps, last, calm, -, -, ended, idle⟩ := s.endTest_calm .aborted
    refine ⟨⟨calm.cl, calm.bd, calm.dcc⟩, ?_⟩
    cases test : s.fc.test with
    | none => exact .inl ⟨calm.test.trans test.symm, calm.last.trans (idle test)⟩
    | some p => exact .inr ⟨p, test, calm.test, calm.last.trans (ended p test)⟩
  · exact ⟨.refl s, .inl ⟨rfl, rfl⟩⟩

/-! ### A channel halted -/

theorem callEntry_ne_emergency (ch : Channel) : (6 : Fin 16) ≠ ch.callEntry := by
  cases ch with
  | a => decide
  | b => decide

/-- Entering a state: the beacons and entry 6 stay, and a proof test may be aborted (R81, R195). -/
theorem State.enterRamp_frame (s : State) (ch : Channel) (st : RampState) : (Raised s → Raised (s.enterRamp ch st))
    ∧ Kept 6 s (s.enterRamp ch st) ∧ TestAborted s (s.enterRamp ch st) := by
  unfold State.enterRamp
  extract_lets entered written aborted called
  have first : Stays s written := (show Stays s entered from ⟨rfl, rfl, rfl⟩).trans (State.writeLocal_calm _ _ _).stays
  have sameFc : written.fc = s.fc := entered.writeLocal_fc _ _
  have second : Stays written aborted ∧ TestAborted written aborted := by
    unfold aborted
    split
    · exact ⟨.refl _, .inl ⟨rfl, rfl⟩⟩
    · exact written.abortTestOn_frame ch
  obtain ⟨stays, test⟩ := second
  have before : Stays s aborted := first.trans stays
  have tested : TestAborted s aborted := (TestAborted.same (congrArg Fc.test sameFc) (congrArg Fc.last sameFc)).trans test
  have third : (Raised aborted → Raised called) ∧ Kept 6 aborted called ∧ CallsOnly aborted called := by
    unfold called
    split
    · exact ⟨fun h => h.removeEntry _, (Kept.refl 6 _).removeEntry _ (callEntry_ne_emergency ch),
        (CallsOnly.refl _).removeEntry _⟩
    · split
      · exact ⟨fun h => h.placeEntry _ _, (Kept.refl 6 _).placeEntry _ _ (callEntry_ne_emergency ch),
          (CallsOnly.refl _).placeEntry _ _⟩
      · exact ⟨id, Kept.refl 6 _, CallsOnly.refl _⟩
  obtain ⟨raised, kept, only⟩ := third
  have formed := only.formBeacons
  exact ⟨fun h => (raised (before.raised h)).formBeacons, ((before.kept 6).trans kept).formBeacons,
    tested.trans (.same formed.test formed.last)⟩

theorem State.haltRamp_frame (s : State) (ch : Channel) : (Raised s → Raised (s.haltRamp ch))
    ∧ Kept 6 s (s.haltRamp ch) ∧ TestAborted s (s.haltRamp ch) := by
  unfold State.haltRamp
  cases (s.ramp ch).state with
  | lowering | landing | raising | stowing | jog | starting => exact s.enterRamp_frame ch _
  | halting => exact ⟨fun h => h.same rfl rfl, (Kept.refl 6 s).same rfl, .inl ⟨rfl, rfl⟩⟩
  | disabled | stowedLocked | landed | halted | locking | fault => exact ⟨id, Kept.refl 6 s, .inl ⟨rfl, rfl⟩⟩

theorem State.haltBoth_raised (s : State) : (Raised s → Raised s.haltBoth) ∧ Kept 6 s s.haltBoth ∧ TestAborted s s.haltBoth := by
  obtain ⟨raisedA, keptA, testA⟩ := s.haltRamp_frame .a
  obtain ⟨raisedB, keptB, testB⟩ := (s.haltRamp .a).haltRamp_frame .b
  exact ⟨fun h => raisedB (raisedA h), keptA.trans keptB, testA.trans testB⟩

/-! ### The commit -/

theorem State.abortCommit_pending (s : State) (c : CommitRec) (pending : s.ts.commit = some c) :
    s.abortCommit = (s.commitClosed.raiseFlag .commitExpired).notice 30 3 [c.set] := by
  unfold State.abortCommit
  rw [pending]
  rfl

theorem State.abortCommit_calm (s : State) : Calm s.commitClosed s.abortCommit
    ∧ (s.ts.commit ≠ none → s.abortCommit.hasFlag .commitExpired)
    ∧ ∀ k : Fin 32, 11 ≠ k → s.abortCommit.img.locals.at k = s.img.locals.at k := by
  cases pending : s.ts.commit with
  | none =>
    have same : s.commitClosed = s := by rw [State.commitClosed, ← pending]
    rw [s.abortCommit_none pending, same]
    exact ⟨Calm.refl s, fun h => absurd rfl h, fun _ _ => rfl⟩
  | some c =>
    have raised := s.commitClosed.raiseFlag_calm .commitExpired
    have flagged := s.commitClosed.raiseFlag_has .commitExpired
    have locals := s.commitClosed.raiseFlag_locals .commitExpired
    rw [s.abortCommit_pending c pending]
    generalize s.commitClosed.raiseFlag .commitExpired = u at raised flagged locals ⊢
    have told := u.notice_calm 30 3 [c.set]
    exact ⟨raised.trans told, fun _ => told.keeps_flag flagged, fun k other =>
      (State.place_locals _ _ k other).trans (locals k other)⟩

/-! ### The whole -/

/-- What each request of the entry to EMERGENCY keeps (R53). -/
structure AlertStep (s t : State) : Prop where
  ts : t.ts = s.ts
  settings : t.settings = s.settings
  remotes : t.img.remotes = s.img.remotes
  held : t.held = s.held
  dcc : t.dcc = s.dcc
  entry : t.img.locals.at 0 = s.img.locals.at 0
  raised : Raised s → Raised t
  kept : Kept 6 s t
  test : TestAborted s t

theorem AlertStep.refl (s : State) : AlertStep s s :=
  ⟨rfl, rfl, rfl, rfl, rfl, rfl, id, Kept.refl 6 s, .inl ⟨rfl, rfl⟩⟩

theorem AlertStep.trans {s t u : State} (h : AlertStep s t) (k : AlertStep t u) : AlertStep s u :=
  ⟨k.ts.trans h.ts, k.settings.trans h.settings, k.remotes.trans h.remotes, k.held.trans h.held, k.dcc.trans h.dcc,
    k.entry.trans h.entry, fun r => k.raised (h.raised r), h.kept.trans k.kept, h.test.trans k.test⟩

theorem AlertStep.foldl {α : Type} (f : State → α → State) (step : ∀ t x, AlertStep t (f t x)) (l : List α) (s : State) :
    AlertStep s (l.foldl f s) := by
  induction l generalizing s with
  | nil => exact .refl s
  | cons x l ih => exact (step s x).trans (ih _)

/-- The request to a group: a FIRE group closes (R53). -/
def State.fireClose (s : State) (g : Fin 4) : State := if (s.group g).defn.fire then s.emergencyClose g else s

theorem State.fireClose_only (s : State) (g : Fin 4) : GroupOnly g s (s.fireClose g) := by
  unfold State.fireClose
  split
  · exact s.emergencyClose_only g
  · exact GroupOnly.refl g s

theorem AlertStep.fireClose (s : State) (g : Fin 4) : AlertStep s (s.fireClose g) := by
  have only := s.fireClose_only g
  have both : (Raised s → Raised (s.fireClose g)) ∧ Kept 6 s (s.fireClose g) := by
    unfold State.fireClose
    split
    · obtain ⟨raised, kept, -⟩ := s.emergencyClose_record g
      exact ⟨raised, kept⟩
    · exact ⟨id, Kept.refl 6 s⟩
  exact ⟨only.ts, only.settings, only.remotes, only.held, only.dcc, only.locals 0 (.inl (by decide)) (groupEntry_ne g).1.symm,
    both.1, both.2, .inl ⟨only.test, only.last⟩⟩

theorem AlertStep.haltRamp (s : State) (ch : Channel) : AlertStep s (s.haltRamp ch) := by
  have only := s.haltRamp_only ch
  obtain ⟨raised, kept, test⟩ := s.haltRamp_frame ch
  refine ⟨only.ts, only.settings, only.remotes, only.held, only.dcc, only.locals 0 (.inl (by decide)) ?_, raised, kept, test⟩
  cases ch with
  | a => decide
  | b => decide

/-- The deck condition taken, the beacons raised, the emergency general call placed (R43, R53, R164). -/
def State.alerted (s : State) (cause : DeckCause) : State := (s.changeDeck .emergency cause).raiseBeacons.placeEmergency

theorem State.alerted_only (s : State) (cause : DeckCause) :
    CallsOnly (({ s with dcc := { s.dcc with deck := .emergency } } : State).published 0 4) (s.alerted cause) := by
  rw [State.alerted, State.placeEmergency_eq]
  exact (s.changeDeck_only .emergency cause).raiseBeacons.placeEntry _ _

theorem State.alerted_raised (s : State) (cause : DeckCause) : Raised (s.alerted cause) := by
  rw [State.alerted, State.placeEmergency_eq]
  exact (State.raiseBeacons_raised _ (s.changeDeck_deck _ _)).placeEntry _ _

theorem State.alerted_call (s : State) (cause : DeckCause) : ∃ c, (s.alerted cause).cl.calls.at 6 = some c ∧ c.reps = 0
    ∧ c.key = (.emergency, s.settings.emZones, s.settings.emMessage, .emergency, 0, s.settings.emPattern) := by
  have settings : (s.changeDeck .emergency cause).raiseBeacons.settings = s.settings :=
    (s.changeDeck_only .emergency cause).raiseBeacons.settings
  rw [State.alerted, State.placeEmergency_eq]
  obtain ⟨c, listed, key⟩ := (s.changeDeck .emergency cause).raiseBeacons.placeEntry_listed 6
    ((s.changeDeck .emergency cause).raiseBeacons.newCall .emergency
      (s.changeDeck .emergency cause).raiseBeacons.settings.emZones
      (s.changeDeck .emergency cause).raiseBeacons.settings.emMessage .emergency 0
      (s.changeDeck .emergency cause).raiseBeacons.settings.emPattern) rfl
  refine ⟨c, listed, Call.key_reps key, key.trans ?_⟩
  rw [settings]
  rfl

theorem State.emergencyRequests_eq (s : State) (cause : DeckCause) :
    s.emergencyRequests cause = (allGroups.foldl State.fireClose (s.alerted cause)).haltBoth := rfl

theorem State.emergencyRequests_step (s : State) (cause : DeckCause) :
    AlertStep (s.alerted cause) (s.emergencyRequests cause) := by
  rw [s.emergencyRequests_eq]
  exact ((AlertStep.foldl _ AlertStep.fireClose allGroups _).trans (.haltRamp _ .a)).trans (.haltRamp _ .b)

theorem State.emergencyRequests_ramp (s : State) (cause : DeckCause) (ch : Channel) :
    ((s.emergencyRequests cause).ramp ch).state = (s.ramp ch).state.afterHalt := by
  have ramps := foldl_keeps State.ramps State.fireClose (fun t g => (t.fireClose_only g).ramps) allGroups (s.alerted cause)
  have same : (allGroups.foldl State.fireClose (s.alerted cause)).ramp ch = s.ramp ch :=
    congrArg (fun x : Pair Ramp => x.get ch) (ramps.trans (s.alerted_only cause).ramps)
  rw [s.emergencyRequests_eq, (State.haltBoth_haltedFrom _ ch).state, same]

theorem State.emergencyRequests_group (s : State) (cause : DeckCause) (g : Fin 4) :
    ∃ t : State, t.group g = s.group g ∧ (s.emergencyRequests cause).group g = (t.fireClose g).group g := by
  obtain ⟨t, -, same, -, own⟩ := foldl_group_own _ State.fireClose_only allGroups (by decide) (s.alerted cause) g
    (mem_allGroups g)
  refine ⟨t, same.trans ((s.alerted_only cause).group g), ?_⟩
  rw [s.emergencyRequests_eq]
  exact (State.group_of_groups (State.haltBoth_frame _).groups g).trans own

theorem State.fireClose_fire (s : State) (g : Fin 4) (fire : (s.group g).defn.fire = true) :
    s.fireClose g = s.emergencyClose g := if_pos fire

theorem State.fireClose_other (s : State) (g : Fin 4) (other : (s.group g).defn.fire = false) : s.fireClose g = s :=
  if_neg (ne_true_of_eq_false other)

/-- The entry to EMERGENCY against its requests: the commit closed and the proof test ended (R178, R195). -/
theorem State.enterEmergency_ends (s : State) (cause : DeckCause) : ∃ ramps last,
    let u := s.emergencyRequests cause
    Calm (u.commitClosed.tested ramps last) (s.enterEmergency cause)
      ∧ (s.enterEmergency cause).img.locals.at 0 = u.img.locals.at 0
      ∧ (∀ ch, (ramps.get ch).state = (u.ramp ch).state)
      ∧ (∀ p, u.fc.test = some p → last = some (p.id, .aborted)) ∧ (u.fc.test = none → last = u.fc.last)
      ∧ (u.ts.commit ≠ none → (s.enterEmergency cause).hasFlag .commitExpired) := by
  rw [s.enterEmergency_eq]
  generalize s.emergencyRequests cause = u
  obtain ⟨closed, flagged, locals⟩ := u.abortCommit_calm
  generalize u.abortCommit = w at closed flagged locals ⊢
  obtain ⟨ramps, last, calm, locals', states, ended, idle⟩ := w.endTest_calm .aborted
  have ramp (ch : Channel) : w.ramp ch = u.ramp ch := congrArg (fun x : Pair Ramp => x.get ch) closed.ramps
  have tested : Calm (u.commitClosed.tested ramps last) (w.tested ramps last) :=
    { closed with ramps := rfl, test := rfl, last := rfl }
  refine ⟨ramps, last, tested.trans calm, (locals' 0 (by decide)).trans (locals 0 (by decide)), fun ch => ?_, fun p run => ?_,
    fun none_ => ?_, fun pending => ?_⟩
  · rw [states ch, ramp ch]
  · exact ended p (closed.test.trans run)
  · exact (idle (closed.test.trans none_)).trans closed.last
  · have before : (w.tested ramps last).hasFlag .commitExpired := flagged pending
    exact calm.keeps_flag before

/-- Settles O31: the requests in order, then the commit and the proof test. -/
theorem emergencyEntered : Obligations.EmergencyEntered := by
  intro s cause t
  have only := s.alerted_only cause
  have step := s.emergencyRequests_step cause
  have ramp := s.emergencyRequests_ramp cause
  have group := s.emergencyRequests_group cause
  obtain ⟨c, listed, continuous, key⟩ := s.alerted_call cause
  obtain ⟨x, present, same⟩ := step.kept.2 c listed continuous
  have raised := step.raised (s.alerted_raised cause)
  have ts : (s.emergencyRequests cause).ts = s.ts := step.ts.trans only.ts
  obtain ⟨ramps, last, calm, entry, states, ended, idle, flagged⟩ := s.enterEmergency_ends cause
  refine ⟨rfl, ?_⟩
  have named : t = s.enterEmergency cause := rfl
  clear_value t
  rw [← named] at calm entry flagged
  generalize s.emergencyRequests cause = u at step ramp group present raised ts calm entry states ended idle flagged
  have dcc : t.dcc = { s.dcc with deck := .emergency } := calm.dcc.trans (step.dcc.trans only.dcc)
  have groups (g : Fin 4) : t.group g = u.group g := State.group_of_groups (s := u) calm.groups g
  refine ⟨congrArg Dcc.deck dcc, entry.trans (step.entry.trans ((only.locals 0 (.inl (by decide))).trans (Tab.at_put_self _ _ _))),
    (raised.same calm.dcc calm.bd).2, ⟨x, (congrArg (fun l : CallList => l.calls.at 6) calm.cl).trans present, ?_⟩,
    fun ch => ?_, fun g other => ?_, fun g fire => ?_, congrArg Ts.commit calm.ts, fun pending => ?_, calm.test, fun p run => ?_,
    calm.settings.trans (step.settings.trans only.settings), calm.remotes.trans (step.remotes.trans only.remotes),
    calm.held.trans (step.held.trans only.held), fun i => ?_⟩
  · have full := same.trans key
    simp only [Call.key, Prod.mk.injEq] at full
    obtain ⟨origin, zones, message, priority, reps, pattern⟩ := full
    exact ⟨origin, zones, message, priority, reps, pattern⟩
  · have state : (t.ramp ch).state = (s.ramp ch).state.afterHalt :=
      (congrArg (fun x : Pair Ramp => (x.get ch).state) calm.ramps).trans ((states ch).trans (ramp ch))
    rw [state]
    cases (s.ramp ch).state <;> rfl
  · obtain ⟨w, before, after⟩ := group g
    rw [groups g, after, w.fireClose_other g (by rw [before]; exact other), before]
  · obtain ⟨w, before, after⟩ := group g
    obtain ⟨-, -, closed, mark, closing, warning⟩ := w.emergencyClose_record g
    rw [w.fireClose_fire g (by rw [before]; exact fire)] at after
    rw [groups g, after]
    rw [before] at closed mark closing warning
    exact ⟨fun state => by rw [closed state, before], mark, closing, warning⟩
  · exact flagged (by rw [ts]; exact pending)
  · rw [calm.last]
    rcases step.test with ⟨test, -⟩ | ⟨q, run', none_, aborted⟩
    · exact ended p (test.trans (only.test.trans run))
    · have the : q = p := Option.some.inj (run'.symm.trans (only.test.trans run))
      exact (idle none_).trans (the ▸ aborted)
  · have before : u.ts.secs = s.ts.secs := congrArg Ts.secs ts
    have secs : t.ts.secs = s.ts.secs := (congrArg Ts.secs calm.ts).trans before
    exact congrArg (fun x : Tab Sec 8 => x.at i) secs

end Sys2Proof.Machine
end

section
/-! SUPPORT. The deck line: its states, and the end of a transaction (R11 to R17, R25, R75). -/

namespace Sys2Proof.Machine

open Sys2Proof

/-! ### The line's states -/

/-- The line in a state, at a tick. -/
def State.lineAt (s : State) (n : Nat) (l : Line) : State := { s with now := n, dls := { s.dls with line := l } }

theorem State.deckFrameSent_eq (s : State) (f : Frame) (stop : Nat) (line : s.dls.line = .sending f stop) :
    s.deckFrameSent = s.lineAt (max s.now stop) (if f.dest = 63 then .settling (max s.now stop + 44 * Config.usec)
      else .window (max s.now stop + Config.msec)) := by
  unfold State.deckFrameSent
  rw [line]
  rfl

theorem State.startBit_window (s : State) (due : Nat) (line : s.dls.line = .window due) :
    s.startBit = s.lineAt s.now (.receiving true) := by
  unfold State.startBit
  rw [line]
  rfl

theorem State.startBit_unsolicited (s : State) (due : Nat) (line : s.dls.line = .free ∨ s.dls.line = .settling due) :
    s.startBit = s.lineAt s.now (.receiving false) := by
  unfold State.startBit
  rcases line with line | line
  · rw [line]
    rfl
  · rw [line]
    rfl

theorem State.startBit_busy (s : State) (f : Frame) (stop : Nat) (b : Bool)
    (line : s.dls.line = .sending f stop ∨ s.dls.line = .receiving b) : s.startBit = s := by
  unfold State.startBit
  rcases line with line | line
  · rw [line]
  · rw [line]

theorem State.settlingEnded_eq (s : State) (due : Nat) (line : s.dls.line = .settling due) :
    s.settlingEnded = (s.reach due).freeLine := by
  unfold State.settlingEnded
  rw [line]

/-! ### The end of a transaction -/

/-- The transaction record emptied (R14). -/
def State.txClosed (s : State) : State := { s with dls := { s.dls with tx := none } }

theorem State.endTransaction_discarded (s : State) (x : Transaction) (a : Option Frame) (tx : s.dls.tx = some x)
    (discard : x.discard = true) : s.endTransaction a = s.txClosed := by
  unfold State.endTransaction
  rw [tx]
  exact if_pos discard

theorem State.endTransaction_none (s : State) (x : Transaction) (tx : s.dls.tx = some x) (kept : x.discard = false) :
    s.endTransaction none = s.txClosed.notAnswered x := by
  unfold State.endTransaction
  rw [tx]
  exact if_neg (ne_true_of_eq_false kept)

theorem State.endTransaction_some (s : State) (x : Transaction) (f : Frame) (tx : s.dls.tx = some x)
    (kept : x.discard = false) : s.endTransaction (some f) = s.txClosed.answered x f := by
  unfold State.endTransaction
  rw [tx]
  exact if_neg (ne_true_of_eq_false kept)

theorem State.notAnswered_entry (s : State) (x : Transaction) (d : Fin 96) (origin : x.origin = .entry d) :
    s.notAnswered x = s := by
  simp only [State.notAnswered, origin]

theorem State.notAnswered_bridge (s : State) (x : Transaction) (src : NodeNo) (origin : x.origin = .owner (.bridge src)) :
    s.notAnswered x = (s.reply src x.object .noAnswer).raiseFlag .dlNoAnswer := by
  simp only [State.notAnswered, origin]

theorem State.notAnswered_door (s : State) (x : Transaction) (g : Fin 4) (k : Fin 8) (i : Byte) (c : DoorCmd) (d : Fin 96)
    (origin : x.origin = .owner (.door g k i c d)) :
    s.notAnswered x = (s.doorOutcome g k i c .noAnswer).raiseFlag .dlNoAnswer := by
  simp only [State.notAnswered, origin, State.tellOutcome]

theorem State.notAnswered_zone (s : State) (x : Transaction) (z : Fin 12) (i : Byte) (p : Bool)
    (origin : x.origin = .owner (.zone z i p)) :
    s.notAnswered x = (s.zoneOutcome z i p false).raiseFlag .dlNoAnswer := by
  simp only [State.notAnswered, origin, State.tellOutcome]
  rfl

theorem State.windowExpired_eq (s : State) (due : Nat) (line : s.dls.line = .window due) :
    s.windowExpired = (s.reach due).freeLine.endTransaction none := by
  unfold State.windowExpired
  rw [line]

/-- Settles O32: the line's four events, and the window that closes without an answer. -/
theorem deckLineMoves : Obligations.DeckLineMoves := by
  refine ⟨fun s settled => ?_, fun s due x settled room line tx => ?_⟩
  · intro at_
    refine ⟨fun f stop line => ?_, fun due line => ?_, fun due line => ?_, fun f stop b line => ?_, fun due line => ?_⟩
    · exact s.act_exact _ (·.deckFrameSent) settled (s.deckFrameSent_eq f stop line) rfl rfl rfl
    · exact s.act_exact _ (·.startBit) settled (s.startBit_window due line) rfl rfl rfl
    · exact s.act_exact _ (·.startBit) settled (s.startBit_unsolicited due line) rfl rfl rfl
    · exact s.act_exact _ (·.startBit) settled (s.startBit_busy f stop b line) rfl rfl rfl
    · exact s.act_own _ (·.settlingEnded) settled.1 (s.settlingEnded_eq due line)
  · intro v out
    have node : s.node ≠ 63 := settled.1
    have expired := s.windowExpired_eq due line
    have open_ : (s.reach due).freeLine.dls.tx = some x := tx
    have closed : (s.reach due).freeLine.txClosed = v := rfl
    have unanswered (kept : x.discard = false) : s.windowExpired = v.notAnswered x :=
      expired.trans (State.endTransaction_none _ x open_ kept)
    refine ⟨fun quiet => ?_, fun src kept origin => ?_, fun g k i c d kept origin => ?_, fun z i p kept origin => ?_⟩
    · refine s.act_own _ (·.windowExpired) node ?_
      cases discard : x.discard with
      | true => exact expired.trans (State.endTransaction_discarded _ x none open_ discard)
      | false =>
        obtain ⟨d, origin⟩ := quiet.resolve_left (ne_true_of_eq_false discard)
        exact (unanswered discard).trans (v.notAnswered_entry x d origin)
    · refine s.act_own _ (·.windowExpired) node ((unanswered kept).trans ((v.notAnswered_bridge x src origin).trans ?_))
      rw [v.reply_queued src x.object .noAnswer [] room]
      rfl
    · exact s.act_own _ (·.windowExpired) node ((unanswered kept).trans (v.notAnswered_door x g k i c d origin))
    · exact s.act_own _ (·.windowExpired) node ((unanswered kept).trans (v.notAnswered_zone x z i p origin))

/-! ### A frame end -/

theorem State.answers_iff (s : State) (x : Transaction) (f : Frame) : s.answers x f = true ↔
    f.cls = (if x.kind = .poll then .status else .reply) ∧ f.src = x.node ∧ f.dest = s.node ∧ f.object = x.object := by
  simp only [State.answers, Bool.and_eq_true, beq_iff_eq, and_assoc]

theorem State.candidateEnd_invalid (s : State) (chars : List RxChar) (invalid : receive chars = none) :
    s.candidateEnd chars = (s.raiseFlag .dlFormat).endTransaction none := by
  unfold State.candidateEnd
  rw [invalid]
  cases s.dls.tx with
  | none => rfl
  | some _ => rfl

theorem State.candidateEnd_valid (s : State) (chars : List RxChar) (x : Transaction) (f : Frame) (tx : s.dls.tx = some x)
    (valid : receive chars = some f) : s.candidateEnd chars =
      if s.answers x f then s.endTransaction (some f) else (s.raiseFlag .dlFormat).endTransaction none := by
  unfold State.candidateEnd
  rw [tx, valid]

theorem State.deckFrameEnd_unsolicited (s : State) (chars : List RxChar) (line : s.dls.line = .receiving false) :
    s.deckFrameEnd chars = s.freeLine.raiseFlag .dlFormat := by
  unfold State.deckFrameEnd
  rw [line]

theorem State.deckFrameEnd_candidate (s : State) (chars : List RxChar) (line : s.dls.line = .receiving true) :
    s.deckFrameEnd chars = s.freeLine.candidateEnd chars := by
  unfold State.deckFrameEnd
  rw [line]

theorem State.answered_entry (s : State) (x : Transaction) (f : Frame) (d : Fin 96) (origin : x.origin = .entry d) :
    s.answered x f = (s.changeRemote d ⟨f.verb, f.payload.take 4, .valid, s.now⟩).offerStatus f := by
  simp only [State.answered, origin, State.absorb]

theorem State.answered_bridge (s : State) (x : Transaction) (f : Frame) (src : NodeNo)
    (origin : x.origin = .owner (.bridge src)) (reply : f.cls = .reply) (room : HasRoom s) :
    s.answered x f = s.queued { f with dest := src, urgent := false } := by
  have relayed : s.answered x f = s.relay src f := by simp only [State.answered, origin]
  exact relayed.trans (s.place_reply { f with dest := src, urgent := false } reply room)

theorem State.answered_door (s : State) (x : Transaction) (f : Frame) (g : Fin 4) (k : Fin 8) (i : Byte) (c : DoorCmd)
    (d : Fin 96) (origin : x.origin = .owner (.door g k i c d)) :
    s.answered x f = s.doorOutcome g k i c (if f.verb = 0 ∨ f.verb = 1 then .accepted else .rejected) := by
  simp only [State.answered, origin, State.tellOutcome, outcomeOf]

theorem outcomeOf_accepted (f : Frame) : (outcomeOf f == .accepted) = decide (f.verb = 0 ∨ f.verb = 1) := by
  unfold outcomeOf
  by_cases accepted : f.verb = 0 ∨ f.verb = 1
  · rw [if_pos accepted, decide_eq_true accepted]
    rfl
  · rw [if_neg accepted, decide_eq_false accepted]
    rfl

theorem State.answered_zone (s : State) (x : Transaction) (f : Frame) (z : Fin 12) (i : Byte) (p : Bool)
    (origin : x.origin = .owner (.zone z i p)) :
    s.answered x f = s.zoneOutcome z i p (decide (f.verb = 0 ∨ f.verb = 1)) := by
  simp only [State.answered, origin, State.tellOutcome, outcomeOf_accepted]

/-- Settles O33: an unsolicited frame, then the candidate that does not fit, then the one that does. -/
theorem deckFrameEnds : Obligations.DeckFrameEnds := by
  intro s chars settled room v w out
  have node : s.node ≠ 63 := settled.1
  have ends {t : State} (own : s.deckFrameEnd chars = t) : out = .next t.settled := s.act_own _ (·.deckFrameEnd chars) node own
  refine ⟨fun line => ends (s.deckFrameEnd_unsolicited chars line), fun line x tx => ⟨fun invalid => ?_, fun f valid => ?_⟩⟩
  · exact ends ((s.deckFrameEnd_candidate chars line).trans (v.candidateEnd_invalid chars invalid))
  · intro fits
    have candidate := (s.deckFrameEnd_candidate chars line).trans (v.candidateEnd_valid chars x f tx valid)
    have answers : v.answers x f = true ↔ fits := v.answers_iff x f
    have open_ : v.dls.tx = some x := tx
    have taken (fit : fits) (kept : x.discard = false) : s.deckFrameEnd chars = w.answered x f :=
      (candidate.trans (if_pos (answers.mpr fit))).trans (v.endTransaction_some x f open_ kept)
    refine ⟨fun other => ends (candidate.trans (if_neg fun fit => other (answers.mp fit))), fun fit discard => ?_,
      fun fit kept d origin => ?_, fun fit kind kept src origin => ?_, fun fit kept g k i c d origin => ?_,
      fun fit kept z i p origin => ?_⟩
    · exact ends ((candidate.trans (if_pos (answers.mpr fit))).trans (v.endTransaction_discarded x (some f) open_ discard))
    · exact ends ((taken fit kept).trans (w.answered_entry x f d origin))
    · have cls : f.cls = .reply := fit.1.trans (if_neg kind)
      exact ends ((taken fit kept).trans (w.answered_bridge x f src origin cls room))
    · exact ends ((taken fit kept).trans (w.answered_door x f g k i c d origin))
    · exact ends ((taken fit kept).trans (w.answered_zone x f z i p origin))

end Sys2Proof.Machine
end

section
/-! SUPPORT. The arbiter, image changes, the start of a poll (R12, R25, R28, R31, R34, R71 to R73). -/

namespace Sys2Proof.Machine

open Sys2Proof

/-! ### The choice -/

theorem State.choice_urgent (s : State) (r : DeckRec) (rest : List DeckRec) (urgent : s.dls.urgent = r :: rest) :
    s.choice = .frame r := by
  simp only [State.choice, urgent]

theorem State.choice_both (s : State) (r : DeckRec) (rest : List DeckRec) (d : Fin 96) (p : Fin 8) (urgent : s.dls.urgent = [])
    (normal : s.dls.normal = r :: rest) (due : s.duePoll = some (d, p)) :
    s.choice = if s.dls.alternation = .frame then .poll d p else .frame r := by
  simp only [State.choice, urgent, normal, due]

theorem State.choice_normal (s : State) (r : DeckRec) (rest : List DeckRec) (urgent : s.dls.urgent = [])
    (normal : s.dls.normal = r :: rest) (due : s.duePoll = none) : s.choice = .frame r := by
  simp only [State.choice, urgent, normal, due]

theorem State.choice_poll (s : State) (d : Fin 96) (p : Fin 8) (urgent : s.dls.urgent = []) (normal : s.dls.normal = [])
    (due : s.duePoll = some (d, p)) : s.choice = .poll d p := by
  simp only [State.choice, urgent, normal, due]

theorem State.choice_nothing (s : State) (urgent : s.dls.urgent = []) (normal : s.dls.normal = []) (due : s.duePoll = none) :
    s.choice = .nothing := by
  simp only [State.choice, urgent, normal, due]

/-! ### A frame chosen -/

theorem Dls.dropFirst_eq (d : Dls) (urgent : Bool) : d.dropFirst urgent =
    { d with urgent := if urgent then d.urgent.tail else d.urgent, normal := if urgent then d.normal else d.normal.tail } := by
  cases urgent with
  | true => rfl
  | false => rfl

theorem State.arbitrate_late (s : State) (r : DeckRec) (c : Byte) (k : Nat) (choice : s.choice = .frame r)
    (cond : r.cond = some c) (fails : s.condition c = false) :
    s.arbitrate (k + 1) = (s.removeLate r c).arbitrate k := by
  have late : s.lateCondition r = some c := by simp only [State.lateCondition, cond, fails, Bool.false_eq_true, if_false]
  simp only [State.arbitrate, choice, late]

theorem State.arbitrate_start (s : State) (r : DeckRec) (k : Nat) (choice : s.choice = .frame r)
    (holds : ∀ c, r.cond = some c → s.condition c = true) : s.arbitrate (k + 1) = s.startFrame r := by
  have late : s.lateCondition r = none := by
    unfold State.lateCondition
    cases cond : r.cond with
    | none => rfl
    | some c => exact if_pos (holds c cond)
  simp only [State.arbitrate, choice, late]

theorem State.arbitrate_poll (s : State) (d : Fin 96) (p : Fin 8) (k : Nat) (choice : s.choice = .poll d p) :
    s.arbitrate (k + 1) = s.startPoll d p := by
  simp only [State.arbitrate, choice]

/-! ### The offering -/

theorem State.offerStop_none (s : State) (g : Fin 4) (k : Fin 8) (idle : ((s.group g).steps.at k).pendingStop = none) :
    State.offerStop g s k = s := by
  simp only [State.offerStop, idle]

theorem State.offerStop_some (s : State) (g : Fin 4) (k : Fin 8) (r : DeckRec)
    (pending : ((s.group g).steps.at k).pendingStop = some r) : State.offerStop g s k = if s.dls.hasPlace r.urgent
      then { s.setStep g k { (s.group g).steps.at k with pendingStop := none } with dls := s.dls.accept r } else s := by
  cases place : s.dls.hasPlace r.urgent with
  | true =>
    simp only [State.offerStop, pending, s.offer_placed r place]
    rfl
  | false =>
    simp only [State.offerStop, pending, s.offer_full r place]
    rfl

theorem State.offerCmd_none (s : State) (g : Fin 4) (k : Fin 8) (idle : ((s.group g).steps.at k).pendingCmd = none) :
    State.offerCmd g s k = s := by
  simp only [State.offerCmd, idle]

theorem State.offerCmd_some (s : State) (g : Fin 4) (k : Fin 8) (r : DeckRec)
    (pending : ((s.group g).steps.at k).pendingCmd = some r) : State.offerCmd g s k = if s.dls.hasPlace (s.group g).mark
      then { s.setStep g k { (s.group g).steps.at k with pendingCmd := none } with
             dls := s.dls.accept { r with urgent := (s.group g).mark } } else s := by
  cases place : s.dls.hasPlace (s.group g).mark with
  | true =>
    simp only [State.offerCmd, pending, s.offer_placed { r with urgent := (s.group g).mark } place]
    rfl
  | false =>
    simp only [State.offerCmd, pending, s.offer_full { r with urgent := (s.group g).mark } place]
    rfl

/-- The pending CUT of a zone offered (R154). -/
def State.offerCut (s : State) (z : Fin 12) : State :=
  match (s.cl.zones.at z).pendingCut with
  | none => s
  | some r => if s.dls.hasPlace r.urgent
      then { s.setZone z { s.cl.zones.at z with pendingCut := none } with dls := s.dls.accept r } else s

/-- The pending PLAY of a zone offered (R154). -/
def State.offerPlay (s : State) (z : Fin 12) : State :=
  match (s.cl.zones.at z).pendingPlay with
  | none => s
  | some r => if s.dls.hasPlace r.urgent
      then { s.setZone z { s.cl.zones.at z with pendingPlay := none } with dls := s.dls.accept r } else s

theorem State.offerCut_play (s : State) (z : Fin 12) :
    ((s.offerCut z).cl.zones.at z).pendingPlay = (s.cl.zones.at z).pendingPlay := by
  unfold State.offerCut
  cases (s.cl.zones.at z).pendingCut with
  | none => rfl
  | some r =>
    dsimp only
    split
    · exact (congrArg Zone.pendingPlay (Tab.at_put_self s.cl.zones z { s.cl.zones.at z with pendingCut := none })).trans rfl
    · rfl

theorem State.offerZonePending_eq (s : State) (z : Fin 12) : s.offerZonePending z = (s.offerCut z).offerPlay z := by
  unfold State.offerZonePending
  extract_lets cut
  have same : cut = s.offerCut z := by
    unfold State.offerCut
    cases pending : (s.cl.zones.at z).pendingCut with
    | none => simp only [cut, pending]
    | some r =>
      cases place : s.dls.hasPlace r.urgent with
      | true =>
        simp only [cut, pending, s.offer_placed r place, place, if_true]
        rfl
      | false =>
        simp only [cut, pending, s.offer_full r place, place, Bool.false_eq_true, if_false]
  rw [same]
  generalize s.offerCut z = u
  unfold State.offerPlay
  cases (u.cl.zones.at z).pendingPlay with
  | none => rfl
  | some r =>
    dsimp only
    cases place : u.dls.hasPlace r.urgent with
    | true =>
      rw [u.offer_placed r place, if_pos rfl]
      rfl
    | false => rw [u.offer_full r place, if_neg Bool.false_ne_true]

/-! ### The telling -/

theorem State.tellStart_bridge (s : State) (r : DeckRec) (src : NodeNo) (origin : r.origin = .bridge src) :
    s.tellStart r = s := by
  simp only [State.tellStart, origin]

theorem State.tellStart_door (s : State) (r : DeckRec) (g : Fin 4) (k : Fin 8) (i : Byte) (c : DoorCmd) (d : Fin 96)
    (origin : r.origin = .door g k i c d) : s.tellStart r = s.doorFrameStarted g k i c d r.frame := by
  simp only [State.tellStart, origin]

theorem State.tellStart_zone (s : State) (r : DeckRec) (z : Fin 12) (i : Byte) (p : Bool) (origin : r.origin = .zone z i p) :
    s.tellStart r = s.zoneFrameStarted z i p r.urgent r.frame := by
  simp only [State.tellStart, origin]

/-- Settles O35: the choice, a frame removed late, a frame begun, the offering, the telling. -/
theorem arbiterChooses : Obligations.ArbiterChooses := by
  refine ⟨fun s => ⟨s.choice_urgent, fun urgent => ⟨fun r rest d p => s.choice_both r rest d p urgent,
      fun r rest => s.choice_normal r rest urgent, fun d p => s.choice_poll d p urgent, s.choice_nothing urgent⟩,
      fun r c k choice cond fails => ?_⟩, fun s r k choice holds => ?_, fun s => ⟨rfl, fun _ => rfl⟩,
    fun s g k => ⟨s.offerStop_none g k, s.offerStop_some g k, s.offerCmd_none g k, s.offerCmd_some g k⟩,
    fun s z => ?_, fun s r => ⟨s.tellStart_bridge r, s.tellStart_door r, s.tellStart_zone r⟩⟩
  · rw [s.arbitrate_late r c k choice cond fails, State.removeLate, Dls.dropFirst_eq]
  · rw [s.arbitrate_start r k choice holds, State.startFrame, Dls.dropFirst_eq]
    rfl
  · intro x cut y
    have played := s.offerCut_play z
    rw [s.offerZonePending_eq z, State.offerPlay, played]
    rfl

/-! ### Image changes -/

theorem State.changeRemote_same (s : State) (d : Fin 96) (r : Remote) (same : (s.img.remotes.at d).value = r.value) :
    s.changeRemote d r = s.setRemote d r := if_pos same

theorem State.changeRemote_other (s : State) (d : Fin 96) (r : Remote) (other : (s.img.remotes.at d).value ≠ r.value) :
    s.changeRemote d r = (s.setRemote d r).push (.imageChange (remoteIndex d) (s.img.remotes.at d).value r.value) :=
  if_neg other

theorem State.changeRemote_calm (s : State) (d : Fin 96) (r : Remote) : Calm (s.setRemote d r) (s.changeRemote d r)
    ∧ (s.changeRemote d r).img.locals = s.img.locals := by
  by_cases same : (s.img.remotes.at d).value = r.value
  · rw [s.changeRemote_same d r same]
    exact ⟨Calm.refl _, rfl⟩
  · rw [s.changeRemote_other d r same]
    exact ⟨State.push_calm _ _, rfl⟩

theorem followedEntry_iff (index : Nat) : followedEntry index = true ↔ index ∈ [1, 2, 5, 6, 7, 8] :=
  List.contains_iff_mem

theorem State.handle_imageChange (s : State) (index : Fin 128) (old new : Byte) :
    s.handle (.imageChange index old new) =
      let t := (allGroups.foldl (fun t g => t.groupImageChange g index.val new) s.evaluateHeld).callsImageChange index.val new
      if index.val ∈ [1, 2, 5, 6, 7, 8] then t.trySea.tryApply else t :=
  if_congr (followedEntry_iff index.val) rfl rfl

/-! ### Freshness -/

/-- An entry that has not been heard in time (R28). -/
def Remote.stale (r : Remote) : Remote := { r with value := 255, detail := [], standing := .stale }

theorem State.freshnessExpired_eq (s : State) (d : Fin 96) (used : (s.img.defs.at d).kind ≠ .none)
    (fresh : (s.img.remotes.at d).standing ≠ .stale) : s.freshnessExpired d =
      ((s.reach (s.freshnessAt d)).changeRemote d (s.img.remotes.at d).stale).raiseFlag .objectStale :=
  if_pos ⟨bne_iff_ne.mpr used, fresh⟩

theorem State.changeRemote_flagged (s : State) (d : Fin 96) (r : Remote) (f : Flag) :
    Calm (s.setRemote d r) ((s.changeRemote d r).raiseFlag f)
      ∧ ∀ i : Fin 32, 11 ≠ i → ((s.changeRemote d r).raiseFlag f).img.locals.at i = s.img.locals.at i := by
  obtain ⟨changed, locals⟩ := s.changeRemote_calm d r
  generalize s.changeRemote d r = v at changed locals ⊢
  refine ⟨changed.trans (v.raiseFlag_calm f), fun i other => (v.raiseFlag_locals f i other).trans ?_⟩
  rw [locals]

/-- Settles O36: the entries written, an event handled, the gate, the freshness. -/
theorem imageChanges : Obligations.ImageChanges := by
  refine ⟨⟨fun s i v => ⟨s.writeLocal_same i v, s.writeLocal_other i v⟩, fun s d r => ?_⟩,
    fun s index old new => s.handle_imageChange index old new, fun s => ?_, fun s d node used fresh => ?_⟩
  · intro old
    exact ⟨s.changeRemote_same d r, s.changeRemote_other d r⟩
  · intro gate
    have open_ : s.gateOpen = true ↔ gate := s.gateOpen_iff
    refine ⟨fun idle => by rw [State.tryApply, idle], fun c pending => ?_⟩
    have tried := s.tryApply_pending c pending
    exact ⟨fun opens => tried.trans (if_pos (open_.mpr opens)), fun shut => tried.trans (if_neg fun opens => shut (open_.mp opens))⟩
  · intro r n u stale t
    have own := s.freshnessExpired_eq d used fresh
    have flagged := (u.changeRemote d stale).raiseFlag_has .objectStale
    obtain ⟨told, entries⟩ := u.changeRemote_flagged d stale .objectStale
    have named : (u.changeRemote d stale).raiseFlag .objectStale = t := rfl
    have taken : ((s.reach (s.freshnessAt d)).changeRemote d (s.img.remotes.at d).stale).raiseFlag .objectStale = t := rfl
    rw [named] at flagged told entries
    rw [taken] at own
    clear_value t
    exact ⟨s.act_own t (·.freshnessExpired d) node own, (CallsOnly.refl (u.setRemote d stale)).ofCalm told entries, flagged,
      told.dls, told.cl, told.bd, fun i other => entries i fun same => other (congrArg Fin.val same).symm⟩

/-! ### A poll -/

theorem State.startPoll_eq (s : State) (d : Fin 96) (p : Fin 8) : s.startPoll d p = { s with
    img := { s.img with
      pointer := if d.val = 95 then 0 else d + 1
      pass := if d.val = 95 then p + 1 else p }
    dls := { s.dls with
      line := .sending { dest := (s.img.defs.at d).node, urgent := false, src := s.node, cls := .poll
                         object := (s.img.defs.at d).object, verb := 0, payload := [] } (s.now + 154 * Config.usec)
      alternation := .poll
      tx := some { kind := .poll, node := (s.img.defs.at d).node, object := (s.img.defs.at d).object, origin := .entry d
                   discard := false } } } := by
  have last : d = 95 ↔ d.val = 95 := Fin.ext_iff
  have pointer : (d + 1 : Fin 96) = if d.val = 95 then 0 else d + 1 := by
    split
    · next at_ =>
      rw [last.mpr at_]
      rfl
    · rfl
  have pass : (if d = 95 then p + 1 else p) = if d.val = 95 then p + 1 else p := if_congr last rfl rfl
  rw [← pointer, ← pass]
  rfl

/-- Settles O37: the arbiter's choice of a poll, and the end of its frame. -/
theorem pollBegins : Obligations.PollBegins := by
  intro s d p settled free choice o f stop t
  obtain ⟨node, agenda, owed, choose, restarting⟩ := settled
  let asked : State := { s with dls := { s.dls with choose := true } }
  have started : asked.chooseNext = t := by
    have calm : State.chooseNext asked = s.startPoll d p := by
      have same : ({ asked with dls := { asked.dls with choose := false } } : State) = s := by rw [← choose]
      unfold State.chooseNext
      dsimp only
      rw [if_pos free, same]
      exact s.arbitrate_poll d p 31 choice
    exact calm.trans (s.startPoll_eq d p)
  have idle : Settled t := ⟨node, agenda, owed, choose, restarting⟩
  refine ⟨?_, rfl, fun dest => ?_⟩
  · have chosen : asked.settled = asked.chooseNext.settle 4095 := asked.settle_choose 4095 owed agenda rfl
    rw [started] at chosen
    exact chosen.trans (t.settle_quiet 4095 agenda owed choose)
  · have line : t.dls.line = .sending f stop := rfl
    have later : max t.now stop = stop := Nat.max_eq_right (Nat.le_add_right _ _)
    refine t.act_exact _ (·.deckFrameSent) idle ((t.deckFrameSent_eq f stop line).trans ?_) rfl rfl rfl
    rw [later, if_neg (show f.dest ≠ 63 from dest)]
    rfl

end Sys2Proof.Machine
end

section
/-! SUPPORT. The commands of a ramp channel (R84 to R90). -/

namespace Sys2Proof.Machine

open Sys2Proof

/-! ### The checks -/

theorem State.testingOn_iff (s : State) (ch : Channel) :
    s.testingOn ch = true ↔ ∃ p, s.fc.test = some p ∧ p.id.channel? = some ch := by
  unfold State.testingOn
  cases test : s.fc.test with
  | none => simp
  | some p => simp

theorem RampParams.permit_eq (p : RampParams) (d : Dir) :
    p.permit d = if d = .raise then p.raisePermit else p.lowerPermit := by
  cases d <;> rfl

/-- Settles O38: the seven checks are nested as they are listed. -/
theorem rampChecksInOrder : Obligations.RampChecksInOrder := by
  intro s ch d jog r permit c1 c2 c3 c4 c5 c6 c7
  have testing : s.testingOn ch = true ↔ c3 := s.testingOn_iff ch
  have asked : r.params.permit d = permit := r.params.permit_eq d
  have checks : s.rampChecks ch d jog =
      if c1 then some (.refuse .deckCondition) else if c2 then some (.refuse .estop)
      else if s.testingOn ch = true then some (.code .testing) else if c4 then some (.refuse .corrupt)
      else if c5 then some (.code .notReferenced)
      else if s.condition (r.params.permit d) = false then some (.refuse (.conditionFalse (r.params.permit d)))
      else if c7 then some (.refuse .state) else none := rfl
  rw [checks, asked]
  simp only [testing]
  refine ⟨fun h1 => if_pos h1, fun h1 h2 => ?_, fun h1 h2 h3 => ?_, fun h1 h2 h3 h4 => ?_, fun h1 h2 h3 h4 h5 => ?_,
    fun h1 h2 h3 h4 h5 h6 => ?_, fun h1 h2 h3 h4 h5 h6 h7 => ?_, fun h1 h2 h3 h4 h5 h6 h7 => ?_⟩
  · rw [if_neg h1, if_pos h2]
  · rw [if_neg h1, if_neg h2, if_pos h3]
  · rw [if_neg h1, if_neg h2, if_neg h3, if_pos h4]
  · rw [if_neg h1, if_neg h2, if_neg h3, if_neg h4, if_pos h5]
  · rw [if_neg h1, if_neg h2, if_neg h3, if_neg h4, if_neg h5, if_pos h6]
  · rw [if_neg h1, if_neg h2, if_neg h3, if_neg h4, if_neg h5, if_neg h6, if_pos h7]
  · rw [if_neg h1, if_neg h2, if_neg h3, if_neg h4, if_neg h5, if_neg h6, if_neg h7]

/-! ### The silence mark and the answers -/

theorem State.markSilence_ramp (s : State) (ch : Channel) :
    (s.markSilence ch).ramp ch = { s.ramp ch with silence := s.value 10 == 1 } := State.ramp_setRamp_self _ _ _

theorem State.markSilence_eq (s : State) (ch : Channel) :
    s.markSilence ch = s.setRamp ch { s.ramp ch with silence := decide (s.img.locals.at 10 = 1) } := rfl

/-- A channel that is refused a command has taken its silence mark (R84). -/
theorem State.actRequest_markedRefused (s : State) (ch : Channel) (q : Request) (reason : Reason) (settled : Settled s)
    (room : HasRoom s) (f : State → State) (own : f s = (s.markSilence ch).refuse q.source ch.object reason) :
    s.actRequest f = .next ((s.markSilence ch).refusedWith q ch.object reason) :=
  s.actRequest_exact _ f settled (own.trans ((s.markSilence ch).refuse_refused q ch.object reason room))
    (State.queued_agenda _ _) (congrArg Fc.owed (State.queued_fc _ _)) (State.queued_calm _ _).dls

theorem State.replied_fc (s : State) (q : Request) (object : Byte) (code : Result) (payload : List Byte) :
    (s.replied q object code payload).fc = s.fc := s.queued_fc _

theorem State.replied_ramp (s : State) (q : Request) (object : Byte) (code : Result) (payload : List Byte) (ch : Channel) :
    (s.replied q object code payload).ramp ch = s.ramp ch := by
  rw [State.ramp, (s.replied_calm q object code payload).ramps]
  rfl

theorem State.replied_testingOn (s : State) (q : Request) (object : Byte) (code : Result) (payload : List Byte)
    (ch : Channel) : (s.replied q object code payload).testingOn ch = s.testingOn ch :=
  State.testingOn_eq ch (s.replied_calm q object code payload).test

theorem State.rampChecks_untested (s : State) (ch : Channel) (d : Dir) (jog : Bool) (passed : s.rampChecks ch d jog = none) :
    s.testingOn ch = false := by
  cases testing : s.testingOn ch with
  | false => rfl
  | true =>
    unfold State.rampChecks at passed
    dsimp only at passed
    rw [testing] at passed
    split at passed
    · exact absurd passed nofun
    · split at passed <;> exact absurd passed nofun

/-! ### A channel that enters a state with no proof test on it -/

theorem State.enterRamp_halting_cl (s : State) (ch : Channel) (untested : s.testingOn ch = false) :
    (s.enterRamp ch .halting).cl = s.cl := by
  unfold State.enterRamp
  extract_lets entered written aborted called
  have same : aborted = written :=
    State.abortTestOn_none _ _ ((State.testingOn_eq ch (State.writeLocal_calm _ _ _).test).trans untested)
  have stays : called = aborted := rfl
  rw [State.formBeacons_cl, stays, same]
  exact (State.writeLocal_calm _ _ _).cl

/-- The call that announces a channel that starts (R81). -/
def Announces (ch : Channel) (r : Ramp) (t : State) : Prop :=
  ∃ x, t.cl.calls.at ch.callEntry = some x ∧ x.origin = .ramp ch ∧ x.zones = r.params.zones
    ∧ x.message = r.params.message ∧ x.priority = .safety ∧ x.reps = 0 ∧ x.pattern = r.params.pattern

theorem State.enterRamp_announces (s : State) (ch : Channel) (st : RampState) (announced : st = .starting ∨ st = .jog) :
    Announces ch (s.ramp ch) (s.enterRamp ch st) := by
  obtain ⟨x, listed, key⟩ := (s.enterRamp_call ch st).2 announced
  simp only [Call.key, Prod.mk.injEq] at key
  exact ⟨x, listed, key⟩

/-- The record of a channel in STARTING: its direction, its pins driven out with their timer unless they are out
(R90). -/
def Ramp.started (r : Ramp) (d : Dir) (now : Nat) : Ramp :=
  { r with
    state := .starting, dir := d, pendingStart := .none, integrator := 0
    buffered := .off, active := .off, pinOut := !r.pinsOut.level, pinIn := false
    pinTimer := if r.pinsOut.level then none else some (now + r.params.tPin * (100 * Config.msec))
    warnTimer := none, warned := false, deadTimer := none }

/-- The pins driven out unless they are out (R90). -/
def State.pinsDriven (s : State) (ch : Channel) : State :=
  if (s.ramp ch).pinsOut.level then s else s.drivePinsOut ch

theorem State.pinsDriven_frame (s : State) (ch : Channel) (r : Ramp) (record : s.ramp ch = r) (off : r.pinOut = false)
    (stopped : r.pinTimer = none) :
    (s.pinsDriven ch).ramp ch = { r with
        pinOut := !r.pinsOut.level
        pinTimer := if r.pinsOut.level then none else some (s.now + r.params.tPin * (100 * Config.msec)) }
      ∧ (s.pinsDriven ch).bli = s.bli ∧ (s.pinsDriven ch).fc = s.fc ∧ (s.pinsDriven ch).img = s.img
      ∧ (s.pinsDriven ch).cl = s.cl := by
  subst record
  unfold State.pinsDriven
  cases out : (s.ramp ch).pinsOut.level with
  | true => exact ⟨by simp [← off, ← stopped], rfl, rfl, rfl, rfl⟩
  | false =>
    rw [if_neg (by decide), State.drivePinsOut, State.ramp_setRamp_self]
    exact ⟨rfl, rfl, rfl, rfl, rfl⟩

theorem State.startRamp_eq (s : State) (ch : Channel) (d : Dir) : s.startRamp ch d =
    ((s.setRamp ch { s.ramp ch with dir := d, pendingStart := .none }).enterRamp ch .starting).pinsDriven ch := rfl

theorem State.entered_frame (s : State) (ch : Channel) (st : RampState) (r : Ramp) (record : s.ramp ch = r)
    (untested : s.testingOn ch = false) :
    (s.enterRamp ch st).ramp ch = r.enter st ∧ (s.enterRamp ch st).bli = s.bli ∧ (s.enterRamp ch st).fc = s.fc
      ∧ (s.enterRamp ch st).img.locals.at ch.stateEntry = st.code ∧ (s.enterRamp ch st).now = s.now := by
  obtain ⟨entered, bli, fc⟩ := s.enterRamp_quiet ch st untested
  obtain ⟨entry, now, -⟩ := s.enterRamp_published ch st
  exact ⟨record ▸ entered, bli, fc, entry, now⟩

theorem Ramp.enter_starting (r : Ramp) (d : Dir) (now : Nat) (fresh : r.state ≠ .starting) (t : Ramp)
    (entered : t = ({ r with dir := d, pendingStart := .none } : Ramp).enter .starting) :
    { t with
      pinOut := !t.pinsOut.level
      pinTimer := if t.pinsOut.level then none else some (now + t.params.tPin * (100 * Config.msec)) }
      = r.started d now := by
  subst entered
  simp [Ramp.enter, Ramp.started, fresh, RampState.isRest, RampState.isMotion]

theorem State.startRamp_frame (s : State) (ch : Channel) (d : Dir) (untested : s.testingOn ch = false)
    (fresh : (s.ramp ch).state ≠ .starting) :
    (s.startRamp ch d).bli = s.bli ∧ (s.startRamp ch d).fc = s.fc
      ∧ (s.startRamp ch d).ramp ch = (s.ramp ch).started d s.now
      ∧ (s.startRamp ch d).img.locals.at ch.stateEntry = 2 ∧ Announces ch (s.ramp ch) (s.startRamp ch d) := by
  have marked := State.ramp_setRamp_self s ch { s.ramp ch with dir := d, pendingStart := .none }
  obtain ⟨record, bli, fc, entry, now⟩ := State.entered_frame _ ch .starting _ marked untested
  have call := State.enterRamp_announces (s.setRamp ch { s.ramp ch with dir := d, pendingStart := .none })
    ch .starting (.inl rfl)
  rw [marked] at call
  rw [s.startRamp_eq ch d]
  generalize State.enterRamp _ ch .starting = entered at record bli fc entry now call ⊢
  obtain ⟨driven, bli', fc', img, cl⟩ := entered.pinsDriven_frame ch _ record rfl rfl
  refine ⟨bli'.trans bli, fc'.trans fc, driven.trans ?_, (congrArg (·.locals.at ch.stateEntry) img).trans entry, ?_⟩
  · rw [now]
    exact (s.ramp ch).enter_starting d s.now fresh _ rfl
  · rw [Announces, cl]
    exact call

/-! ### LOWER and RAISE -/

theorem exec_move {c : Instr} {ch : Channel} {n : NodeNo} {d : Dir}
    (move : d = .lower ∧ c = .lower ch ⟨n, []⟩ ∨ d = .raise ∧ c = .raise ch ⟨n, []⟩) (s : State) :
    exec c s = s.actRequest (·.moveRamp ch d ⟨n, []⟩) := by
  obtain ⟨rfl, rfl⟩ | ⟨rfl, rfl⟩ := move <;> rfl

theorem State.moveRamp_turnedAway (s : State) (ch : Channel) (d : Dir) (n : NodeNo) (a : Answer)
    (fails : (s.markSilence ch).rampChecks ch d false = some a) :
    s.moveRamp ch d ⟨n, []⟩ = (s.markSilence ch).answer n ch.object a := by
  unfold State.moveRamp
  dsimp only
  rw [if_neg (by simp), fails]

theorem State.moveRamp_passed (s : State) (ch : Channel) (d : Dir) (n : NodeNo)
    (passes : (s.markSilence ch).rampChecks ch d false = none) :
    s.moveRamp ch d ⟨n, []⟩ = (s.markSilence ch).moveByState ch d n := by
  unfold State.moveRamp
  dsimp only
  rw [if_neg (by simp), passes]

/-- The reply by state of a LOWER or RAISE that changes nothing (R85). -/
def moveAnswer (d : Dir) (st : RampState) : Answer → Prop
  | .refuse r => r = .state ∧ (st = .disabled ∨ st = .fault)
  | .code .done => d = .raise ∧ st = .stowedLocked ∨ d = .lower ∧ (st = .lowering ∨ st = .landing ∨ st = .landed)
      ∨ d = .raise ∧ (st = .raising ∨ st = .stowing)
  | .code .busy => st = .starting ∨ st = .locking ∨ st = .halting ∨ d = .raise ∧ (st = .lowering ∨ st = .landing)
      ∨ d = .lower ∧ (st = .raising ∨ st = .stowing)
  | .code _ => False

theorem State.moveByState_answers (s : State) (ch : Channel) (d : Dir) (n : NodeNo) (a : Answer)
    (answered : moveAnswer d (s.ramp ch).state a) : s.moveByState ch d n = s.answer n ch.object a := by
  unfold State.moveByState
  dsimp only
  cases a with
  | refuse r =>
    obtain ⟨rfl, state | state⟩ := answered
    · rw [state]; rfl
    · rw [state]; rfl
  | code k =>
    cases k with
    | done =>
      obtain ⟨rfl, state⟩ | ⟨rfl, state | state | state⟩ | ⟨rfl, state | state⟩ := answered
      all_goals rw [state]; rfl
    | busy =>
      obtain state | state | state | ⟨rfl, state | state⟩ | ⟨rfl, state | state⟩ := answered
      all_goals rw [state]; rfl
    | _ => exact answered.elim

theorem State.moveByState_starts (s : State) (ch : Channel) (d : Dir) (n : NodeNo)
    (starts : d = .lower ∧ (s.ramp ch).state = .stowedLocked ∨ d = .raise ∧ (s.ramp ch).state = .landed
      ∨ (s.ramp ch).state = .halted) :
    s.moveByState ch d n = (s.reply n ch.object .accepted).startRamp ch d := by
  unfold State.moveByState
  dsimp only
  obtain ⟨rfl, state⟩ | ⟨rfl, state⟩ | state := starts
  · rw [state]
    rfl
  · rw [state]
    rfl
  · rw [state]

theorem State.moveByState_jog (s : State) (ch : Channel) (d : Dir) (n : NodeNo) (jog : (s.ramp ch).state = .jog) :
    s.moveByState ch d n = (s.reply n ch.object .accepted).pendStart ch d := by
  unfold State.moveByState
  dsimp only
  rw [jog]

/-- The record of a jog that halts with a start recorded (R86). -/
def Ramp.pended (r : Ramp) (d : Dir) : Ramp :=
  { r with
    state := .halting, pendingStart := d, deadTimer := none, pinOut := false, pinIn := false
    pinTimer := none, warnTimer := none, warned := false, haltSign := r.jogSign }

theorem Ramp.enter_pended (r : Ramp) (d : Dir) (jog : r.state = .jog) :
    ({ r with pendingStart := d } : Ramp).enter .halting = r.pended d := by
  simp [Ramp.enter, Ramp.pended, Ramp.signAtHalt, Ramp.jogSign, jog, RampState.isRest, RampState.isMotion]

theorem State.pendStart_eq (s : State) (ch : Channel) (d : Dir) :
    s.pendStart ch d = (s.setRamp ch { s.ramp ch with pendingStart := d }).enterRamp ch .halting := rfl

theorem State.pendStart_frame (s : State) (ch : Channel) (d : Dir) (untested : s.testingOn ch = false)
    (jog : (s.ramp ch).state = .jog) :
    (s.pendStart ch d).bli = s.bli ∧ (s.pendStart ch d).fc = s.fc
      ∧ (s.pendStart ch d).ramp ch = (s.ramp ch).pended d
      ∧ (s.pendStart ch d).cl = s.cl ∧ (s.pendStart ch d).img.locals.at ch.stateEntry = 9 := by
  have marked := State.ramp_setRamp_self s ch { s.ramp ch with pendingStart := d }
  obtain ⟨record, bli, fc, entry, -⟩ := State.entered_frame _ ch .halting _ marked untested
  have calls := (s.setRamp ch { s.ramp ch with pendingStart := d }).enterRamp_halting_cl ch untested
  rw [s.pendStart_eq ch d]
  generalize State.enterRamp _ ch .halting = entered at record bli fc entry calls ⊢
  exact ⟨bli, fc, record.trans ((s.ramp ch).enter_pended d jog), calls, entry⟩

/-- Settles O39: the checks first, then the state decides. -/
theorem moveJudged : Obligations.MoveJudged := by
  refine ⟨fun s ch n d c settled room move => ?_, fun s ch n d c settled room move => ?_⟩
  · intro q u st
    have state : (u.ramp ch).state = st := by
      rw [s.markSilence_ramp ch]
    have refused (r : Reason) (own : s.moveRamp ch d q = u.refuse n ch.object r) :
        exec c s = .next (u.refusedWith q ch.object r) :=
      (exec_move move s).trans (s.actRequest_markedRefused ch q r settled room _ own)
    have replied (k : Result) (own : s.moveRamp ch d q = u.reply n ch.object k) :
        exec c s = .next (u.replied q ch.object k) :=
      (exec_move move s).trans (s.actRequest_marked ch q k settled room _ own)
    refine ⟨s.markSilence_eq ch, fun r fails => refused r (s.moveRamp_turnedAway ch d n _ fails),
      fun k fails => replied k (s.moveRamp_turnedAway ch d n _ fails), fun passes => ?_⟩
    have own (a : Answer) (answered : moveAnswer d st a) : s.moveRamp ch d q = u.answer n ch.object a :=
      (s.moveRamp_passed ch d n passes).trans (u.moveByState_answers ch d n a (state ▸ answered))
    exact ⟨fun away => refused _ (own (.refuse .state) ⟨rfl, away⟩), fun done => replied _ (own (.code .done) done),
      fun busy => replied _ (own (.code .busy) busy)⟩
  · intro q u r passes
    have untested : u.testingOn ch = false :=
      (State.replied_testingOn _ _ _ _ _ ch).trans ((s.markSilence ch).rampChecks_untested ch d false passes)
    have record : u.ramp ch = (s.markSilence ch).ramp ch := State.replied_ramp _ _ _ _ _ ch
    have now : u.now = s.now := (State.replied_calm _ _ _ _ _).now
    have accepted : (s.markSilence ch).reply n ch.object .accepted = u :=
      (s.markSilence ch).reply_replied q ch.object .accepted [] room
    obtain ⟨node, -, -, -, restarting⟩ := settled
    have act (t : State) (own : (s.markSilence ch).moveByState ch d n = t) : exec c s = .next t.settled :=
      (exec_move move s).trans (s.actRequest_own _ _ node restarting ((s.moveRamp_passed ch d n passes).trans own))
    refine ⟨fun starts => ?_, fun jog => ?_⟩
    · intro t
      have own := (s.markSilence ch).moveByState_starts ch d n (record ▸ starts)
      rw [accepted] at own
      have fresh : (u.ramp ch).state ≠ .starting := by
        obtain ⟨-, state⟩ | ⟨-, state⟩ | state := starts
        all_goals exact fun other => absurd (state.symm.trans other) (by decide)
      obtain ⟨bli, fc, started, entry, call⟩ := u.startRamp_frame ch d untested fresh
      exact ⟨act _ own, (RampOnly.refl ch u).startRamp d, bli, fc, now ▸ started, entry, call⟩
    · have own := (s.markSilence ch).moveByState_jog ch d n (record ▸ jog)
      rw [accepted] at own
      obtain ⟨bli, fc, pending, cl, entry⟩ := u.pendStart_frame ch d untested jog
      have only := (RampOnly.refl ch u).pendStart d
      have runs := act _ own
      generalize u.pendStart ch d = t at *
      exact ⟨runs, only, bli, fc, pending, cl, entry⟩

/-! ### RAMP_STOP -/

theorem State.markSilence_testingOn (s : State) (ch : Channel) : (s.markSilence ch).testingOn ch = s.testingOn ch := rfl

theorem State.stopRamp_testing (s : State) (ch : Channel) (n : NodeNo) (testing : s.testingOn ch = true) :
    s.stopRamp ch ⟨n, []⟩ = (s.markSilence ch).reply n ch.object .testing := by
  unfold State.stopRamp
  exact (if_neg (by simp)).trans (if_pos testing)

theorem State.stopRamp_taken (s : State) (ch : Channel) (n : NodeNo) (untested : s.testingOn ch = false) :
    s.stopRamp ch ⟨n, []⟩ = ((s.markSilence ch).reply n ch.object .done).haltRamp ch := by
  unfold State.stopRamp
  exact (if_neg (by simp)).trans (if_neg (ne_true_of_eq_false untested))

theorem State.haltRamp_stays (s : State) (ch : Channel)
    (stays : (s.ramp ch).state ∈ [.disabled, .stowedLocked, .landed, .halted, .locking, .fault]) : s.haltRamp ch = s := by
  unfold State.haltRamp
  simp only [List.mem_cons, List.not_mem_nil, or_false] at stays
  obtain state | state | state | state | state | state := stays
  all_goals rw [state]

theorem State.haltRamp_halting (s : State) (ch : Channel) (halting : (s.ramp ch).state = .halting) :
    s.haltRamp ch = s.setRamp ch { s.ramp ch with pendingStart := .none } := by
  unfold State.haltRamp
  rw [halting]

theorem State.haltRamp_enters (s : State) (ch : Channel)
    (moves : (s.ramp ch).state ∈ [.lowering, .landing, .raising, .stowing, .jog, .starting]) :
    s.haltRamp ch = s.enterRamp ch (if (s.ramp ch).state = .starting then .halted else .halting) := by
  unfold State.haltRamp
  simp only [List.mem_cons, List.not_mem_nil, or_false] at moves
  obtain state | state | state | state | state | state := moves
  all_goals
    rw [state]
    rfl

/-- What a channel that has entered a state has of its drives, its timers and its measurement. -/
structure Entered (r t : Ramp) (st : RampState) : Prop where
  state : t.state = st
  pinOut : t.pinOut = false
  pinIn : t.pinIn = false
  pinTimer : t.pinTimer = none
  warnTimer : t.warnTimer = none
  deadTimer : t.deadTimer = none
  x : t.x = r.x
  vCmd : t.vCmd = r.vCmd
  referenced : t.referenced = r.referenced
  params : t.params = r.params
  cause : t.cause = r.cause
  motionTime : t.motionTime = if st = .jog ∨ r.state = .starting then 0 else r.motionTime
  integrator : t.integrator = if st.isMotion then r.integrator else 0
  haltSign : t.haltSign = if st = .halting then r.signAtHalt else r.haltSign
  settle : t.settle = if st = .landing ∨ st = .stowing then 0 else r.settle
  lift : t.lift = if st = .landed then 0 else r.lift
  stall : t.stall = r.stall
  dir : t.dir = if st.isRest then .none else r.dir
  pinsIn : t.pinsIn = r.pinsIn
  land : t.land = r.land
  s : t.s = r.s
  pendingStart : t.pendingStart = r.pendingStart

theorem Ramp.enter_entered (r : Ramp) (st : RampState) (o v : Nat) :
    Entered r { r.enter st with overspeed := o, overload := v } st :=
  ⟨rfl, rfl, rfl, rfl, rfl, rfl, rfl, rfl, rfl, rfl, rfl, rfl, rfl, rfl, rfl, rfl, rfl, rfl, rfl, rfl, rfl, rfl⟩

theorem State.enterRamp_entered (s : State) (ch : Channel) (st : RampState) :
    Entered (s.ramp ch) ((s.enterRamp ch st).ramp ch) st := by
  obtain ⟨o, v, -, -, record⟩ := s.enterRamp_record ch st
  rw [record]
  exact (s.ramp ch).enter_entered st o v

theorem State.haltRamp_moves (s : State) (ch : Channel) (untested : s.testingOn ch = false)
    (moves : (s.ramp ch).state ∈ [.lowering, .landing, .raising, .stowing, .jog, .starting]) :
    Entered (s.ramp ch) ((s.haltRamp ch).ramp ch) (if (s.ramp ch).state = .starting then .halted else .halting)
      ∧ (s.haltRamp ch).bli = s.bli ∧ (s.haltRamp ch).now = s.now
      ∧ (s.haltRamp ch).img.locals.at ch.stateEntry = ((s.haltRamp ch).ramp ch).state.code
      ∧ ((s.haltRamp ch).ramp ch).motionTime
          = (if (s.ramp ch).state = .starting then 0 else (s.ramp ch).motionTime) := by
  have enters := s.haltRamp_enters ch moves
  have target : (if (s.ramp ch).state = .starting then RampState.halted else .halting) ≠ .jog := by
    split <;> decide
  generalize (if (s.ramp ch).state = .starting then RampState.halted else .halting) = st at enters target ⊢
  have entered := s.enterRamp_entered ch st
  obtain ⟨-, bli, -, entry, now⟩ := s.entered_frame ch st _ rfl untested
  rw [enters]
  refine ⟨entered, bli, now, entry.trans (congrArg RampState.code entered.state).symm, entered.motionTime.trans ?_⟩
  simp only [target, false_or]

/-! ### RESET_FAULT -/

theorem State.resetRamp_testing (s : State) (ch : Channel) (n : NodeNo) (testing : s.testingOn ch = true) :
    s.resetRamp ch ⟨n, []⟩ = (s.markSilence ch).reply n ch.object .testing := by
  unfold State.resetRamp
  exact (if_neg (by simp)).trans (if_pos testing)

theorem State.resetRamp_sound (s : State) (ch : Channel) (n : NodeNo) (untested : s.testingOn ch = false)
    (sound : (s.ramp ch).state ≠ .fault) : s.resetRamp ch ⟨n, []⟩ = (s.markSilence ch).reply n ch.object .done := by
  unfold State.resetRamp
  refine (if_neg (by simp)).trans ((if_neg (ne_true_of_eq_false untested)).trans (if_neg ?_))
  rwa [s.markSilence_ramp ch]

theorem State.causePresent_iff (s : State) (ch : Channel) : (s.markSilence ch).causePresent ch = true
    ↔ (s.ramp ch).params.pMax < (s.ramp ch).lastSample.toNat ∨ s.estop.level = true := by
  rw [State.causePresent, s.markSilence_ramp ch]
  simp [State.markSilence]

theorem State.resetRamp_present (s : State) (ch : Channel) (n : NodeNo) (untested : s.testingOn ch = false)
    (fault : (s.ramp ch).state = .fault) (present : (s.markSilence ch).causePresent ch = true) :
    s.resetRamp ch ⟨n, []⟩ = (s.markSilence ch).refuse n ch.object .state := by
  unfold State.resetRamp
  refine (if_neg (by simp)).trans ((if_neg (ne_true_of_eq_false untested)).trans ((if_pos ?_).trans (if_pos present)))
  rwa [s.markSilence_ramp ch]

/-- The end of a fault, by the two switches (R89). -/
def State.faultEnded (s : State) (ch : Channel) : State :=
  (s.setRamp ch { s.ramp ch with cause := .none }).enterRamp ch
    (if (s.ramp ch).stow.level && (s.ramp ch).pinsIn.level then .stowedLocked else .halted)

theorem State.resetRamp_taken (s : State) (ch : Channel) (n : NodeNo) (untested : s.testingOn ch = false)
    (fault : (s.ramp ch).state = .fault) (gone : (s.markSilence ch).causePresent ch ≠ true) :
    s.resetRamp ch ⟨n, []⟩ = ((s.markSilence ch).reply n ch.object .done).faultEnded ch := by
  unfold State.resetRamp
  refine (if_neg (by simp)).trans ((if_neg (ne_true_of_eq_false untested)).trans ((if_pos ?_).trans (if_neg gone)))
  rwa [s.markSilence_ramp ch]

theorem State.faultEnded_frame (s : State) (ch : Channel) (untested : s.testingOn ch = false) :
    (s.faultEnded ch).bli = s.bli ∧ (s.faultEnded ch).fc = s.fc ∧ (s.faultEnded ch).now = s.now
      ∧ Entered { s.ramp ch with cause := .none } ((s.faultEnded ch).ramp ch)
        (if (s.ramp ch).stow.level = true ∧ (s.ramp ch).pinsIn.level = true then .stowedLocked else .halted)
      ∧ ((s.faultEnded ch).ramp ch).integrator = 0 := by
  have marked := State.ramp_setRamp_self s ch { s.ramp ch with cause := .none }
  obtain ⟨record, bli, fc, -, now⟩ := State.entered_frame _ ch
    (if (s.ramp ch).stow.level && (s.ramp ch).pinsIn.level then .stowedLocked else .halted) _ marked untested
  refine ⟨bli, fc, now, ?_⟩
  have rest : RampState.isMotion
      (if (s.ramp ch).stow.level && (s.ramp ch).pinsIn.level then .stowedLocked else .halted) = false := by
    split <;> rfl
  refine ⟨?_, (congrArg Ramp.integrator record).trans (if_neg (ne_true_of_eq_false rest))⟩
  simp only [Bool.and_eq_true] at record
  have entered := Ramp.enter_entered { s.ramp ch with cause := .none }
    (if (s.ramp ch).stow.level = true ∧ (s.ramp ch).pinsIn.level = true then .stowedLocked else .halted)
    (s.ramp ch).overspeed (s.ramp ch).overload
  unfold State.faultEnded
  simp only [Bool.and_eq_true]
  rw [record]
  exact entered

/-- Settles O40: RAMP_STOP by the state it halts, RESET_FAULT by the cause. -/
theorem stopAndResetFault : Obligations.StopAndResetFault := by
  refine ⟨fun s ch n settled room => ?_, fun s ch n settled room => ?_⟩
  · intro q m u r out
    have record : u.ramp ch = m.ramp ch := State.replied_ramp _ _ _ _ _ ch
    have done : m.reply n ch.object .done = u := m.reply_replied q ch.object .done [] room
    refine ⟨fun testing => s.actRequest_marked ch q .testing settled room (·.stopRamp ch q)
      (s.stopRamp_testing ch n testing), fun untested => ?_⟩
    have taken : s.stopRamp ch q = u.haltRamp ch := by
      rw [← done]
      exact s.stopRamp_taken ch n untested
    have quiet : u.testingOn ch = false := (m.replied_testingOn q _ _ _ ch).trans untested
    refine ⟨fun stays => s.actRequest_marked ch q .done settled room (·.stopRamp ch q) ?_, fun halting => ?_,
      fun moves => ?_⟩
    · exact taken.trans ((u.haltRamp_stays ch stays).trans done.symm)
    · exact s.actRequest_exact _ (·.stopRamp ch q) settled (taken.trans (u.haltRamp_halting ch halting))
        (State.queued_agenda _ _) (congrArg Fc.owed (State.queued_fc _ _)) (State.queued_calm _ _).dls
    · obtain ⟨entered, bli, now, entry, time⟩ := u.haltRamp_moves ch quiet moves
      obtain ⟨node, -, -, -, restarting⟩ := settled
      exact ⟨u.haltRamp ch, s.actRequest_own _ (·.stopRamp ch q) node restarting taken, u.haltRamp_only ch,
        now.trans (m.replied_calm _ _ _ _).now, bli, entered.state, entered.pinOut, entered.pinIn, entered.pinTimer,
        entered.warnTimer, entered.deadTimer, time, entered.x, entered.vCmd, entered.referenced, entered.params, entry⟩
  · intro q m u r out present
    have record : u.ramp ch = { r with silence := s.value 10 == 1 } :=
      (m.replied_ramp q _ _ _ ch).trans (s.markSilence_ramp ch)
    have done : m.reply n ch.object .done = u := m.reply_replied q ch.object .done [] room
    refine ⟨fun testing => s.actRequest_marked ch q .testing settled room (·.resetRamp ch q)
        (s.resetRamp_testing ch n testing),
      fun untested sound => s.actRequest_marked ch q .done settled room (·.resetRamp ch q)
        (s.resetRamp_sound ch n untested sound),
      fun untested fault there => s.actRequest_markedRefused ch q .state settled room (·.resetRamp ch q)
        (s.resetRamp_present ch n untested fault ((s.causePresent_iff ch).mpr there)), fun untested fault gone => ?_⟩
    have taken : s.resetRamp ch q = u.faultEnded ch := by
      rw [← done]
      exact s.resetRamp_taken ch n untested fault (mt (s.causePresent_iff ch).mp gone)
    obtain ⟨bli, fc, now, entered, drive⟩ := u.faultEnded_frame ch ((m.replied_testingOn q _ _ _ ch).trans untested)
    rw [record] at entered
    obtain ⟨node, -, -, -, restarting⟩ := settled
    have only : RampOnly ch u (u.faultEnded ch) := ((RampOnly.refl ch u).setRamp _).enterRamp _
    exact ⟨u.faultEnded ch, s.actRequest_own _ (·.resetRamp ch q) node restarting taken, only,
      now.trans (m.replied_calm _ _ _ _).now, bli, fc.trans (m.replied_fc _ _ _ _), entered.cause, entered.state,
      entered.referenced, entered.x, drive, entered.vCmd⟩

/-! ### JOG -/

theorem jogForm_eq (d : Dir) (db hi lo : Byte) (form : db = 0 ∧ d = .lower ∨ db = 1 ∧ d = .raise)
    (low : 1 ≤ word16 hi lo) (high : word16 hi lo ≤ 8000) : jogForm [db, hi, lo] = some (d, word16 hi lo) := by
  unfold jogForm
  obtain ⟨rfl, rfl⟩ | ⟨rfl, rfl⟩ := form
  · exact if_pos ⟨by decide, low, high⟩
  · exact if_pos ⟨by decide, low, high⟩

theorem State.jogRamp_turnedAway (s : State) (ch : Channel) (d : Dir) (speed : Nat) (q : Request) (a : Answer)
    (form : jogForm q.payload = some (d, speed)) (fails : (s.markSilence ch).rampChecks ch d true = some a) :
    s.jogRamp ch q = (s.markSilence ch).answer q.source ch.object a := by
  unfold State.jogRamp
  dsimp only
  rw [form]
  dsimp only
  rw [fails]

theorem State.jogRamp_passed (s : State) (ch : Channel) (d : Dir) (speed : Nat) (q : Request)
    (form : jogForm q.payload = some (d, speed)) (passes : (s.markSilence ch).rampChecks ch d true = none) :
    s.jogRamp ch q = (s.markSilence ch).jogByState ch d speed q.source := by
  unfold State.jogRamp
  dsimp only
  rw [form]
  dsimp only
  rw [passes]

theorem State.jogByState_refused (s : State) (ch : Channel) (d : Dir) (speed : Nat) (n : NodeNo)
    (away : (s.ramp ch).state ∈ [.stowedLocked, .fault, .disabled]
      ∨ ((s.ramp ch).state = .halted ∨ (s.ramp ch).state = .landed) ∧ (s.ramp ch).pinsOut.level = false) :
    s.jogByState ch d speed n = s.refuse n ch.object .state := by
  unfold State.jogByState
  dsimp only
  simp only [List.mem_cons, List.not_mem_nil, or_false] at away
  obtain (state | state | state) | ⟨state | state, locked⟩ := away
  · rw [state]
  · rw [state]
  · rw [state]
  · rw [state]
    exact if_neg (ne_true_of_eq_false locked)
  · rw [state]
    exact if_neg (ne_true_of_eq_false locked)

theorem State.jogByState_busy (s : State) (ch : Channel) (d : Dir) (speed : Nat) (n : NodeNo)
    (busy : (s.ramp ch).state ∈ [.starting, .locking, .lowering, .landing, .raising, .stowing, .halting]) :
    s.jogByState ch d speed n = s.reply n ch.object .busy := by
  unfold State.jogByState
  dsimp only
  simp only [List.mem_cons, List.not_mem_nil, or_false] at busy
  obtain state | state | state | state | state | state | state := busy
  all_goals rw [state]

/-- A record that takes a JOG frame at an instant (R87). -/
def Ramp.jogged (r : Ramp) (d : Dir) (speed now : Nat) : Ramp :=
  { r with
    dir := d, jogSpeed := speed
    vTarget := d.sign * (min speed (if r.referenced then r.params.vMax else r.params.vCreep) : Nat)
    deadTimer := some (now + 300 * Config.msec) }

theorem State.setRamp_setRamp (s : State) (ch : Channel) (r r' : Ramp) :
    (s.setRamp ch r).setRamp ch r' = s.setRamp ch r' := by
  cases ch <;> rfl

theorem State.startDeadMan_taken (s : State) (ch : Channel) (d : Dir) (speed : Nat) :
    (s.setRamp ch ((s.ramp ch).takeJog d speed)).startDeadMan ch = s.setRamp ch ((s.ramp ch).jogged d speed s.now) := by
  rw [State.startDeadMan, State.ramp_setRamp_self, s.setRamp_setRamp]
  rfl

theorem State.jogByState_again (s : State) (ch : Channel) (d : Dir) (speed : Nat) (n : NodeNo)
    (jog : (s.ramp ch).state = .jog) : s.jogByState ch d speed n =
      ((s.reply n ch.object .done).setRamp ch
        (((s.reply n ch.object .done).ramp ch).takeJog d speed)).startDeadMan ch := by
  unfold State.jogByState
  dsimp only
  rw [jog]

/-- A jog that begins (R87). -/
def State.startJog (s : State) (ch : Channel) (d : Dir) (speed : Nat) : State :=
  ((s.setRamp ch ((s.ramp ch).takeJog d speed)).enterRamp ch .jog).startDeadMan ch

theorem State.jogByState_starts (s : State) (ch : Channel) (d : Dir) (speed : Nat) (n : NodeNo)
    (state : (s.ramp ch).state = .halted ∨ (s.ramp ch).state = .landed) (out : (s.ramp ch).pinsOut.level = true) :
    s.jogByState ch d speed n = (s.reply n ch.object .accepted).startJog ch d speed := by
  unfold State.jogByState
  dsimp only
  obtain state | state := state
  · rw [state]
    exact if_pos out
  · rw [state]
    exact if_pos out

/-- The record of a jog that begins (R87). -/
def Ramp.jogStarted (r : Ramp) (d : Dir) (speed now : Nat) : Ramp :=
  { r.jogged d speed now with
    state := .jog, pinOut := false, pinIn := false, pinTimer := none, warnTimer := none, warned := false, motionTime := 0 }

theorem Ramp.enter_jogStarted (r : Ramp) (d : Dir) (speed now : Nat) :
    { (r.takeJog d speed).enter .jog with deadTimer := some (now + 300 * Config.msec) } = r.jogStarted d speed now := by
  simp [Ramp.enter, Ramp.jogStarted, Ramp.jogged, Ramp.takeJog, Ramp.jogTarget, RampState.isRest, RampState.isMotion]

theorem State.startDeadMan_record (s : State) (ch : Channel) :
    (s.startDeadMan ch).ramp ch = { s.ramp ch with deadTimer := some (s.now + 300 * Config.msec) } :=
  State.ramp_setRamp_self _ _ _

theorem State.startJog_frame (s : State) (ch : Channel) (d : Dir) (speed : Nat) (untested : s.testingOn ch = false) :
    (s.startJog ch d speed).bli = s.bli ∧ (s.startJog ch d speed).now = s.now
      ∧ (s.startJog ch d speed).ramp ch = (s.ramp ch).jogStarted d speed s.now
      ∧ (s.startJog ch d speed).img.locals.at ch.stateEntry = 11 := by
  have marked := State.ramp_setRamp_self s ch ((s.ramp ch).takeJog d speed)
  obtain ⟨record, bli, -, entry, now⟩ := State.entered_frame _ ch .jog _ marked untested
  unfold State.startJog
  generalize State.enterRamp _ ch .jog = entered at record bli entry now ⊢
  refine ⟨bli, now, ?_, entry⟩
  rw [entered.startDeadMan_record ch, record, now]
  exact (s.ramp ch).enter_jogStarted d speed s.now

/-- Settles O41: the checks first, then the state decides. -/
theorem jogJudged : Obligations.JogJudged := by
  intro s ch n d db hi lo settled room byte low high q speed m st out v
  have form : jogForm q.payload = some (d, speed) := jogForm_eq d db hi lo byte low high
  have state : (m.ramp ch).state = st := by
    rw [s.markSilence_ramp ch]
  have pins : (m.ramp ch).pinsOut = (s.ramp ch).pinsOut := by
    rw [s.markSilence_ramp ch]
  have refused (r : Reason) (own : s.jogRamp ch q = m.refuse n ch.object r) : out = .next (m.refusedWith q ch.object r) :=
    s.actRequest_markedRefused ch q r settled room (·.jogRamp ch q) own
  have replied (k : Result) (own : s.jogRamp ch q = m.reply n ch.object k) : out = .next (m.replied q ch.object k) :=
    s.actRequest_marked ch q k settled room (·.jogRamp ch q) own
  refine ⟨fun r fails => refused r (s.jogRamp_turnedAway ch d speed q _ form fails),
    fun k fails => replied k (s.jogRamp_turnedAway ch d speed q _ form fails), fun passes => ?_⟩
  have passed := s.jogRamp_passed ch d speed q form passes
  refine ⟨fun away => refused _ (passed.trans (m.jogByState_refused ch d speed n ?_)),
    fun busy => replied _ (passed.trans (m.jogByState_busy ch d speed n (state ▸ busy))), fun jog => ?_,
    fun still pinsOut => ?_⟩
  · rw [state, pins]
    exact away
  · intro u
    have again := passed.trans (m.jogByState_again ch d speed n (state.trans jog))
    have done : m.reply n ch.object .done = u := m.reply_replied q ch.object .done [] room
    rw [done, u.startDeadMan_taken] at again
    have now : u.now = s.now := (m.replied_calm _ _ _ _).now
    rw [now] at again
    exact s.actRequest_exact _ (·.jogRamp ch q) settled again (State.queued_agenda _ _)
      (congrArg Fc.owed (State.queued_fc _ _)) (State.queued_calm _ _).dls
  · intro u
    have accepted : m.reply n ch.object .accepted = u := m.reply_replied q ch.object .accepted [] room
    have starts : s.jogRamp ch q = u.startJog ch d speed := by
      rw [← accepted, passed]
      exact m.jogByState_starts ch d speed n (state ▸ still) (pins ▸ pinsOut)
    have now : u.now = s.now := (m.replied_calm _ _ _ _).now
    have untested : u.testingOn ch = false :=
      (m.replied_testingOn q _ _ _ ch).trans (m.rampChecks_untested ch d true passes)
    obtain ⟨bli, time, record, entry⟩ := u.startJog_frame ch d speed untested
    have only : RampOnly ch u (u.startJog ch d speed) := (((RampOnly.refl ch u).setRamp _).enterRamp _).startDeadMan
    obtain ⟨node, -, -, -, restarting⟩ := settled
    refine ⟨u.startJog ch d speed, s.actRequest_own _ (·.jogRamp ch q) node restarting starts, only, time.trans now, bli,
      ?_, entry⟩
    rw [record, now]
    rfl

end Sys2Proof.Machine
end

section
/-! SUPPORT. Inputs and timers of the ramp channels (R82, R87, R90 to R92, R98, R103). -/

namespace Sys2Proof.Machine

open Sys2Proof

/-! ### A fault -/

/-- The record of a channel that has tripped (R103). -/
def Ramp.faulted (r : Ramp) (c : Cause) : Ramp :=
  { r with
    state := .fault, dir := .none, cause := c, vCmd := 0, integrator := 0
    pendingStart := .none, buffered := .off, active := .off, pinOut := false, pinIn := false
    pinTimer := none, warnTimer := none, warned := false, deadTimer := none, motionTime := 0
    overspeed := 0, stall := 0, overload := 0 }

/-- The record as a fault has zeroed it, before FAULT is entered (R103). -/
def Ramp.tripped (r : Ramp) (c : Cause) : Ramp :=
  { r with vCmd := 0, overspeed := 0, stall := 0, overload := 0, motionTime := 0, pendingStart := .none, cause := c }

theorem Ramp.enter_faulted (r : Ramp) (c : Cause) : (r.tripped c).enter .fault = r.faulted c := by
  simp [Ramp.enter, Ramp.tripped, Ramp.faulted, RampState.isRest, RampState.isMotion]

theorem State.faultRamp_eq (s : State) (ch : Channel) (c : Cause) : s.faultRamp ch c =
    ((s.setRamp ch ((s.ramp ch).tripped c)).enterRamp ch .fault).raiseFlag (.ramp ch c.flag) := rfl

/-- Entering a state with both counts at 0: they stay so, whether a proof test is aborted or not. -/
theorem State.enterRamp_zeroed (s : State) (ch : Channel) (st : RampState) (r : Ramp) (record : s.ramp ch = r)
    (speed : r.overspeed = 0) (load : r.overload = 0) : (s.enterRamp ch st).ramp ch = r.enter st := by
  obtain ⟨o, v, sped, loaded, entered⟩ := s.enterRamp_record ch st
  rw [record] at sped loaded entered
  obtain rfl : o = r.overspeed := sped.elim id fun zero => zero.trans speed.symm
  obtain rfl : v = r.overload := loaded.elim id fun zero => zero.trans load.symm
  exact entered

theorem State.faultRamp_frame (s : State) (ch : Channel) (c : Cause) :
    (s.faultRamp ch c).ramp ch = (s.ramp ch).faulted c ∧ (s.faultRamp ch c).hasFlag (.ramp ch c.flag)
      ∧ (s.faultRamp ch c).img.locals.at ch.stateEntry = 12 ∧ RampOnly ch s (s.faultRamp ch c) := by
  have marked := State.ramp_setRamp_self s ch ((s.ramp ch).tripped c)
  have record := State.enterRamp_zeroed _ ch .fault _ marked rfl rfl
  obtain ⟨entry, -⟩ := (s.setRamp ch ((s.ramp ch).tripped c)).enterRamp_published ch .fault
  have only : RampOnly ch s (s.faultRamp ch c) := (RampOnly.refl ch s).faultRamp c
  rw [s.faultRamp_eq ch c] at only ⊢
  generalize State.enterRamp _ ch .fault = entered at record entry only ⊢
  refine ⟨?_, entered.raiseFlag_has _, ?_, only⟩
  · rw [entered.raiseFlag_ramp, record]
    exact (s.ramp ch).enter_faulted c
  · rw [entered.raiseFlag_locals _ _ (by cases ch <;> decide)]
    exact entry

/-! ### The end of STARTING -/

/-- LOCKING entered: at STOW_POS, the pins driven in, or STOWED_LOCKED at once when they are in (R92, R94). -/
structure Locks (now : Nat) (r t : Ramp) : Prop where
  x : t.x = r.params.stowPos
  warnTimer : t.warnTimer = none
  stall : t.stall = r.stall
  settle : t.settle = r.settle
  motionTime : r.state = .starting ∨ r.motionTime = 0 → t.motionTime = 0
  driven : r.pinsIn.level = false → t.state = .locking ∧ t.pinIn = true
    ∧ t.pinTimer = some (now + r.params.tPin * (100 * Config.msec))
  locked : r.pinsIn.level = true → t.state = .stowedLocked ∧ t.pinIn = false ∧ t.pinTimer = none

theorem State.enterLocking_locks (s : State) (ch : Channel) : Locks s.now (s.ramp ch) ((s.enterLocking ch).ramp ch) := by
  have marked := State.ramp_setRamp_self s ch (s.ramp ch).reReference
  have entered := (s.setRamp ch (s.ramp ch).reReference).enterRamp_entered ch .locking
  obtain ⟨-, now, -⟩ := (s.setRamp ch (s.ramp ch).reReference).enterRamp_published ch .locking
  rw [marked] at entered
  unfold State.enterLocking
  dsimp only
  generalize State.enterRamp _ ch .locking = t at entered now ⊢
  have still (zero : (s.ramp ch).state = .starting ∨ (s.ramp ch).motionTime = 0) : (t.ramp ch).motionTime = 0 := by
    refine entered.motionTime.trans (ite_eq_left_iff.mpr fun other => ?_)
    exact zero.resolve_left fun starting => other (.inr starting)
  cases level : (s.ramp ch).pinsIn.level with
  | true =>
    rw [if_pos ((congrArg InputFilter.level entered.pinsIn).trans level)]
    have locked := t.enterRamp_entered ch .stowedLocked
    refine ⟨locked.x.trans entered.x, locked.warnTimer, locked.stall.trans entered.stall,
      locked.settle.trans entered.settle, fun zero => locked.motionTime.trans (ite_eq_left_iff.mpr fun _ => still zero),
      fun other => absurd (level.symm.trans other) (by decide), fun _ => ⟨locked.state, locked.pinIn, locked.pinTimer⟩⟩
  | false =>
    rw [if_neg (ne_true_of_eq_false ((congrArg InputFilter.level entered.pinsIn).trans level)), State.ramp_setRamp_self]
    refine ⟨entered.x, entered.warnTimer, entered.stall, entered.settle, still,
      fun _ => ⟨entered.state, rfl, ?_⟩, fun other => absurd (level.symm.trans other) (by decide)⟩
    rw [State.timerFor, now, entered.params]
    rfl

theorem Locks.state {now : Nat} {r t : Ramp} (h : Locks now r t) :
    t.state = if r.pinsIn.level then .stowedLocked else .locking := by
  cases pins : r.pinsIn.level with
  | true => exact (h.locked pins).1
  | false => exact (h.driven pins).1

theorem State.leaveStarting_stays (s : State) (ch : Channel) (waits : ¬ ((s.ramp ch).state = .starting
    ∧ (s.ramp ch).warned = true ∧ (s.ramp ch).pinsOut.level = true)) : s.leaveStarting ch = s := by
  unfold State.leaveStarting
  exact if_neg waits

/-- A channel that leaves STARTING with its permit false (R91). -/
theorem State.leaveStarting_denied (s : State) (ch : Channel) (starting : (s.ramp ch).state = .starting)
    (warned : (s.ramp ch).warned = true) (out : (s.ramp ch).pinsOut.level = true)
    (denied : s.condition ((s.ramp ch).params.permit (s.ramp ch).dir) ≠ true) :
    s.leaveStarting ch = (s.enterRamp ch .halted).raiseFlag (.ramp ch .permitLost) := by
  unfold State.leaveStarting
  exact (if_pos ⟨starting, warned, out⟩).trans (if_neg denied)

/-- The counts of a channel that starts to move (R101). -/
def State.countsZeroed (s : State) (ch : Channel) : State :=
  s.setRamp ch { s.ramp ch with motionTime := 0, settle := 0, stall := 0 }

theorem State.leaveStarting_permitted (s : State) (ch : Channel) (starting : (s.ramp ch).state = .starting)
    (warned : (s.ramp ch).warned = true) (out : (s.ramp ch).pinsOut.level = true)
    (permitted : s.condition ((s.ramp ch).params.permit (s.ramp ch).dir) = true) : s.leaveStarting ch =
      if (s.ramp ch).dir = .raise then
        if (s.ramp ch).stow.level then (s.countsZeroed ch).enterLocking ch else (s.countsZeroed ch).enterRamp ch .raising
      else (s.countsZeroed ch).enterRamp ch .lowering := by
  unfold State.leaveStarting
  exact (if_pos ⟨starting, warned, out⟩).trans (if_pos permitted)

theorem State.leaveStarting_ends (s : State) (ch : Channel) (starting : (s.ramp ch).state = .starting)
    (warned : (s.ramp ch).warned = true) (out : (s.ramp ch).pinsOut.level = true) :
    StartingEnds ch s (s.leaveStarting ch) := by
  unfold StartingEnds
  dsimp only
  rw [← RampParams.permit_eq]
  cases permit : s.condition ((s.ramp ch).params.permit (s.ramp ch).dir) with
  | false =>
    rw [s.leaveStarting_denied ch starting warned out (ne_true_of_eq_false permit)]
    have entered := s.enterRamp_entered ch .halted
    rw [State.raiseFlag_ramp]
    exact ⟨entered.warnTimer, entered.motionTime.trans (if_pos (.inr starting)),
      fun _ => ⟨entered.state, State.raiseFlag_has _ _, entered.x⟩, nofun⟩
  | true =>
    rw [s.leaveStarting_permitted ch starting warned out permit]
    have zeroed := State.ramp_setRamp_self s ch { s.ramp ch with motionTime := 0, settle := 0, stall := 0 }
    change (s.countsZeroed ch).ramp ch = _ at zeroed
    by_cases raise : (s.ramp ch).dir = .raise
    · rw [if_pos raise]
      cases stow : (s.ramp ch).stow.level with
      | true =>
        have locks := (s.countsZeroed ch).enterLocking_locks ch
        rw [zeroed] at locks
        rw [if_pos rfl]
        exact ⟨locks.warnTimer, locks.motionTime (.inr rfl), nofun, fun _ => ⟨locks.settle, locks.stall,
          fun other => absurd raise other, nofun, fun _ _ => ⟨locks.x, locks.driven, locks.locked⟩⟩⟩
      | false =>
        have entered := (s.countsZeroed ch).enterRamp_entered ch .raising
        rw [zeroed] at entered
        rw [if_neg (by decide)]
        exact ⟨entered.warnTimer, entered.motionTime.trans (if_pos (.inr starting)), nofun,
          fun _ => ⟨entered.settle, entered.stall, fun other => absurd raise other,
            fun _ _ => ⟨entered.state, entered.x⟩, nofun⟩⟩
    · have entered := (s.countsZeroed ch).enterRamp_entered ch .lowering
      rw [zeroed] at entered
      rw [if_neg raise]
      exact ⟨entered.warnTimer, entered.motionTime.trans (if_pos (.inr starting)), nofun,
        fun _ => ⟨entered.settle, entered.stall, fun _ => ⟨entered.state, entered.x⟩,
          fun other => absurd other raise, fun other => absurd other raise⟩⟩

/-! ### Switches -/

theorem Ramp.filterOf_acceptSwitch_same (r : Ramp) (sw : Switch) (level : Bool) :
    (r.acceptSwitch sw level).filterOf sw = { level := level, seen := true, sampled := level, run := 0 } := by
  cases sw <;> rfl

theorem Ramp.filterOf_acceptSwitch_other (r : Ramp) (sw other : Switch) (level : Bool) (ne : other ≠ sw) :
    (r.acceptSwitch sw level).filterOf other = r.filterOf other := by
  cases sw with
  | stow =>
    cases other with
    | stow => exact absurd rfl ne
    | land | pinsIn | pinsOut => rfl
  | land =>
    cases other with
    | land => exact absurd rfl ne
    | stow | pinsIn | pinsOut => rfl
  | pinsIn =>
    cases other with
    | pinsIn => exact absurd rfl ne
    | stow | land | pinsOut => rfl
  | pinsOut =>
    cases other with
    | pinsOut => exact absurd rfl ne
    | stow | land | pinsIn => rfl

/-- The level taken, at its pin and in its filter (R82, log 25). -/
def State.switchTaken (s : State) (ch : Channel) (sw : Switch) (a : Bool) : State :=
  (s.setChannelPins ch ((s.pins.channels.get ch).setSwitch sw a)).setRamp ch ((s.ramp ch).acceptSwitch sw a)

theorem State.switchTaken_ramp (s : State) (ch : Channel) (sw : Switch) (a : Bool) :
    (s.switchTaken ch sw a).ramp ch = (s.ramp ch).acceptSwitch sw a := State.ramp_setRamp_self _ _ _

/-- What follows from a changed level (R90, R92). -/
def State.switchActs (s : State) (ch : Channel) (a : Bool) : Switch → State
  | .pinsOut => s.pinsOutChanged ch a
  | .pinsIn => s.pinsInChanged ch a
  | .stow | .land => s

theorem State.switchAccepted_still (s : State) (ch : Channel) (sw : Switch) (a : Bool)
    (still : ((s.ramp ch).filterOf sw).seen = false ∨ ((s.ramp ch).filterOf sw).level = a) :
    s.switchAccepted ch sw a = s.switchTaken ch sw a := by
  unfold State.switchAccepted
  refine if_neg fun ⟨seen, changed⟩ => ?_
  exact still.elim (fun unseen => absurd seen (ne_true_of_eq_false unseen)) changed

theorem State.switchAccepted_changed (s : State) (ch : Channel) (sw : Switch) (a : Bool)
    (seen : ((s.ramp ch).filterOf sw).seen = true) (changed : ((s.ramp ch).filterOf sw).level ≠ a) :
    s.switchAccepted ch sw a = (s.switchTaken ch sw a).switchActs ch a sw := by
  unfold State.switchAccepted
  refine (if_pos ⟨seen, changed⟩).trans ?_
  cases sw <;> rfl

/-- A changed level that does nothing more (R82, R90, R92). -/
theorem State.switchActs_still (s : State) (ch : Channel) (a : Bool) (sw : Switch) (still : sw = .stow ∨ sw = .land
    ∨ sw = .pinsOut ∧ (s.ramp ch).state ≠ .starting
    ∨ sw = .pinsIn ∧ ((s.ramp ch).state ≠ .locking ∨ a = false)) : s.switchActs ch a sw = s := by
  obtain rfl | rfl | ⟨rfl, moving⟩ | ⟨rfl, idle⟩ := still
  · rfl
  · rfl
  · exact if_neg moving
  · exact if_neg fun ⟨locking, active⟩ => idle.elim (fun other => other locking)
      fun inactive => absurd active (ne_true_of_eq_false inactive)

theorem State.pinsOutChanged_off (s : State) (ch : Channel) (starting : (s.ramp ch).state = .starting) :
    s.pinsOutChanged ch false = s.setRamp ch { s.ramp ch with
      pinOut := true, pinTimer := some (s.now + (s.ramp ch).params.tPin * (100 * Config.msec)) } := by
  unfold State.pinsOutChanged
  exact (if_pos starting).trans (if_neg (by decide))

theorem State.pinsOutChanged_on (s : State) (ch : Channel) (starting : (s.ramp ch).state = .starting) :
    s.pinsOutChanged ch true = (s.setRamp ch { s.ramp ch with pinOut := false, pinTimer := none }).leaveStarting ch := by
  unfold State.pinsOutChanged
  exact (if_pos starting).trans (if_pos rfl)

/-- Settles O42: the level is taken; what follows is decided by the switch and the state. -/
theorem switchAccepted : Obligations.SwitchAccepted := by
  intro s ch sw a settled f u r out
  have record : r = (s.ramp ch).acceptSwitch sw a := s.switchTaken_ramp ch sw a
  have exact (t : State) (own : s.switchAccepted ch sw a = t) (agenda : t.agenda = s.agenda)
      (owed : t.fc = s.fc) (dls : t.dls = s.dls) : out = .next t :=
    s.act_exact _ (·.switchAccepted ch sw a) settled own agenda (congrArg Fc.owed owed) (congrArg Dls.choose dls)
  have changed (seen : f.seen = true) (other : f.level ≠ a) : s.switchAccepted ch sw a = u.switchActs ch a sw :=
    s.switchAccepted_changed ch sw a seen other
  have runs (t : State) (own : s.switchAccepted ch sw a = t) : out = .next t.settled :=
    s.act_own _ (·.switchAccepted ch sw a) settled.1 own
  refine ⟨?_, fun other ne => ?_, fun still => ?_, fun seen level pin starting => ?_,
    fun seen level pin active locking => ?_⟩
  · rw [record]
    exact (s.ramp ch).filterOf_acceptSwitch_same sw a
  · rw [record]
    exact (s.ramp ch).filterOf_acceptSwitch_other sw other a ne
  · refine exact u ?_ rfl rfl rfl
    by_cases first : f.seen = false ∨ f.level = a
    · exact s.switchAccepted_still ch sw a first
    · obtain ⟨seen, other⟩ := not_or.mp first
      rw [changed (eq_true_of_ne_false seen) other]
      exact u.switchActs_still ch a sw ((still.resolve_left seen).resolve_left other)
  · subst pin
    have acts : s.switchAccepted ch .pinsOut a = u.pinsOutChanged ch a := changed seen level
    refine ⟨fun inactive => ?_, fun active waits => ?_, fun active warned => ?_⟩
    · subst inactive
      exact exact _ (acts.trans (u.pinsOutChanged_off ch starting)) rfl rfl rfl
    · subst active
      refine exact _ (acts.trans ((u.pinsOutChanged_on ch starting).trans (State.leaveStarting_stays _ ch ?_))) rfl rfl rfl
      rw [State.ramp_setRamp_self]
      exact fun ⟨_, warned, _⟩ => absurd warned (ne_true_of_eq_false waits)
    · subst active
      intro v
      have own := acts.trans (u.pinsOutChanged_on ch starting)
      have now : v.ramp ch = { r with pinOut := false, pinTimer := none } := State.ramp_setRamp_self _ _ _
      have level : r.pinsOut.level = true := by
        rw [record]
        rfl
      refine ⟨_, runs _ own, (RampOnly.refl ch v).leaveStarting, v.leaveStarting_ends ch ?_ ?_ ?_⟩
      · rw [now]
        exact starting
      · rw [now]
        exact warned
      · rw [now]
        exact level
  · subst pin
    have enters : u.pinsInChanged ch a = u.enterRamp ch .stowedLocked := if_pos ⟨locking, active⟩
    have entered := u.enterRamp_entered ch .stowedLocked
    exact ⟨_, runs _ ((changed seen level).trans enters), (RampOnly.refl ch u).enterRamp _, entered.state, entered.pinIn,
      entered.pinTimer⟩

/-! ### Timers -/

theorem State.rampWarningExpired_eq (s : State) (ch : Channel) (due : Nat) (timer : (s.ramp ch).warnTimer = some due) :
    s.rampWarningExpired ch = (s.reach due).rampWarned ch := by
  unfold State.rampWarningExpired
  rw [timer]

theorem State.callReadyAt_iff (s : State) (e : Fin 16) :
    s.callReadyAt e = true ↔ ∃ c, s.cl.calls.at e = some c ∧ c.ready ≠ none := by
  unfold State.callReadyAt
  cases listed : s.cl.calls.at e with
  | none => simp
  | some c => simp [Option.isSome_iff_ne_none]

theorem State.handle_rampReady (s : State) (ch : Channel) : s.handle (.callReady ch.callEntry) = s.rampCallReady ch := by
  cases ch <;> rfl

theorem State.pinExpired_eq (s : State) (ch : Channel) (due : Nat) (timer : (s.ramp ch).pinTimer = some due)
    (state : (s.ramp ch).state = .starting ∨ (s.ramp ch).state = .locking) :
    s.pinExpired ch = (s.reach due).faultRamp ch .pinTimeout := by
  unfold State.pinExpired
  rw [timer]
  exact if_pos state

theorem State.deadManExpired_eq (s : State) (ch : Channel) (due : Nat) (timer : (s.ramp ch).deadTimer = some due)
    (jog : (s.ramp ch).state = .jog) : s.deadManExpired ch = (s.reach due).enterRamp ch .halting := by
  unfold State.deadManExpired
  rw [timer]
  exact if_pos jog

/-- Settles O43: with the warning time run, the channel leaves STARTING if its pins are out. -/
theorem startingLeft : Obligations.StartingLeft := by
  refine ⟨fun s ch due node timer starting => ?_, fun s ch => ?_⟩
  · intro r u
    have own : s.rampWarningExpired ch = u.leaveStarting ch := s.rampWarningExpired_eq ch due timer
    have record : u.ramp ch = { r with warnTimer := none, warned := true } := State.ramp_setRamp_self _ _ _
    refine ⟨fun inside => ?_, fun out => ?_⟩
    · refine s.act_own _ (·.rampWarningExpired ch) node (own.trans (u.leaveStarting_stays ch ?_))
      rw [record]
      exact fun ⟨_, _, out⟩ => absurd out (ne_true_of_eq_false inside)
    · refine ⟨_, s.act_own _ (·.rampWarningExpired ch) node own, (RampOnly.refl ch u).leaveStarting,
        u.leaveStarting_ends ch ?_ ?_ ?_⟩
      · rw [record]
        exact starting
      · rw [record]
      · rw [record]
        exact out
  · intro r t begins
    have ready : t = s.rampCallReady ch := s.handle_rampReady ch
    have listed := s.callReadyAt_iff ch.callEntry
    have waits : ¬ begins → s.rampCallReady ch = s := fun never =>
      if_neg fun ⟨reported, rest⟩ => never ⟨listed.mp reported, rest⟩
    have starts (now : begins) : s.rampCallReady ch = if r.params.tPrewarn = 0 then s.rampWarned ch
        else s.setRamp ch { r with warnTimer := s.timerFor (r.params.tPrewarn * Config.second) } :=
      if_pos ⟨listed.mpr now.1, now.2⟩
    refine ⟨fun never => ready.trans (waits never), fun now timed => ready.trans ((starts now).trans (if_neg timed)),
      fun now untimed => ?_⟩
    intro u
    have stopped : (s.ramp ch).warnTimer = none := now.2.2.2
    have own : t = u.leaveStarting ch := by
      rw [ready, starts now, if_pos untimed, State.rampWarned, ← stopped]
    have record : u.ramp ch = { r with warned := true } := State.ramp_setRamp_self _ _ _
    refine ⟨fun inside => own.trans (u.leaveStarting_stays ch ?_), fun out => ?_⟩
    · rw [record]
      exact fun ⟨_, _, out⟩ => absurd out (ne_true_of_eq_false inside)
    · rw [own]
      refine ⟨(RampOnly.refl ch u).leaveStarting, u.leaveStarting_ends ch ?_ ?_ ?_⟩
      · rw [record]
        exact now.2.1
      · rw [record]
      · rw [record]
        exact out

theorem Ramp.signAtHalt_jog (r : Ramp) (jog : r.state = .jog) : r.signAtHalt = r.jogSign := by
  unfold Ramp.signAtHalt
  rw [jog]

/-- Settles O44: a fault, and the halt of a jog. -/
theorem rampTimersExpire : Obligations.RampTimersExpire := by
  intro s ch due node u
  refine ⟨fun timer state => ?_, fun timer jog => ?_⟩
  · obtain ⟨record, flag, entry, only⟩ := u.faultRamp_frame ch .pinTimeout
    have own : s.pinExpired ch = u.faultRamp ch .pinTimeout := s.pinExpired_eq ch due timer state
    generalize u.faultRamp ch .pinTimeout = t at record flag entry only own
    exact ⟨t, s.act_own t (·.pinExpired ch) node own, only, flag, entry, record⟩
  · have entered := u.enterRamp_entered ch .halting
    obtain ⟨entry, -⟩ := u.enterRamp_published ch .halting
    have own : s.deadManExpired ch = u.enterRamp ch .halting := s.deadManExpired_eq ch due timer jog
    have only : RampOnly ch u (u.enterRamp ch .halting) := (RampOnly.refl ch u).enterRamp _
    generalize u.enterRamp ch .halting = t at entered entry own only
    exact ⟨t, s.act_own t (·.deadManExpired ch) node own, only, entered.state, entered.deadTimer,
      entered.haltSign.trans ((s.ramp ch).signAtHalt_jog jog), entry⟩

/-! ### E-STOP -/

/-- The E-STOP level taken, at its pin and in its filter (R82, log 25). -/
def State.estopTaken (s : State) (a : Bool) : State :=
  { s with pins := { s.pins with estop := a }, estop := { level := a, seen := true, sampled := a, run := 0 } }

theorem State.estopChanged_still (s : State) (a : Bool) (still : s.estop.level = true ∨ a = false) :
    s.estopChanged a = s.estopTaken a :=
  if_neg fun ⟨active, inactive⟩ => still.elim (fun level => absurd level (ne_true_of_eq_false inactive))
    fun off => absurd active (ne_true_of_eq_false off)

theorem State.estopChanged_first (s : State) (unseen : s.estop.seen = false) (inactive : s.estop.level = false) :
    s.estopChanged true = ((s.estopTaken true).flagEstop .a).flagEstop .b := by
  unfold State.estopChanged
  exact (if_pos ⟨rfl, inactive⟩).trans (if_neg (ne_true_of_eq_false unseen))

theorem State.estopChanged_event (s : State) (seen : s.estop.seen = true) (inactive : s.estop.level = false) :
    s.estopChanged true = ((s.estopTaken true).estopRamp .a).estopRamp .b := by
  unfold State.estopChanged
  exact (if_pos ⟨rfl, inactive⟩).trans (if_pos seen)

/-- The flag that a channel's condition raises while E-STOP is active (R185). -/
def estopFlag (st : RampState) (ch : Channel) : BitVec 35 := if st = .disabled then 0 else (Flag.ramp ch .estop).bit

/-- A flag raised, or none: what both leave alone. -/
theorem State.flagEstop_frame (s : State) (ch : Channel) (active : s.estop.level = true) : Calm s (s.flagEstop ch)
    ∧ CallsOnly s (s.flagEstop ch) ∧ (s.flagEstop ch).bli = s.bli
    ∧ (s.flagEstop ch).fc.flags = s.fc.flags ||| estopFlag (s.ramp ch).state ch
    ∧ ∀ i : Fin 32, i.val ≠ 11 → (s.flagEstop ch).img.locals.at i = s.img.locals.at i := by
  have holds := s.estopHolds_iff ch
  unfold State.flagEstop estopFlag
  by_cases disabled : (s.ramp ch).state = .disabled
  · rw [if_neg fun held => (holds.mp held).2 disabled, if_pos disabled]
    exact ⟨Calm.refl s, CallsOnly.refl s, rfl, (BitVec.or_zero).symm, fun _ _ => rfl⟩
  · rw [if_pos (holds.mpr ⟨active, disabled⟩), if_neg disabled]
    refine ⟨s.raiseFlag_calm _, (CallsOnly.refl s).raiseFlag _, s.raiseFlag_bli _, s.raiseFlag_flags _, fun i ne => ?_⟩
    exact s.raiseFlag_locals _ i fun same => ne (congrArg Fin.val same).symm

/-- The record of a channel that E-STOP has halted, but for the counts an aborted proof test sets (R98). -/
def Ramp.estopped (r : Ramp) : Ramp :=
  { r with
    state := .halted, dir := .none, pendingStart := .none, vCmd := 0, integrator := 0, buffered := .off, active := .off
    pinOut := false, pinIn := false, pinTimer := none, warnTimer := none, warned := false, deadTimer := none
    motionTime := if r.state = .starting then 0 else r.motionTime }

theorem Ramp.enter_estopped (r : Ramp) :
    ({ r with vCmd := 0, pendingStart := .none } : Ramp).enter .halted = r.estopped := by
  simp [Ramp.enter, Ramp.estopped, RampState.isRest, RampState.isMotion]

theorem Channel.stateEntry_injective {c d : Channel} (same : c.stateEntry = d.stateEntry) : c = d := by
  cases c with
  | a =>
    cases d with
    | a => rfl
    | b => exact absurd same (by decide)
  | b =>
    cases d with
    | a => exact absurd same (by decide)
    | b => rfl

/-- A channel's state and flag after E-STOP has become active (R98). -/
structure EstopHalted (ch : Channel) (r : Ramp) (t : State) : Prop where
  disabled : r.state = .disabled → t.ramp ch = r
  fault : r.state = .fault → t.ramp ch = r ∧ t.hasFlag (.ramp ch .estop)
  moving : r.state ≠ .disabled → r.state ≠ .fault → t.hasFlag (.ramp ch .estop)
    ∧ t.img.locals.at ch.stateEntry = 10
    ∧ t.ramp ch = { r.estopped with overspeed := (t.ramp ch).overspeed, overload := (t.ramp ch).overload }

theorem State.estopRamp_halts (s : State) (ch : Channel) (running : (s.ramp ch).state ≠ .disabled)
    (sound : (s.ramp ch).state ≠ .fault) : s.estopRamp ch =
      ((s.setRamp ch { s.ramp ch with vCmd := 0, pendingStart := .none }).enterRamp ch .halted).raiseFlag
        (.ramp ch .estop) := by
  unfold State.estopRamp
  cases state : (s.ramp ch).state with
  | disabled => exact absurd state running
  | fault => exact absurd state sound
  | stowedLocked | starting | lowering | landing | landed | raising | stowing | locking | halting | halted | jog => rfl

theorem State.estopRamp_halted (s : State) (ch : Channel) : EstopHalted ch (s.ramp ch) (s.estopRamp ch) := by
  refine ⟨fun disabled => ?_, fun fault => ?_, fun running sound => ?_⟩
  · unfold State.estopRamp
    rw [disabled]
  · unfold State.estopRamp
    rw [fault]
    exact ⟨s.raiseFlag_ramp _ ch, s.raiseFlag_has _⟩
  · have marked := State.ramp_setRamp_self s ch { s.ramp ch with vCmd := 0, pendingStart := .none }
    obtain ⟨o, v, -, -, record⟩ :=
      (s.setRamp ch { s.ramp ch with vCmd := 0, pendingStart := .none }).enterRamp_record ch .halted
    obtain ⟨entry, -⟩ :=
      (s.setRamp ch { s.ramp ch with vCmd := 0, pendingStart := .none }).enterRamp_published ch .halted
    rw [marked, (s.ramp ch).enter_estopped] at record
    rw [s.estopRamp_halts ch running sound]
    generalize State.enterRamp _ ch .halted = t at record entry ⊢
    refine ⟨t.raiseFlag_has _, (t.raiseFlag_locals _ _ (by cases ch <;> decide)).trans entry, ?_⟩
    rw [t.raiseFlag_ramp, record]

/-- Nothing that keeps the channel, its entry and the flags undoes the halt. -/
theorem EstopHalted.keeps {ch other : Channel} {r : Ramp} {t u : State} (h : EstopHalted ch r t)
    (only : RampOnly other t u) (ne : ch ≠ other) : EstopHalted ch r u := by
  have same : u.ramp ch = t.ramp ch := only.others ch ne
  have entry : u.img.locals.at ch.stateEntry = t.img.locals.at ch.stateEntry :=
    only.locals _ (.inl (by cases ch <;> decide)) fun eq => ne (Channel.stateEntry_injective eq)
  refine ⟨fun disabled => same.trans (h.disabled disabled), fun fault => ?_, fun running sound => ?_⟩
  · obtain ⟨record, flag⟩ := h.fault fault
    exact ⟨same.trans record, only.keeps_flag flag⟩
  · obtain ⟨flag, published, record⟩ := h.moving running sound
    rw [same]
    exact ⟨only.keeps_flag flag, entry.trans published, record⟩

/-- Settles O45: the level; the first since full reset; and an input event, channel A before B. -/
theorem estopHaltsChannels : Obligations.EstopHaltsChannels := by
  intro s a settled u flag
  refine ⟨fun still => ?_, fun unseen inactive active => ?_, fun seen inactive active => ?_⟩
  · exact s.act_exact _ (·.estopChanged a) settled (s.estopChanged_still a still) rfl rfl rfl
  · subst active
    obtain ⟨calm, only, bli, flags, locals⟩ := u.flagEstop_frame .a rfl
    obtain ⟨calm', only', bli', flags', locals'⟩ := (u.flagEstop .a).flagEstop_frame .b
      (congrArg InputFilter.level calm.estop)
    have ramp : (u.flagEstop .a).ramp .b = s.ramp .b := only.ramp .b
    refine ⟨_, s.act_own _ (·.estopChanged true) settled.1 (s.estopChanged_first unseen inactive), only.trans only',
      calm'.dls.trans calm.dls, calm'.cl.trans calm.cl, calm'.bd.trans calm.bd, bli'.trans bli, ?_,
      fun i ne => (locals' i ne).trans (locals i ne)⟩
    rw [flags, ramp] at flags'
    exact flags'
  · subst active
    have first : RampOnly .a u (u.estopRamp .a) := (RampOnly.refl .a u).estopRamp
    have second : RampOnly .b (u.estopRamp .a) ((u.estopRamp .a).estopRamp .b) := (RampOnly.refl .b _).estopRamp
    have a := (u.estopRamp_halted .a).keeps second (by decide)
    have b := (u.estopRamp .a).estopRamp_halted .b
    rw [first.others .b (by decide)] at b
    have halted (ch : Channel) : EstopHalted ch (s.ramp ch) ((u.estopRamp .a).estopRamp .b) := by
      cases ch with
      | a => exact a
      | b => exact b
    refine ⟨_, s.act_own _ (·.estopChanged true) settled.1 (s.estopChanged_event seen inactive),
      second.estop.trans first.estop, second.pins.trans first.pins, second.now.trans first.now,
      second.groups.trans first.groups, second.dcc.trans first.dcc, second.held.trans first.held,
      second.ts.trans first.ts, second.settings.trans first.settings, second.remotes.trans first.remotes, fun ch => ?_⟩
    exact ⟨(halted ch).disabled, (halted ch).fault, (halted ch).moving⟩

end Sys2Proof.Machine
end

section
/-! SUPPORT. Measurement and control of a ramp channel (R102, R107 to R119). -/

namespace Sys2Proof.Machine

open Sys2Proof

/-! ### Encoder edges -/

/-- The transitions of the accepted pair that count up (R108). -/
def forwardEdges : List ((Bool × Bool) × (Bool × Bool)) :=
  [((false, false), (true, false)), ((true, false), (true, true)), ((true, true), (false, true)),
    ((false, true), (false, false))]

theorem edgeOf_forward : ∀ a b a' b' : Bool, ((a, b), (a', b')) ∈ forwardEdges → edgeOf a b a' b' = .counted .lower := by
  decide

theorem edgeOf_back : ∀ a b a' b' : Bool, ((a', b'), (a, b)) ∈ forwardEdges → edgeOf a b a' b' = .counted .raise := by
  decide

theorem edgeOf_same (a b : Bool) : edgeOf a b a b = .unchanged := if_pos ⟨rfl, rfl⟩

theorem edgeOf_illegal {a b a' b' : Bool} (first : a ≠ a') (second : b ≠ b') : edgeOf a b a' b' = .illegal :=
  (if_neg fun same => first same.1).trans (if_pos ⟨first, second⟩)

/-- The pins with the newly accepted levels (log 25). -/
def State.encoderShown (s : State) (ch : Channel) (a b : Bool) : State :=
  s.setChannelPins ch ((s.pins.channels.get ch).showEncoder (s.ramp ch) a b)

theorem State.encoderChanged_counted (s : State) (ch : Channel) (a b : Bool) (d : Dir)
    (enabled : (s.ramp ch).state ≠ .disabled)
    (edge : edgeOf (s.ramp ch).encA.level (s.ramp ch).encB.level a b = .counted d) :
    s.encoderChanged ch a b =
      (s.encoderShown ch a b).setRamp ch (((s.ramp ch).acceptPair a b).countEdge d s.now s.capture) := by
  unfold State.encoderChanged
  dsimp only
  rw [if_neg enabled, edge]
  rfl

theorem State.encoderChanged_same (s : State) (ch : Channel) (a b : Bool) (enabled : (s.ramp ch).state ≠ .disabled)
    (edge : edgeOf (s.ramp ch).encA.level (s.ramp ch).encB.level a b = .unchanged) :
    s.encoderChanged ch a b = s.encoderShown ch a b := by
  unfold State.encoderChanged
  dsimp only
  rw [if_neg enabled, edge]
  rfl

theorem State.encoderChanged_illegal (s : State) (ch : Channel) (a b : Bool) (enabled : (s.ramp ch).state ≠ .disabled)
    (edge : edgeOf (s.ramp ch).encA.level (s.ramp ch).encB.level a b = .illegal) :
    s.encoderChanged ch a b =
      ((s.encoderShown ch a b).setRamp ch ((s.ramp ch).acceptPair a b)).illegalTransition ch := by
  unfold State.encoderChanged
  dsimp only
  rw [if_neg enabled, edge]
  rfl

/-- A channel whose encoder has made an illegal transition: in FAULT with the flag, unreferenced (R102). -/
structure Unreferenced (ch : Channel) (r : Ramp) (t : State) : Prop where
  referenced : (t.ramp ch).referenced = false
  encA : (t.ramp ch).encA = r.encA
  encB : (t.ramp ch).encB = r.encB
  x : (t.ramp ch).x = r.x
  lastCapture : (t.ramp ch).lastCapture = r.lastCapture
  interval : (t.ramp ch).interval = r.interval
  state : (t.ramp ch).state = .fault
  flag : t.hasFlag (.ramp ch .encoder)
  cause : (t.ramp ch).cause = if r.state = .fault then r.cause else .encoder

theorem State.illegalTransition_frame (s : State) (ch : Channel) :
    RampOnly ch s (s.illegalTransition ch) ∧ Unreferenced ch (s.ramp ch) (s.illegalTransition ch) := by
  have marked := State.ramp_setRamp_self s ch { s.ramp ch with referenced := false }
  have only : RampOnly ch s (s.setRamp ch { s.ramp ch with referenced := false }) := (RampOnly.refl ch s).setRamp _
  unfold State.illegalTransition
  dsimp only
  generalize s.setRamp ch { s.ramp ch with referenced := false } = m at marked only ⊢
  have state : (m.ramp ch).state = (s.ramp ch).state := by rw [marked]
  by_cases fault : (s.ramp ch).state = .fault
  · rw [if_pos (state.trans fault)]
    refine ⟨only.raiseFlag _, ?_⟩
    have same : (m.raiseFlag (.ramp ch .encoder)).ramp ch = { s.ramp ch with referenced := false } :=
      (m.raiseFlag_ramp _ ch).trans marked
    constructor
    case flag => exact m.raiseFlag_has _
    case cause => rw [same, if_pos fault]
    case state => rw [same]; exact fault
    all_goals rw [same]
  · rw [if_neg (mt state.symm.trans fault)]
    obtain ⟨record, flag, -, faulted⟩ := m.faultRamp_frame ch .encoder
    refine ⟨only.trans faulted, ?_⟩
    rw [marked] at record
    constructor
    case flag => exact flag
    case cause => rw [record, if_neg fault]; rfl
    all_goals
      rw [record]
      rfl

/-- Settles O46: by the transition of the accepted pair. -/
theorem encoderEdges : Obligations.EncoderEdges := by
  intro s ch a b settled r before pins u taken r' out forward back
  have exact (t : State) (own : s.encoderChanged ch a b = t) (agenda : t.agenda = s.agenda)
      (owed : t.fc = s.fc) (dls : t.dls = s.dls) : out = .next t :=
    s.act_exact _ (·.encoderChanged ch a b) settled own agenda (congrArg Fc.owed owed) (congrArg Dls.choose dls)
  refine ⟨fun disabled => exact s (if_pos disabled) rfl rfl rfl, fun enabled => ⟨fun up => ?_, fun down => ?_,
    fun low high => ⟨?_, ?_⟩, rfl, rfl, fun same => ?_, fun first second => ?_⟩⟩
  · exact exact _ (s.encoderChanged_counted ch a b .lower enabled (edgeOf_forward _ _ _ _ up)) rfl rfl rfl
  · exact exact _ (s.encoderChanged_counted ch a b .raise enabled (edgeOf_back _ _ _ _ down)) rfl rfl rfl
  · show max (-8388608) (min 8388607 (r.x + 1)) = _
    omega
  · show max (-8388608) (min 8388607 (r.x + -1)) = _
    omega
  · refine exact _ (s.encoderChanged_same ch a b enabled ?_) rfl rfl rfl
    obtain ⟨rfl, rfl⟩ := Prod.mk.inj same
    exact edgeOf_same _ _
  · have own := s.encoderChanged_illegal ch a b enabled (edgeOf_illegal first second)
    have marked : (u.setRamp ch r').ramp ch = r' := State.ramp_setRamp_self _ _ _
    obtain ⟨only, ended⟩ := (u.setRamp ch r').illegalTransition_frame ch
    rw [marked] at ended
    have all : RampOnly ch u ((u.setRamp ch r').illegalTransition ch) := ((RampOnly.refl ch u).setRamp r').trans only
    have levelA : r'.encA.level = a := congrArg EncFilter.level (if_neg first)
    have levelB : r'.encB.level = b := congrArg EncFilter.level (if_neg second)
    change s.encoderChanged ch a b = (u.setRamp ch r').illegalTransition ch at own
    generalize (u.setRamp ch r').illegalTransition ch = t at own all ended
    exact ⟨t, s.act_own _ (·.encoderChanged ch a b) settled.1 own, all, ended.referenced,
      (congrArg EncFilter.level ended.encA).trans levelA, (congrArg EncFilter.level ended.encB).trans levelB, ended.x,
      ended.lastCapture, ended.interval, ended.state, ended.flag, ended.cause⟩

/-! ### A counted edge -/

theorem countX_eq (x : Int) (d : Dir) (moves : d ≠ .none) (low : -8388608 ≤ x) (high : x ≤ 8388607) :
    countX x d = if d = .lower then (if x = 8388607 then x else x + 1) else (if x = -8388608 then x else x - 1) := by
  cases d with
  | none => exact absurd rfl moves
  | lower =>
    show max (-8388608) (min 8388607 (x + 1)) = if x = 8388607 then x else x + 1
    split <;> omega
  | raise =>
    show max (-8388608) (min 8388607 (x + -1)) = if x = -8388608 then x else x - 1
    split <;> omega

theorem Ramp.isRecent_iff (r : Ramp) (now : Nat) : r.isRecent now = true ↔ ∃ due, r.recent = some due ∧ now ≤ due := by
  unfold Ramp.isRecent
  cases r.recent with
  | none => simp
  | some due => simp

theorem Ramp.isRecent_past (r : Ramp) (now : Nat) (past : r.recent = none ∨ ∃ due, r.recent = some due ∧ due < now) :
    r.isRecent now = false := by
  refine eq_false_of_ne_true fun recent => ?_
  obtain ⟨due, timer, late⟩ := (r.isRecent_iff now).mp recent
  obtain none | ⟨due', timer', early⟩ := past
  · exact absurd (none.symm.trans timer) nofun
  · obtain rfl := Option.some.inj (timer.symm.trans timer')
    exact absurd early (Nat.not_lt.mpr late)

theorem Ramp.countEdge_interval (r : Ramp) (d : Dir) (now due : Nat) (cap : BitVec 20) (timer : r.recent = some due)
    (recent : now ≤ due) (same : r.lastDir = d) :
    (r.countEdge d now cap).interval = max 1 (min 65535 (cap - r.lastCapture).toNat) := by
  have taken : (r.countEdge d now cap).interval = min 65535 (max 1 (cap - r.lastCapture).toNat) :=
    if_pos (by rw [(r.isRecent_iff now).mpr ⟨due, timer, recent⟩, same, beq_self_eq_true]; rfl)
  omega

theorem Ramp.countEdge_interval_max (r : Ramp) (d : Dir) (now : Nat) (cap : BitVec 20)
    (old : r.recent = none ∨ (∃ due, r.recent = some due ∧ due < now) ∨ r.lastDir ≠ d) :
    (r.countEdge d now cap).interval = 65535 := by
  refine if_neg fun both => ?_
  obtain ⟨recent, same⟩ := Bool.and_eq_true_iff.mp both
  obtain none | past | turned := old
  · exact ne_true_of_eq_false (r.isRecent_past now (.inl none)) recent
  · exact ne_true_of_eq_false (r.isRecent_past now (.inr past)) recent
  · exact turned (eq_of_beq same)

/-! ### The speed estimate -/

theorem Ramp.delta_eq (r : Ramp) : r.delta = if r.x - r.xPrev < -2047 then -2047
    else if 2047 < r.x - r.xPrev then 2047 else r.x - r.xPrev := by
  show max (-2047) (min 2047 (r.x - r.xPrev)) = _
  split
  · omega
  · split <;> omega

theorem Ramp.estimate_fast (r : Ramp) (now : Nat) (fast : 4 ≤ r.delta.natAbs) : r.estimate now = 16 * r.delta :=
  if_pos fast

theorem Ramp.estimate_slow (r : Ramp) (now : Nat) (slow : r.delta.natAbs ≤ 3) (recent : r.isRecent now = true) :
    r.estimate now = r.lastDir.sign * (min 63 (160000 / r.interval) : Nat) :=
  (if_neg (by omega)).trans (if_pos recent)

theorem Ramp.estimate_still (r : Ramp) (now : Nat) (slow : r.delta.natAbs ≤ 3) (past : r.isRecent now = false) :
    r.estimate now = 0 := (if_neg (by omega)).trans (if_neg (ne_true_of_eq_false past))

/-! ### The profile -/

theorem Ramp.targetSpeed_still (r : Ramp) (still : r.state ∉ [.lowering, .raising, .landing, .stowing, .jog]) :
    r.targetSpeed = 0 := by
  unfold Ramp.targetSpeed
  cases state : r.state with
  | lowering | raising | landing | stowing | jog =>
    rw [state] at still
    exact absurd (by decide) still
  | disabled | stowedLocked | starting | landed | locking | halting | halted | fault => rfl

theorem Ramp.targetSpeed_jog (r : Ramp) (jog : r.state = .jog) : r.targetSpeed =
    if r.referenced = true ∧ (0 < r.jogTarget ∧ (r.params.deployPos : Int) + r.params.wOver ≤ r.x
        ∨ r.jogTarget < 0 ∧ r.x ≤ (r.params.stowPos : Int) - r.params.wUnder) then 0 else r.jogTarget := by
  unfold Ramp.targetSpeed
  rw [jog]

theorem Ramp.jogTarget_free (r : Ramp) (free : r.referenced = false) :
    r.jogTarget = r.dir.sign * (min r.jogSpeed r.params.vCreep : Nat) := by
  unfold Ramp.jogTarget
  rw [free]
  rfl

theorem Ramp.jogTarget_referenced (r : Ramp) (referenced : r.referenced = true) :
    r.jogTarget = r.dir.sign * (min r.jogSpeed r.params.vMax : Nat) := by
  unfold Ramp.jogTarget
  rw [referenced]
  rfl

/-! ### The drive -/

theorem sign_eq_one (n : Int) : sign n = 1 ↔ 0 < n := by
  unfold sign
  split
  · simpa
  · split <;> simp_all

theorem sign_eq_neg_one (n : Int) : sign n = -1 ↔ n < 0 := by
  unfold sign
  split
  · simp only [reduceCtorEq, false_iff]
    omega
  · split <;> simp_all

theorem Ramp.magnitude_lower (r : Ramp) (u : Int) (lowers : r.sigma = 1) :
    r.magnitude u = if 0 < u then min u.natAbs r.params.dMax else 0 := by
  unfold Ramp.magnitude
  rw [lowers]
  by_cases positive : 0 < u
  · rw [if_pos positive]
    exact if_neg fun none => none.elim (by omega) fun other => other ((sign_eq_one u).mpr positive)
  · rw [if_neg positive]
    exact if_pos (.inr (mt (sign_eq_one u).mp positive))

theorem Ramp.magnitude_raise (r : Ramp) (u : Int) (raises : r.sigma = -1) :
    r.magnitude u = if u < 0 then min u.natAbs r.params.dMax else 0 := by
  unfold Ramp.magnitude
  rw [raises]
  by_cases negative : u < 0
  · rw [if_pos negative]
    exact if_neg fun none => none.elim (by omega) fun other => other ((sign_eq_neg_one u).mpr negative)
  · rw [if_neg negative]
    exact if_pos (.inr (mt (sign_eq_neg_one u).mp negative))

theorem Ramp.magnitude_le (r : Ramp) (u : Int) : r.magnitude u ≤ r.params.dMax := by
  unfold Ramp.magnitude
  split
  · exact Nat.zero_le _
  · exact Nat.min_le_right _ _

theorem Ramp.drive_rest (r : Ramp) (rest : r.state.isMotion = false) : r.drive = { r with buffered := .off } :=
  if_neg (ne_true_of_eq_false rest)

theorem Ramp.drive_motion (r : Ramp) (motion : r.state.isMotion = true) : r.drive = { r with
    integrator := r.integrate
    buffered := { mag := r.magnitude (r.offsetDemand (r.demand r.integrate)), out := outputOf r.sigma } } :=
  if_pos motion

/-- Settles O47: the edge, the estimate, the profile and the drive, each from its definition. -/
theorem controlLaw : Obligations.ControlLaw := by
  refine ⟨fun r d now cap moves => ?_, fun r now => ?_, fun r => ?_, fun r => ?_⟩
  · exact ⟨countX_eq r.x d moves, rfl, rfl, rfl,
      fun due timer recent same => r.countEdge_interval d now due cap timer recent same,
      r.countEdge_interval_max d now cap, rfl⟩
  · refine ⟨r.delta_eq, r.estimate_fast now, fun slow due timer recent => ?_,
      fun slow past => r.estimate_still now slow (r.isRecent_past now past)⟩
    rw [r.estimate_slow now slow ((r.isRecent_iff now).mpr ⟨due, timer, recent⟩)]
    cases r.lastDir with
    | none => exact Int.zero_mul _
    | lower => exact Int.one_mul _
    | raise => exact Int.neg_one_mul _
  · intro p t lim step
    have target : t.vTarget = r.targetSpeed := rfl
    have moved : t.vCmd = stepToward r.vCmd t.vTarget step := rfl
    refine ⟨rfl, fun lowering => ?_, fun raising => ?_, fun landing => ?_, fun stowing => ?_,
      fun still => target.trans (r.targetSpeed_still still), fun jog free => ?_, fun jog referenced => ?_,
      fun near => moved.trans (if_pos near), fun far => moved.trans (if_neg (Nat.not_le.mpr far))⟩
    · rw [target, Ramp.targetSpeed, lowering]
      rfl
    · rw [target, Ramp.targetSpeed, raising]
      rfl
    · rw [target, Ramp.targetSpeed, landing]
    · rw [target, Ramp.targetSpeed, stowing]
    · rw [target, r.targetSpeed_jog jog, r.jogTarget_free free]
      exact if_neg fun limited => ne_true_of_eq_false free limited.1
    · intro v
      rw [target, r.targetSpeed_jog jog, r.jogTarget_referenced referenced]
      simp only [referenced, true_and]
      rfl
  · intro p t sign jogSign sigma e i demand offset
    have jogs : r.jogSign = jogSign := by
      unfold Ramp.jogSign
      cases dir : r.dir <;> simp only [jogSign, dir] <;> rfl
    have drives : r.sigma = sigma := by
      unfold Ramp.sigma
      cases state : r.state <;> simp only [sigma, state, jogs]
    refine ⟨drives, ?_, r.drive_rest, fun motion => ?_⟩
    · show r.signAtHalt = _
      unfold Ramp.signAtHalt
      cases r.state <;> simp only [jogs]
    · have driven : t = _ := r.drive_motion motion
      have bounded := r.magnitude_le (r.offsetDemand (r.demand r.integrate))
      rw [driven]
      refine ⟨rfl, rfl, bounded, fun lowers => ?_, fun raises => ?_⟩
      · rw [← drives] at lowers
        simp only [r.magnitude_lower _ lowers, lowers]
        rfl
      · rw [← drives] at raises
        simp only [r.magnitude_raise _ raises, raises]
        rfl

end Sys2Proof.Machine
end

section
/-! SUPPORT. The steps of a control period (R86, R94 to R97, R101, R191, R192). -/

namespace Sys2Proof.Machine

open Sys2Proof

/-! ### The position transitions -/

/-- A channel has been tripped into FAULT with a cause and its flag (R101, R103). -/
structure Trips (ch : Channel) (s : State) (out : State × Bool) (c : Cause) (f : Flag) : Prop where
  tripped : out.2 = true
  state : (out.1.ramp ch).state = .fault
  cause : (out.1.ramp ch).cause = c
  flag : out.1.hasFlag f
  only : RampOnly ch s out.1

theorem State.faultRamp_trips (s t : State) (ch : Channel) (c : Cause) (only : RampOnly ch s t) :
    Trips ch s (t.faultRamp ch c, true) c (.ramp ch c.flag) := by
  obtain ⟨record, flag, -, faulted⟩ := t.faultRamp_frame ch c
  generalize t.faultRamp ch c = u at record flag faulted
  exact ⟨rfl, by rw [record]; rfl, by rw [record]; rfl, flag, only.trans faulted⟩

theorem State.positionStep_lowering (s : State) (ch : Channel) (state : (s.ramp ch).state = .lowering) :
    s.positionStep ch = if ((s.ramp ch).params.deployPos : Int) - (s.ramp ch).x ≤ (s.ramp ch).params.wLand
      then (s.enterRamp ch .landing, true) else (s, false) := by
  unfold State.positionStep
  dsimp only
  rw [state]

theorem State.positionStep_raising (s : State) (ch : Channel) (state : (s.ramp ch).state = .raising) :
    s.positionStep ch = if (s.ramp ch).x - ((s.ramp ch).params.stowPos : Int) ≤ (s.ramp ch).params.wStow
      then (s.enterRamp ch .stowing, true) else (s, false) := by
  unfold State.positionStep
  dsimp only
  rw [state]

/-- The settle count taken at a period end (R94). -/
def State.settleTaken (s : State) (ch : Channel) (level : Bool) : State :=
  s.setRamp ch { s.ramp ch with settle := (s.ramp ch).settled level }

theorem State.settleTaken_ramp (s : State) (ch : Channel) (level : Bool) :
    (s.settleTaken ch level).ramp ch = { s.ramp ch with settle := (s.ramp ch).settled level } :=
  State.ramp_setRamp_self _ _ _

theorem State.positionStep_landing (s : State) (ch : Channel) (state : (s.ramp ch).state = .landing) :
    s.positionStep ch = if ((s.ramp ch).params.deployPos : Int) + (s.ramp ch).params.wOver < (s.ramp ch).x
      then (s.faultRamp ch .overtravel, true)
      else if (s.ramp ch).params.nSettle ≤ (s.ramp ch).settled (s.ramp ch).land.level
      then ((s.settleTaken ch (s.ramp ch).land.level).enterRamp ch .landed, true)
      else (s.settleTaken ch (s.ramp ch).land.level, false) := by
  unfold State.positionStep
  extract_lets r p
  rw [show r.state = _ from state]
  rfl

theorem State.positionStep_stowing (s : State) (ch : Channel) (state : (s.ramp ch).state = .stowing) :
    s.positionStep ch = if (s.ramp ch).x < ((s.ramp ch).params.stowPos : Int) - (s.ramp ch).params.wUnder
      then (s.faultRamp ch .overtravel, true)
      else if (s.ramp ch).params.nSettle ≤ (s.ramp ch).settled (s.ramp ch).stow.level
      then ((s.settleTaken ch (s.ramp ch).stow.level).enterLocking ch, true)
      else (s.settleTaken ch (s.ramp ch).stow.level, false) := by
  unfold State.positionStep
  extract_lets r p
  rw [show r.state = _ from state]
  rfl

theorem State.positionStep_other (s : State) (ch : Channel)
    (other : (s.ramp ch).state ∉ [.lowering, .landing, .raising, .stowing]) : s.positionStep ch = (s, false) := by
  unfold State.positionStep
  dsimp only
  cases state : (s.ramp ch).state with
  | lowering | landing | raising | stowing =>
    rw [state] at other
    exact absurd (by decide) other
  | disabled | stowedLocked | starting | landed | locking | halting | halted | jog | fault => rfl

/-- A transition that is made exactly when a channel has come near its end (R94). -/
theorem nears {s t : State} {ch : Channel} {out : State × Bool} {near : Prop} [Decidable near] {st : RampState}
    (own : out = if near then (t, true) else (s, false)) (state : (t.ramp ch).state = st) (settle : (t.ramp ch).settle = 0) :
    (out.2 = true ↔ near) ∧ (out.2 = true → (out.1.ramp ch).state = st ∧ (out.1.ramp ch).settle = 0) := by
  subst own
  by_cases h : near
  · rw [if_pos h]
    exact ⟨iff_of_true rfl h, fun _ => ⟨state, settle⟩⟩
  · rw [if_neg h]
    exact ⟨iff_of_false nofun h, nofun⟩

theorem State.positionStep_landing_ends (s : State) (ch : Channel) (state : (s.ramp ch).state = .landing) :
    let r := s.ramp ch
    let t := (s.positionStep ch).1.ramp ch
    let made := (s.positionStep ch).2
    ((r.params.deployPos : Int) + r.params.wOver < r.x → made = true ∧ t.state = .fault ∧ t.cause = .overtravel)
      ∧ (r.x ≤ (r.params.deployPos : Int) + r.params.wOver →
        (r.params.nSettle ≤ r.settled r.land.level → made = true ∧ t.state = .landed ∧ t.lift = 0)
        ∧ (r.settled r.land.level < r.params.nSettle →
            made = false ∧ t = { r with settle := r.settled r.land.level })) := by
  dsimp only
  rw [s.positionStep_landing ch state]
  refine ⟨fun beyond => ?_, fun within => ?_⟩
  · rw [if_pos beyond]
    have trips := s.faultRamp_trips s ch .overtravel (RampOnly.refl ch s)
    exact ⟨trips.tripped, trips.state, trips.cause⟩
  · rw [if_neg (Int.not_lt.mpr within)]
    refine ⟨fun enough => ?_, fun short => ?_⟩
    · rw [if_pos enough]
      have entered := (s.settleTaken ch (s.ramp ch).land.level).enterRamp_entered ch .landed
      generalize (s.settleTaken ch (s.ramp ch).land.level).enterRamp ch .landed = t at entered ⊢
      exact ⟨rfl, entered.state, entered.lift⟩
    · rw [if_neg (Nat.not_le.mpr short)]
      exact ⟨rfl, s.settleTaken_ramp ch _⟩

theorem State.positionStep_stowing_ends (s : State) (ch : Channel) (state : (s.ramp ch).state = .stowing) :
    let r := s.ramp ch
    let t := (s.positionStep ch).1.ramp ch
    let made := (s.positionStep ch).2
    (r.x < (r.params.stowPos : Int) - r.params.wUnder → made = true ∧ t.state = .fault ∧ t.cause = .overtravel)
      ∧ ((r.params.stowPos : Int) - r.params.wUnder ≤ r.x →
        (r.params.nSettle ≤ r.settled r.stow.level → made = true ∧ t.x = r.params.stowPos
          ∧ t.state = (if r.pinsIn.level then .stowedLocked else .locking))
        ∧ (r.settled r.stow.level < r.params.nSettle →
            made = false ∧ t = { r with settle := r.settled r.stow.level })) := by
  dsimp only
  rw [s.positionStep_stowing ch state]
  refine ⟨fun under => ?_, fun within => ?_⟩
  · rw [if_pos under]
    have trips := s.faultRamp_trips s ch .overtravel (RampOnly.refl ch s)
    exact ⟨trips.tripped, trips.state, trips.cause⟩
  · rw [if_neg (Int.not_lt.mpr within)]
    refine ⟨fun enough => ?_, fun short => ?_⟩
    · rw [if_pos enough]
      have locks := (s.settleTaken ch (s.ramp ch).stow.level).enterLocking_locks ch
      rw [s.settleTaken_ramp ch _] at locks
      exact ⟨rfl, locks.x, locks.state⟩
    · rw [if_neg (Nat.not_le.mpr short)]
      exact ⟨rfl, s.settleTaken_ramp ch _⟩

/-! ### The monitors -/

theorem RampState.stalls_iff (st : RampState) : st.stalls = true ↔ st ∈ [.lowering, .landing, .raising, .stowing, .jog] := by
  cases st <;> decide

theorem RampState.counts_iff (st : RampState) :
    st.counts = true ↔ st ∈ [.lowering, .landing, .raising, .stowing, .halting] := by
  cases st <;> decide

theorem State.runsTest_false (s : State) (id : TestId) (other : ∀ x, s.fc.test = some x → x.id ≠ id) :
    s.runsTest id = false := by
  unfold State.runsTest
  cases test : s.fc.test with
  | none => rfl
  | some x => exact beq_eq_false_iff_ne.mpr (other x test)

theorem State.runsTest_true (s : State) (x : ProofTest) (test : s.fc.test = some x) : s.runsTest x.id = true := by
  unfold State.runsTest
  rw [test]
  exact beq_self_eq_true _

theorem State.testStep_other (s : State) (id : TestId) (last : Nat) (other : ∀ x, s.fc.test = some x → x.id ≠ id) :
    s.testStep id last = s := by
  unfold State.testStep
  cases test : s.fc.test with
  | none => rfl
  | some x => exact if_neg (other x test)

/-- The test of a state, one step on (R191). -/
def State.testStepped (s : State) (x : ProofTest) : State :=
  { s with fc := { s.fc with test := some { x with steps := x.steps + 1 } } }

theorem State.testStep_runs (s : State) (x : ProofTest) (last : Nat) (test : s.fc.test = some x) :
    s.testStep x.id last = if last ≤ x.steps + 1 then (s.testStepped x).endTest .fail else s.testStepped x := by
  unfold State.testStep
  rw [test]
  exact if_pos rfl

theorem State.endTest_eq (s : State) (x : ProofTest) (result : TestResult) (test : s.fc.test = some x) :
    s.endTest result = State.notice { s.zeroTestCount x.id with
      fc := { (s.zeroTestCount x.id).fc with test := none, last := some (x.id, result) } }
      30 result.code [x.id.code, x.arg] := by
  unfold State.endTest
  rw [test]

theorem State.zeroTestCount_overspeed (s : State) (ch : Channel) (r : Ramp) :
    (s.setRamp ch r).zeroTestCount (.overspeed ch) = s.setRamp ch { r with overspeed := 0 } := by
  show (s.setRamp ch r).setRamp ch { (s.setRamp ch r).ramp ch with overspeed := 0 } = _
  rw [s.setRamp_setRamp, State.ramp_setRamp_self]

theorem State.zeroTestCount_overload (s : State) (ch : Channel) (r : Ramp) :
    (s.setRamp ch r).zeroTestCount (.overload ch) = s.setRamp ch { r with overload := 0 } := by
  show (s.setRamp ch r).setRamp ch { (s.setRamp ch r).ramp ch with overload := 0 } = _
  rw [s.setRamp_setRamp, State.ramp_setRamp_self]

/-- The OVERSPEED count that a period end takes (R101). -/
def Ramp.overspeedCount (r : Ramp) : Nat := if r.params.vMax + r.params.vMargin < r.s.natAbs then r.overspeed + 1 else 0

/-- The OVERSPEED count taken. -/
def State.overspeedTaken (s : State) (ch : Channel) (n : Nat) : State := s.setRamp ch { s.ramp ch with overspeed := n }

theorem State.overspeedMonitor_eq (s : State) (ch : Channel) (n : Nat)
    (count : n = if (s.ramp ch).params.vMax + (s.ramp ch).params.vMargin < s.overspeedInput ch
      then (s.ramp ch).overspeed + 1 else 0) :
    s.overspeedMonitor ch = if 3 ≤ n
      then if s.runsTest (.overspeed ch) then ((s.overspeedTaken ch n).endTest .pass, false)
        else ((s.overspeedTaken ch n).faultRamp ch .overspeed, true)
      else ((s.overspeedTaken ch n).testStep (.overspeed ch) 3, false) := by
  subst count
  rfl

theorem State.overspeedMonitor_untested (s : State) (ch : Channel)
    (other : ∀ x, s.fc.test = some x → x.id ≠ .overspeed ch) :
    s.overspeedMonitor ch = if 3 ≤ (s.ramp ch).overspeedCount
      then ((s.overspeedTaken ch (s.ramp ch).overspeedCount).faultRamp ch .overspeed, true)
      else (s.overspeedTaken ch (s.ramp ch).overspeedCount, false) := by
  have idle : s.runsTest (.overspeed ch) = false := s.runsTest_false _ other
  have input : s.overspeedInput ch = (s.ramp ch).s.natAbs := if_neg (ne_true_of_eq_false idle)
  rw [s.overspeedMonitor_eq ch (s.ramp ch).overspeedCount (by rw [input]; rfl), idle, if_neg Bool.false_ne_true,
    State.testStep_other (s.overspeedTaken ch _) _ _ other]

theorem State.overspeedMonitor_tested (s : State) (ch : Channel) (x : ProofTest) (test : s.fc.test = some x)
    (id : x.id = .overspeed ch) : s.overspeedMonitor ch = if 3 ≤ (s.ramp ch).overspeed + 1
      then ((s.overspeedTaken ch ((s.ramp ch).overspeed + 1)).endTest .pass, false)
      else ((s.overspeedTaken ch ((s.ramp ch).overspeed + 1)).testStep x.id 3, false) := by
  have runs : s.runsTest (.overspeed ch) = true := id ▸ s.runsTest_true x test
  have input : s.overspeedInput ch = (s.ramp ch).params.vMax + (s.ramp ch).params.vMargin + 16 := if_pos runs
  rw [s.overspeedMonitor_eq ch ((s.ramp ch).overspeed + 1) (by rw [input, if_pos (by omega)]), runs, if_pos rfl, id]

/-- An OVERSPEED test that has ended with a result (R191, R192). -/
def State.overspeedEnded (s : State) (ch : Channel) (x : ProofTest) (result : TestResult) : State :=
  State.notice { s.setRamp ch { s.ramp ch with overspeed := 0 } with
    fc := { s.fc with test := none, last := some (.overspeed ch, result) } } 30 result.code [x.id.code, x.arg]

theorem State.overspeedTaken_zeroed (s : State) (ch : Channel) (n : Nat) :
    (s.overspeedTaken ch n).zeroTestCount (.overspeed ch) = s.overspeedTaken ch 0 := by
  cases ch <;> rfl

theorem State.testStepped_zeroed (s : State) (x : ProofTest) (id : TestId) :
    (s.testStepped x).zeroTestCount id = (s.zeroTestCount id).testStepped x := by
  cases id <;> rfl

theorem State.overspeedTaken_passes (s : State) (ch : Channel) (n : Nat) (x : ProofTest) (test : s.fc.test = some x)
    (id : x.id = .overspeed ch) : (s.overspeedTaken ch n).endTest .pass = s.overspeedEnded ch x .pass := by
  rw [State.endTest_eq (s.overspeedTaken ch n) x .pass test, State.overspeedEnded, id, s.overspeedTaken_zeroed ch n]
  rfl

theorem State.overspeedTaken_fails (s : State) (ch : Channel) (n : Nat) (x : ProofTest) (id : x.id = .overspeed ch) :
    ((s.overspeedTaken ch n).testStepped x).endTest .fail = s.overspeedEnded ch x .fail := by
  have step : ((s.overspeedTaken ch n).testStepped x).fc.test = some { x with steps := x.steps + 1 } := rfl
  rw [State.endTest_eq _ _ .fail step, State.overspeedEnded]
  dsimp only
  rw [id, State.testStepped_zeroed, s.overspeedTaken_zeroed ch n]
  rfl

theorem State.overspeedMonitor_trips (s : State) (ch : Channel) (other : ∀ x, s.fc.test = some x → x.id ≠ .overspeed ch)
    (fast : 3 ≤ (s.ramp ch).overspeedCount) :
    Trips ch s (s.overspeedMonitor ch) .overspeed (.ramp ch .overspeed) := by
  rw [s.overspeedMonitor_untested ch other, if_pos fast]
  exact s.faultRamp_trips _ ch .overspeed ((RampOnly.refl ch s).setRamp _)

theorem State.overspeedMonitor_ends (s : State) (ch : Channel) (x : ProofTest) (test : s.fc.test = some x)
    (id : x.id = .overspeed ch) :
    (3 ≤ (s.ramp ch).overspeed + 1 → s.overspeedMonitor ch = (s.overspeedEnded ch x .pass, false))
      ∧ ((s.ramp ch).overspeed + 1 < 3 → 3 ≤ x.steps + 1 →
          s.overspeedMonitor ch = (s.overspeedEnded ch x .fail, false))
      ∧ ((s.ramp ch).overspeed + 1 < 3 → x.steps + 1 < 3 →
          s.overspeedMonitor ch = ((s.overspeedTaken ch ((s.ramp ch).overspeed + 1)).testStepped x, false)) := by
  have tested := s.overspeedMonitor_tested ch x test id
  have stepped := (s.overspeedTaken ch ((s.ramp ch).overspeed + 1)).testStep_runs x 3 test
  refine ⟨fun trips => ?_, fun short last => ?_, fun short more => ?_⟩
  · rw [tested, if_pos trips, s.overspeedTaken_passes ch _ x test id]
  · rw [tested, if_neg (Nat.not_le.mpr short), stepped, if_pos last, s.overspeedTaken_fails ch _ x id]
  · rw [tested, if_neg (Nat.not_le.mpr short), stepped, if_neg (Nat.not_le.mpr more)]

/-- The STALL count that a period end takes (R101). -/
def Ramp.stallCount (r : Ramp) : Nat :=
  if r.state ∈ [.lowering, .landing, .raising, .stowing, .jog] ∧ r.params.vCreep ≤ r.vCmd.natAbs ∧ r.s = 0
    then r.stall + 1 else 0

theorem State.stallMonitor_eq (s : State) (ch : Channel) : s.stallMonitor ch =
    if (s.ramp ch).state ∈ [.lowering, .landing, .raising, .stowing, .jog]
        ∧ (s.ramp ch).params.nStall ≤ (s.ramp ch).stallCount
      then ((s.setRamp ch { s.ramp ch with stall := (s.ramp ch).stallCount }).faultRamp ch .stall, true)
      else (s.setRamp ch { s.ramp ch with stall := (s.ramp ch).stallCount }, false) := by
  unfold State.stallMonitor Ramp.stallCount
  simp only [RampState.stalls_iff]

/-- The motion time that a period end takes (R101). -/
def Ramp.timeCount (r : Ramp) : Nat :=
  if r.state ∈ [.lowering, .landing, .raising, .stowing, .halting] then r.motionTime + 10 else r.motionTime

theorem State.motionMonitor_eq (s : State) (ch : Channel) : s.motionMonitor ch =
    if (s.ramp ch).params.tMotion * 1000 < (s.ramp ch).timeCount
      then ((s.setRamp ch { s.ramp ch with motionTime := (s.ramp ch).timeCount }).faultRamp ch .motionTimeout, true)
      else (s.setRamp ch { s.ramp ch with motionTime := (s.ramp ch).timeCount }, false) := by
  unfold State.motionMonitor Ramp.timeCount
  simp only [RampState.counts_iff]

theorem State.stallMonitor_trips (s : State) (ch : Channel)
    (moves : (s.ramp ch).state ∈ [.lowering, .landing, .raising, .stowing, .jog])
    (stalled : (s.ramp ch).params.nStall ≤ (s.ramp ch).stallCount) :
    Trips ch s (s.stallMonitor ch) .stall (.ramp ch .stall) := by
  rw [s.stallMonitor_eq ch, if_pos ⟨moves, stalled⟩]
  exact s.faultRamp_trips _ ch .stall ((RampOnly.refl ch s).setRamp _)

theorem State.motionMonitor_trips (s : State) (ch : Channel)
    (late : (s.ramp ch).params.tMotion * 1000 < (s.ramp ch).timeCount) :
    Trips ch s (s.motionMonitor ch) .motionTimeout (.ramp ch .motionTimeout) := by
  rw [s.motionMonitor_eq ch, if_pos late]
  exact s.faultRamp_trips _ ch .motionTimeout ((RampOnly.refl ch s).setRamp _)

/-! ### The reference test, the permit and the lift monitor -/

theorem Ramp.referenceTest_eq (r : Ramp) : r.referenceTest =
    if r.referenced = false ∧ r.stow.level = true ∧ r.state ∈ [.stowedLocked, .landed, .halted, .fault, .stowing]
      then { r with referenced := true, x := r.params.stowPos } else r := by
  unfold Ramp.referenceTest
  simp only [List.mem_cons, List.not_mem_nil, or_false]

/-- The permit that a state asks at period ends (R95). -/
def Ramp.asks (r : Ramp) (c : Byte) : Prop :=
  r.state ∈ [.lowering, .landing] ∧ c = r.params.lowerPermit ∨ r.state ∈ [.raising, .stowing] ∧ c = r.params.raisePermit
    ∨ r.state = .jog ∧ c = (if r.dir = .raise then r.params.raisePermit else r.params.lowerPermit)

theorem Ramp.periodPermit_iff (r : Ramp) (c : Byte) : r.periodPermit = some c ↔ r.asks c := by
  unfold Ramp.periodPermit Ramp.asks
  rw [RampParams.permit_eq]
  cases r.state <;> simp [eq_comm]

theorem Ramp.signAtHalt_asks (r : Ramp) (c : Byte) (asks : r.asks c) : r.signAtHalt =
    if r.state ∈ [.lowering, .landing] then 1 else if r.state ∈ [.raising, .stowing] then -1 else r.jogSign := by
  unfold Ramp.signAtHalt
  unfold Ramp.asks at asks
  cases state : r.state with
  | lowering | landing | raising | stowing | jog => rfl
  | disabled | stowedLocked | starting | landed | locking | halting | halted | fault =>
    rw [state] at asks
    simp at asks

theorem Ramp.starting_ne_asks (r : Ramp) (c : Byte) (asks : r.asks c) : r.state ≠ .starting := by
  intro state
  unfold Ramp.asks at asks
  rw [state] at asks
  simp at asks

/-- A channel whose permit is lost (R95). -/
def State.permitLost (s : State) (ch : Channel) : State := (s.enterRamp ch .halting).raiseFlag (.ramp ch .permitLost)

theorem State.permitStep_unasked (s : State) (ch : Channel) (unasked : ∀ c, ¬ (s.ramp ch).asks c) :
    s.permitStep ch = s := by
  unfold State.permitStep
  cases permit : (s.ramp ch).periodPermit with
  | none => rfl
  | some c => exact absurd (((s.ramp ch).periodPermit_iff c).mp permit) (unasked c)

theorem State.permitStep_asked (s : State) (ch : Channel) (c : Byte) (asks : (s.ramp ch).asks c) :
    s.permitStep ch = if s.condition c then s else s.permitLost ch := by
  unfold State.permitStep
  rw [((s.ramp ch).periodPermit_iff c).mpr asks]
  rfl

theorem State.permitLost_frame (s : State) (ch : Channel) :
    RampOnly ch s (s.permitLost ch) ∧ (s.permitLost ch).hasFlag (.ramp ch .permitLost)
      ∧ (s.permitLost ch).img.locals.at ch.stateEntry = 9
      ∧ Entered (s.ramp ch) ((s.permitLost ch).ramp ch) .halting := by
  have entered := s.enterRamp_entered ch .halting
  obtain ⟨entry, -⟩ := s.enterRamp_published ch .halting
  have only : RampOnly ch s (s.enterRamp ch .halting) := (RampOnly.refl ch s).enterRamp _
  unfold State.permitLost
  generalize s.enterRamp ch .halting = t at entered entry only ⊢
  rw [t.raiseFlag_ramp]
  exact ⟨only.raiseFlag _, t.raiseFlag_has _, (t.raiseFlag_locals _ _ (by cases ch <;> decide)).trans entry, entered⟩

theorem State.liftStep_landed (s : State) (ch : Channel) (landed : (s.ramp ch).state = .landed) : s.liftStep ch =
    if (s.ramp ch).land.level then s.setRamp ch { s.ramp ch with lift := 0 }
    else if (s.ramp ch).lift < (s.ramp ch).params.nLift then
      if (s.ramp ch).params.nLift ≤ (s.ramp ch).lift + 1
        then (s.setRamp ch { s.ramp ch with lift := (s.ramp ch).lift + 1 }).raiseFlag (.ramp ch .lifted)
        else s.setRamp ch { s.ramp ch with lift := (s.ramp ch).lift + 1 }
    else s := by
  unfold State.liftStep
  exact if_pos landed

/-! ### The profile stage -/

/-- The profile's own record, before HALTING can end (R115, R116). -/
def State.profiled (s : State) (ch : Channel) : State := s.setRamp ch (s.ramp ch).profile

theorem State.profileStage_moving (s : State) (ch : Channel)
    (moving : ¬ (((s.profiled ch).ramp ch).state = .halting ∧ ((s.profiled ch).ramp ch).vCmd = 0)) :
    s.profileStage ch = s.profiled ch := by
  unfold State.profileStage
  exact if_neg moving

theorem State.profileStage_still (s : State) (ch : Channel)
    (still : ((s.profiled ch).ramp ch).state = .halting ∧ ((s.profiled ch).ramp ch).vCmd = 0) :
    s.profileStage ch = if ((s.profiled ch).ramp ch).pendingStart = .none then (s.profiled ch).enterRamp ch .halted
      else ((s.profiled ch).enterRamp ch .halted).startRamp ch ((s.profiled ch).ramp ch).pendingStart := by
  unfold State.profileStage
  exact if_pos still

/-- What a record has after HALTING has ended in HALTED (R96). -/
structure Halted (r t : Ramp) : Prop where
  vCmd : t.vCmd = r.vCmd
  integrator : t.integrator = 0
  buffered : t.buffered = .off
  active : t.active = .off
  pendingStart : t.pendingStart = r.pendingStart
  pinsOut : t.pinsOut = r.pinsOut
  state : t.state = .halted
  dir : t.dir = .none

theorem State.enterRamp_halted (s : State) (ch : Channel) : Halted (s.ramp ch) ((s.enterRamp ch .halted).ramp ch) := by
  obtain ⟨o, v, -, -, record⟩ := s.enterRamp_record ch .halted
  rw [record]
  exact ⟨rfl, rfl, rfl, rfl, rfl, rfl, rfl, rfl⟩

/-- What a record has after STARTING has been entered with a direction (R90). -/
structure Started (d : Dir) (r t : Ramp) : Prop where
  vCmd : t.vCmd = r.vCmd
  integrator : t.integrator = 0
  buffered : t.buffered = .off
  active : t.active = .off
  pendingStart : t.pendingStart = .none
  state : t.state = .starting
  dir : t.dir = d
  pinOut : t.pinOut = !r.pinsOut.level

theorem State.startRamp_started (s : State) (ch : Channel) (d : Dir) :
    Started d (s.ramp ch) ((s.startRamp ch d).ramp ch) ∧ (s.startRamp ch d).img.locals.at ch.stateEntry = 2
      ∧ Announces ch (s.ramp ch) (s.startRamp ch d) := by
  have marked := State.ramp_setRamp_self s ch { s.ramp ch with dir := d, pendingStart := .none }
  have enters (m : State) := And.intro (m.enterRamp_record ch .starting)
    (And.intro (m.enterRamp_published ch .starting).1 (m.enterRamp_announces ch .starting (.inl rfl)))
  obtain ⟨⟨o, v, -, -, record⟩, entry, call⟩ := enters (s.setRamp ch { s.ramp ch with dir := d, pendingStart := .none })
  rw [marked] at record call
  rw [s.startRamp_eq ch d]
  generalize State.enterRamp _ ch .starting = entered at record entry call ⊢
  obtain ⟨driven, -, -, img, cl⟩ := entered.pinsDriven_frame ch _ record rfl rfl
  refine ⟨?_, (congrArg (·.locals.at ch.stateEntry) img).trans entry, ?_⟩
  · rw [driven]
    exact ⟨rfl, rfl, rfl, rfl, rfl, rfl, rfl, rfl⟩
  · rw [Announces, cl]
    exact call

/-- The end of HALTING with no start recorded (R96). -/
theorem State.profileStage_halts (s : State) (ch : Channel)
    (still : ((s.profiled ch).ramp ch).state = .halting ∧ ((s.profiled ch).ramp ch).vCmd = 0)
    (alone : ((s.profiled ch).ramp ch).pendingStart = .none) :
    s.profileStage ch = (s.profiled ch).enterRamp ch .halted := by
  rw [s.profileStage_still ch still, if_pos alone]

/-- The end of HALTING with a start recorded (R86). -/
theorem State.profileStage_starts (s : State) (ch : Channel) (d : Dir)
    (still : ((s.profiled ch).ramp ch).state = .halting ∧ ((s.profiled ch).ramp ch).vCmd = 0)
    (pending : ((s.profiled ch).ramp ch).pendingStart = d) (moves : d ≠ .none) :
    s.profileStage ch = ((s.profiled ch).enterRamp ch .halted).startRamp ch d := by
  rw [s.profileStage_still ch still, pending, if_neg moves]

theorem State.profileStage_only (s : State) (ch : Channel) (v : State) (profiled : s.profiled ch = v)
    (still : (v.ramp ch).state = .halting ∧ (v.ramp ch).vCmd = 0) :
    RampOnly ch v (s.profileStage ch) ∧ ((s.profileStage ch).ramp ch).vCmd = (v.ramp ch).vCmd
      ∧ ((s.profileStage ch).ramp ch).integrator = 0 ∧ ((s.profileStage ch).ramp ch).buffered = .off
      ∧ ((s.profileStage ch).ramp ch).active = .off ∧ ((s.profileStage ch).ramp ch).pendingStart = .none := by
  subst profiled
  have halted := (s.profiled ch).enterRamp_halted ch
  have only : RampOnly ch (s.profiled ch) ((s.profiled ch).enterRamp ch .halted) := (RampOnly.refl ch _).enterRamp _
  by_cases alone : ((s.profiled ch).ramp ch).pendingStart = .none
  · rw [s.profileStage_halts ch still alone]
    exact ⟨only, halted.vCmd, halted.integrator, halted.buffered, halted.active, halted.pendingStart.trans alone⟩
  · rw [s.profileStage_starts ch _ still rfl alone]
    obtain ⟨started, -⟩ := ((s.profiled ch).enterRamp ch .halted).startRamp_started ch ((s.profiled ch).ramp ch).pendingStart
    exact ⟨only.startRamp _, started.vCmd.trans halted.vCmd, started.integrator, started.buffered, started.active,
      started.pendingStart⟩

theorem State.profileStage_starting (s : State) (ch : Channel) (d : Dir) (v : State) (profiled : s.profiled ch = v)
    (still : (v.ramp ch).state = .halting ∧ (v.ramp ch).vCmd = 0) (moves : d ≠ .none)
    (pending : (v.ramp ch).pendingStart = d) :
    s.profileStage ch = (v.enterRamp ch .halted).startRamp ch d ∧ ((s.profileStage ch).ramp ch).state = .starting
      ∧ ((s.profileStage ch).ramp ch).dir = d ∧ ((s.profileStage ch).ramp ch).pinOut = !(v.ramp ch).pinsOut.level
      ∧ (s.profileStage ch).img.locals.at ch.stateEntry = 2
      ∧ ∃ c, (s.profileStage ch).cl.calls.at ch.callEntry = some c ∧ c.origin = .ramp ch := by
  subst profiled
  have halted := (s.profiled ch).enterRamp_halted ch
  obtain ⟨started, entry, call, listed, origin, -⟩ := ((s.profiled ch).enterRamp ch .halted).startRamp_started ch d
  rw [s.profileStage_starts ch d still pending moves]
  exact ⟨rfl, started.state, started.dir, started.pinOut.trans (by rw [halted.pinsOut]), entry, call, listed, origin⟩

/-- Settles O49: each step of the period end, by the equations above. -/
theorem periodEndChecks : Obligations.PeriodEndChecks := by
  refine ⟨fun s ch => ?_, fun s ch => ?_, Ramp.referenceTest_eq, fun s ch => ?_, fun s ch => ?_, fun s ch => ?_⟩
  · intro r p t made n
    refine ⟨fun lowering => ?_, fun raising => ?_, s.positionStep_landing_ends ch, s.positionStep_stowing_ends ch,
      s.positionStep_other ch⟩
    · have entered := s.enterRamp_entered ch .landing
      exact nears (s.positionStep_lowering ch lowering) entered.state entered.settle
    · have entered := s.enterRamp_entered ch .stowing
      exact nears (s.positionStep_raising ch raising) entered.state entered.settle
  · intro r p fast stall time trips
    have met {out : State × Bool} {c : Cause} {f : Flag} (h : Trips ch s out c f) : trips out c f :=
      ⟨h.tripped, h.state, h.cause, h.flag, h.only⟩
    refine ⟨fun other => ⟨fun high => met (s.overspeedMonitor_trips ch other high), fun low => ?_⟩,
      fun x test id => ?_, fun moves stalled => met (s.stallMonitor_trips ch moves stalled), fun free => ?_,
      fun late => met (s.motionMonitor_trips ch late), fun timely => ?_⟩
    · exact (s.overspeedMonitor_untested ch other).trans (if_neg (Nat.not_le.mpr low))
    · exact s.overspeedMonitor_ends ch x test id
    · refine (s.stallMonitor_eq ch).trans (if_neg fun ⟨moves, stalled⟩ => ?_)
      exact free.elim (fun rest => rest moves) fun short => absurd stalled (Nat.not_le.mpr short)
    · exact (s.motionMonitor_eq ch).trans (if_neg (Nat.not_lt.mpr timely))
  · intro r asks t
    refine ⟨s.permitStep_unasked ch, fun c asked => ⟨fun given => ?_, fun denied => ?_⟩⟩
    · exact (s.permitStep_asked ch c asked).trans (if_pos given)
    · have own : t = s.permitLost ch := (s.permitStep_asked ch c asked).trans (if_neg (ne_true_of_eq_false denied))
      obtain ⟨only, flag, entry, entered⟩ := s.permitLost_frame ch
      rw [own]
      exact ⟨rfl, only, entered.state, flag, entry, entered.dir, entered.haltSign.trans (r.signAtHalt_asks c asked),
        entered.vCmd, entered.x, entered.deadTimer⟩
  · intro r up
    refine ⟨fun other => if_neg other, fun landed down => ?_, fun landed lifted => ⟨fun short => ?_, fun reached => ?_,
      fun beyond => ?_⟩⟩
    · rw [s.liftStep_landed ch landed, if_pos down]
    · rw [s.liftStep_landed ch landed, if_neg (ne_true_of_eq_false lifted),
        if_pos (Nat.lt_of_succ_lt short), if_neg (Nat.not_le.mpr short)]
    · rw [s.liftStep_landed ch landed, if_neg (ne_true_of_eq_false lifted), if_pos (Nat.lt_of_succ_le reached.le),
        if_pos reached.ge]
    · rw [s.liftStep_landed ch landed, if_neg (ne_true_of_eq_false lifted), if_neg (Nat.not_lt.mpr beyond)]
  · intro v r t halts
    refine ⟨s.profileStage_moving ch, fun still => ?_⟩
    obtain ⟨only, vCmd, integrator, buffered, active, pending⟩ := s.profileStage_only ch v rfl still
    refine ⟨only, vCmd.trans still.2, integrator, buffered, active, pending, fun alone => ?_,
      fun d moves start => s.profileStage_starting ch d v rfl still moves start⟩
    have own : t = v.enterRamp ch .halted := s.profileStage_halts ch still alone
    have halted := v.enterRamp_halted ch
    obtain ⟨entry, -⟩ := v.enterRamp_published ch .halted
    rw [own]
    exact ⟨rfl, halted.state, halted.dir, (v.enterRamp_call ch .halted).1 rfl, entry⟩

end Sys2Proof.Machine
end

section
/-! SUPPORT. The end of a control period (R93, R112, R119, R193). -/

namespace Sys2Proof.Machine

open Sys2Proof

/-! ### What no step of the period end changes -/

/-- The record's period, parameters and speed estimate are the same. -/
structure Paces (r t : Ramp) : Prop where
  periodAt : t.periodAt = r.periodAt
  params : t.params = r.params
  s : t.s = r.s

theorem Paces.trans {r t u : Ramp} (h : Paces r t) (k : Paces t u) : Paces r u :=
  ⟨k.periodAt.trans h.periodAt, k.params.trans h.params, k.s.trans h.s⟩

/-- One channel has changed, but not its period, its parameters and its speed estimate. -/
structure Paced (ch : Channel) (s t : State) : Prop where
  only : RampOnly ch s t
  paces : Paces (s.ramp ch) (t.ramp ch)

section
variable {ch : Channel} {s t : State}

theorem Paced.refl (ch : Channel) (s : State) : Paced ch s s := ⟨RampOnly.refl ch s, rfl, rfl, rfl⟩

theorem Paced.trans {u : State} (h : Paced ch s t) (k : Paced ch t u) : Paced ch s u :=
  ⟨h.only.trans k.only, h.paces.trans k.paces⟩

theorem Paced.setRamp (h : Paced ch s t) (r : Ramp) (same : Paces (t.ramp ch) r) : Paced ch s (t.setRamp ch r) := by
  refine ⟨h.only.setRamp r, h.paces.trans ?_⟩
  rwa [State.ramp_setRamp_self]

theorem Paced.raiseFlag (h : Paced ch s t) (f : Flag) : Paced ch s (t.raiseFlag f) := by
  refine ⟨h.only.raiseFlag f, ?_⟩
  rw [t.raiseFlag_ramp]
  exact h.paces

theorem Paced.enterRamp (h : Paced ch s t) (st : RampState) : Paced ch s (t.enterRamp ch st) := by
  obtain ⟨o, v, -, -, record⟩ := t.enterRamp_record ch st
  refine ⟨h.only.enterRamp st, h.paces.trans ?_⟩
  rw [record]
  exact ⟨rfl, rfl, rfl⟩

theorem Paced.faultRamp (h : Paced ch s t) (c : Cause) : Paced ch s (t.faultRamp ch c) :=
  ((h.setRamp ((t.ramp ch).tripped c) ⟨rfl, rfl, rfl⟩).enterRamp .fault).raiseFlag _

theorem Paced.startRamp (h : Paced ch s t) (d : Dir) : Paced ch s (t.startRamp ch d) := by
  have entered := (h.setRamp { t.ramp ch with dir := d, pendingStart := .none } ⟨rfl, rfl, rfl⟩).enterRamp .starting
  rw [t.startRamp_eq ch d]
  unfold State.pinsDriven
  split
  · exact entered
  · exact entered.setRamp _ ⟨rfl, rfl, rfl⟩

theorem Paced.enterLocking (h : Paced ch s t) : Paced ch s (t.enterLocking ch) := by
  have entered := (h.setRamp (t.ramp ch).reReference ⟨rfl, rfl, rfl⟩).enterRamp .locking
  unfold State.enterLocking
  extract_lets locking r
  split
  · exact entered.enterRamp .stowedLocked
  · exact entered.setRamp _ ⟨rfl, rfl, rfl⟩

/-- Either of two outcomes, each with its answer. -/
theorem Paced.either {c : Prop} [Decidable c] {x y : State} {p q : Bool} (hx : Paced ch s x) (hy : Paced ch s y) :
    Paced ch s (if c then (x, p) else (y, q)).1 := by
  split
  · exact hx
  · exact hy

theorem Paced.either_or {c d : Prop} [Decidable c] [Decidable d] {x y z : State} {p q r : Bool} (hx : Paced ch s x)
    (hy : Paced ch s y) (hz : Paced ch s z) : Paced ch s (if c then (x, p) else if d then (y, q) else (z, r)).1 := by
  split
  · exact hx
  · exact Paced.either hy hz

theorem Paced.stallMonitor (h : Paced ch s t) : Paced ch s (t.stallMonitor ch).1 := by
  have counted := h.setRamp { t.ramp ch with stall := (t.ramp ch).stallCount } ⟨rfl, rfl, rfl⟩
  rw [t.stallMonitor_eq ch]
  exact Paced.either (counted.faultRamp _) counted

theorem Paced.motionMonitor (h : Paced ch s t) : Paced ch s (t.motionMonitor ch).1 := by
  have counted := h.setRamp { t.ramp ch with motionTime := (t.ramp ch).timeCount } ⟨rfl, rfl, rfl⟩
  rw [t.motionMonitor_eq ch]
  exact Paced.either (counted.faultRamp _) counted

theorem Paced.overspeedMonitor (h : Paced ch s t) (other : ∀ x, t.fc.test = some x → x.id ≠ .overspeed ch) :
    Paced ch s (t.overspeedMonitor ch).1 := by
  have counted := h.setRamp { t.ramp ch with overspeed := (t.ramp ch).overspeedCount } ⟨rfl, rfl, rfl⟩
  rw [t.overspeedMonitor_untested ch other]
  exact Paced.either (counted.faultRamp _) counted

theorem Paced.settleTaken (h : Paced ch s t) (level : Bool) : Paced ch s (t.settleTaken ch level) :=
  h.setRamp _ ⟨rfl, rfl, rfl⟩

theorem Paced.positionStep (h : Paced ch s t) : Paced ch s (t.positionStep ch).1 := by
  by_cases listed : (t.ramp ch).state ∈ [.lowering, .landing, .raising, .stowing]
  · simp only [List.mem_cons, List.not_mem_nil, or_false] at listed
    obtain state | state | state | state := listed
    · rw [t.positionStep_lowering ch state]
      exact Paced.either (h.enterRamp _) h
    · rw [t.positionStep_landing ch state]
      exact Paced.either_or (h.faultRamp _) ((h.settleTaken _).enterRamp _) (h.settleTaken _)
    · rw [t.positionStep_raising ch state]
      exact Paced.either (h.enterRamp _) h
    · rw [t.positionStep_stowing ch state]
      exact Paced.either_or (h.faultRamp _) (h.settleTaken _).enterLocking (h.settleTaken _)
  · rw [t.positionStep_other ch listed]
    exact h

theorem Paced.permitStep (h : Paced ch s t) : Paced ch s (t.permitStep ch) := by
  by_cases asked : ∃ c, (t.ramp ch).asks c
  · obtain ⟨c, asks⟩ := asked
    rw [t.permitStep_asked ch c asks]
    split
    · exact h
    · exact (h.enterRamp .halting).raiseFlag _
  · rw [t.permitStep_unasked ch (not_exists.mp asked)]
    exact h

theorem Paced.liftStep (h : Paced ch s t) : Paced ch s (t.liftStep ch) := by
  by_cases landed : (t.ramp ch).state = .landed
  · rw [t.liftStep_landed ch landed]
    split
    · exact h.setRamp _ ⟨rfl, rfl, rfl⟩
    · split
      · have counted := h.setRamp { t.ramp ch with lift := (t.ramp ch).lift + 1 } ⟨rfl, rfl, rfl⟩
        split
        · exact counted.raiseFlag _
        · exact counted
      · exact h
  · rw [State.liftStep, if_neg landed]
    exact h

theorem Paced.profileStage (h : Paced ch s t) : Paced ch s (t.profileStage ch) := by
  have profiled : Paced ch s (t.profiled ch) := h.setRamp _ ⟨rfl, rfl, rfl⟩
  by_cases still : ((t.profiled ch).ramp ch).state = .halting ∧ ((t.profiled ch).ramp ch).vCmd = 0
  · rw [t.profileStage_still ch still]
    split
    · exact profiled.enterRamp _
    · exact (profiled.enterRamp _).startRamp _
  · rw [t.profileStage_moving ch still]
    exact profiled

end

/-! ### The stages -/

/-- The monitors and, when none trips, the transition, the permit and the lift monitor (R93). -/
def State.checked (s : State) (ch : Channel) : State :=
  if (s.monitors ch).2 then (s.monitors ch).1
  else (if ((s.monitors ch).1.positionStep ch).2 then ((s.monitors ch).1.positionStep ch).1
    else ((s.monitors ch).1.positionStep ch).1.permitStep ch).liftStep ch

theorem State.transitions_eq (s : State) (ch : Channel) : s.transitions ch =
    (if (s.positionStep ch).2 then (s.positionStep ch).1 else (s.positionStep ch).1.permitStep ch).liftStep ch := by
  unfold State.transitions
  obtain ⟨t, made⟩ := s.positionStep ch
  cases made <;> rfl

/-- The profile, the drive, and the close of the period (R93, R112). -/
def State.periodClosed (s : State) (ch : Channel) : State :=
  let driven := (s.profileStage ch).setRamp ch ((s.profileStage ch).ramp ch).drive
  driven.setRamp ch { driven.ramp ch with xPrev := (driven.ramp ch).x }

/-- The next period begun and the speed estimated, at an instant (R93, R113). -/
def State.estimated (s : State) (ch : Channel) (n : Nat) : State :=
  ({ s with now := n } : State).setRamp ch { s.ramp ch with
    periodAt := (s.ramp ch).periodAt + 10 * Config.msec, s := (s.ramp ch).estimate n }

/-- The land level published and the reference tested (R93, R97). -/
def State.landStage (s : State) (ch : Channel) : State :=
  (s.writeLand ch).setRamp ch ((s.writeLand ch).ramp ch).referenceTest

theorem State.periodEnd_begun (s : State) (ch : Channel) (m : State) (begun : m = (s.reach (s.ramp ch).periodAt).setRamp ch
      { s.ramp ch with periodAt := (s.ramp ch).periodAt + 10 * Config.msec }) :
    s.periodEnd ch = if (m.ramp ch).state = .disabled then m.writeLand ch
      else (((m.setRamp ch { m.ramp ch with s := (m.ramp ch).estimate m.now }).landStage ch).checked ch).periodClosed ch := by
  have own : s.periodEnd ch = if (m.ramp ch).state = .disabled then m.writeLand ch else
      State.periodClosed (match ((m.setRamp ch { m.ramp ch with s := (m.ramp ch).estimate m.now }).landStage ch).monitors ch with
        | (s, true) => s
        | (s, false) => s.transitions ch) ch := by
    subst begun
    rfl
  rw [own, State.checked]
  obtain ⟨t, tripped⟩ := ((m.setRamp ch { m.ramp ch with s := (m.ramp ch).estimate m.now }).landStage ch).monitors ch
  cases tripped with
  | true => rfl
  | false => exact congrArg _ (congrArg (State.periodClosed · ch) (t.transitions_eq ch))

/-- The record of the period that begins (R93). -/
def State.periodBegun (s : State) (ch : Channel) : State :=
  (s.reach (s.ramp ch).periodAt).setRamp ch { s.ramp ch with periodAt := (s.ramp ch).periodAt + 10 * Config.msec }

theorem State.periodBegun_ramp (s : State) (ch : Channel) : (s.periodBegun ch).ramp ch =
    { s.ramp ch with periodAt := (s.ramp ch).periodAt + 10 * Config.msec } := State.ramp_setRamp_self _ _ _

theorem State.periodEnd_disabled (s : State) (ch : Channel) (disabled : (s.ramp ch).state = .disabled) :
    s.periodEnd ch = (s.periodBegun ch).writeLand ch := by
  rw [s.periodEnd_begun ch (s.periodBegun ch) rfl]
  refine if_pos ?_
  rwa [s.periodBegun_ramp]

theorem State.periodEnd_enabled (s : State) (ch : Channel) (enabled : (s.ramp ch).state ≠ .disabled) :
    s.periodEnd ch = (((s.estimated ch (max s.now (s.ramp ch).periodAt)).landStage ch).checked ch).periodClosed ch := by
  have state : ((s.periodBegun ch).ramp ch).state ≠ .disabled := by rwa [s.periodBegun_ramp]
  have estimated : (s.periodBegun ch).setRamp ch { (s.periodBegun ch).ramp ch with
      s := ((s.periodBegun ch).ramp ch).estimate (s.periodBegun ch).now }
      = s.estimated ch (max s.now (s.ramp ch).periodAt) := by
    rw [s.periodBegun_ramp]
    exact State.setRamp_setRamp _ _ _ _
  rw [s.periodEnd_begun ch (s.periodBegun ch) rfl, if_neg state, estimated]

theorem State.monitors_skip (s : State) (ch : Channel)
    (skips : (s.ramp ch).state = .disabled ∨ (s.ramp ch).state = .fault) : s.monitors ch = (s, false) := if_pos skips

theorem State.monitors_run (s : State) (ch : Channel)
    (runs : ¬ ((s.ramp ch).state = .disabled ∨ (s.ramp ch).state = .fault)) : s.monitors ch =
      if (s.overspeedMonitor ch).2 then s.overspeedMonitor ch
      else if ((s.overspeedMonitor ch).1.stallMonitor ch).2 then (s.overspeedMonitor ch).1.stallMonitor ch
      else ((s.overspeedMonitor ch).1.stallMonitor ch).1.motionMonitor ch := by
  unfold State.monitors
  rw [if_neg runs]
  obtain ⟨t, sped⟩ := s.overspeedMonitor ch
  cases sped with
  | true => rfl
  | false =>
    dsimp only
    obtain ⟨u, stalled⟩ := t.stallMonitor ch
    cases stalled <;> rfl

/-! ### What the stages keep -/

/-- The channel's period, parameters, estimate and land entry are the same. -/
def Steady (ch : Channel) (s t : State) : Prop :=
  Paces (s.ramp ch) (t.ramp ch) ∧ t.img.locals.at ch.landEntry = s.img.locals.at ch.landEntry

theorem Steady.trans {ch : Channel} {s t u : State} (h : Steady ch s t) (k : Steady ch t u) : Steady ch s u :=
  ⟨h.1.trans k.1, k.2.trans h.2⟩

theorem Paced.steady {ch : Channel} {s t : State} (h : Paced ch s t) : Steady ch s t :=
  ⟨h.paces, h.only.locals _ (.inl (by cases ch <;> decide)) (by cases ch <;> decide)⟩

theorem State.transitions_paced (s : State) (ch : Channel) : Paced ch s
    ((if (s.positionStep ch).2 then (s.positionStep ch).1 else (s.positionStep ch).1.permitStep ch).liftStep ch) := by
  have moved := (Paced.refl ch s).positionStep
  split
  · exact moved.liftStep
  · exact moved.permitStep.liftStep

theorem Paced.checked_of {ch : Channel} {s t : State} (h : Paced ch s (t.monitors ch).1) : Paced ch s (t.checked ch) := by
  unfold State.checked
  split
  · exact h
  · exact h.trans (State.transitions_paced _ ch)

theorem State.checked_skip (s : State) (ch : Channel) (skips : (s.ramp ch).state = .disabled ∨ (s.ramp ch).state = .fault) :
    Paced ch s (s.checked ch) := by
  refine Paced.checked_of ?_
  rw [s.monitors_skip ch skips]
  exact Paced.refl ch s

theorem State.checked_run (s : State) (ch : Channel)
    (runs : ¬ ((s.ramp ch).state = .disabled ∨ (s.ramp ch).state = .fault)) :
    Paced ch (s.overspeedMonitor ch).1 (s.checked ch) := by
  refine Paced.checked_of ?_
  rw [s.monitors_run ch runs]
  have stall := (Paced.refl ch (s.overspeedMonitor ch).1).stallMonitor
  split
  · exact Paced.refl ch _
  · split
    · exact stall
    · exact stall.motionMonitor

theorem State.checked_paced (s : State) (ch : Channel) (other : ∀ x, s.fc.test = some x → x.id ≠ .overspeed ch) :
    Paced ch s (s.checked ch) := by
  by_cases skips : (s.ramp ch).state = .disabled ∨ (s.ramp ch).state = .fault
  · exact s.checked_skip ch skips
  · exact ((Paced.refl ch s).overspeedMonitor other).trans (s.checked_run ch skips)

theorem State.overspeedEnded_steady (s : State) (ch : Channel) (x : ProofTest) (result : TestResult) :
    Steady ch s (s.overspeedEnded ch x result) := by
  have calm : Calm _ (s.overspeedEnded ch x result) := State.notice_calm _ _ _ _
  have record : (s.overspeedEnded ch x result).ramp ch = { s.ramp ch with overspeed := 0 } := by
    rw [State.ramp, calm.ramps]
    exact State.ramp_setRamp_self _ _ _
  refine ⟨?_, State.place_locals _ _ _ (by cases ch <;> decide)⟩
  rw [record]
  exact ⟨rfl, rfl, rfl⟩

theorem State.overspeedTaken_paced (s : State) (ch : Channel) (n : Nat) : Paced ch s (s.overspeedTaken ch n) :=
  (Paced.refl ch s).setRamp _ ⟨rfl, rfl, rfl⟩

theorem State.testStepped_steady (s : State) (ch : Channel) (x : ProofTest) : Steady ch s (s.testStepped x) :=
  ⟨⟨rfl, rfl, rfl⟩, rfl⟩

theorem State.overspeedMonitor_steady (s : State) (ch : Channel) : Steady ch s (s.overspeedMonitor ch).1 := by
  by_cases tested : ∃ x, s.fc.test = some x ∧ x.id = .overspeed ch
  · obtain ⟨x, test, id⟩ := tested
    obtain ⟨passes, fails, goes⟩ := s.overspeedMonitor_ends ch x test id
    by_cases trips : 3 ≤ (s.ramp ch).overspeed + 1
    · rw [passes trips]
      exact s.overspeedEnded_steady ch x .pass
    · by_cases last : 3 ≤ x.steps + 1
      · rw [fails (Nat.lt_of_not_le trips) last]
        exact s.overspeedEnded_steady ch x .fail
      · rw [goes (Nat.lt_of_not_le trips) (Nat.lt_of_not_le last)]
        exact (s.overspeedTaken_paced ch _).steady.trans (State.testStepped_steady _ ch x)
  · exact ((Paced.refl ch s).overspeedMonitor fun x test id => tested ⟨x, test, id⟩).steady

theorem State.checked_steady (s : State) (ch : Channel) : Steady ch s (s.checked ch) := by
  by_cases skips : (s.ramp ch).state = .disabled ∨ (s.ramp ch).state = .fault
  · exact (s.checked_skip ch skips).steady
  · exact (s.overspeedMonitor_steady ch).trans (s.checked_run ch skips).steady

theorem Ramp.drive_paces (r : Ramp) : Paces r r.drive := by
  cases motion : r.state.isMotion with
  | true =>
    rw [r.drive_motion motion]
    exact ⟨rfl, rfl, rfl⟩
  | false =>
    rw [r.drive_rest motion]
    exact ⟨rfl, rfl, rfl⟩

/-- The record at the close of a period (R112, R119). -/
def Ramp.closed (r : Ramp) : Ramp := { r.drive with xPrev := r.drive.x }

theorem Ramp.closed_paces (r : Ramp) : Paces r r.closed :=
  ⟨r.drive_paces.periodAt, r.drive_paces.params, r.drive_paces.s⟩

theorem State.periodClosed_eq (s : State) (ch : Channel) :
    s.periodClosed ch = (s.profileStage ch).setRamp ch ((s.profileStage ch).ramp ch).closed := by
  unfold State.periodClosed
  dsimp only
  rw [State.ramp_setRamp_self, State.setRamp_setRamp]
  rfl

theorem State.periodClosed_paced (s : State) (ch : Channel) : Paced ch s (s.periodClosed ch) := by
  rw [s.periodClosed_eq ch]
  exact (Paced.refl ch s).profileStage.setRamp _ (Ramp.closed_paces _)

/-- A drive at rest is off, one in motion within D_max (R118, R119). -/
theorem Ramp.closed_drive (r : Ramp) : r.closed.xPrev = r.closed.x
    ∧ (r.closed.state.isMotion = false → r.closed.buffered = .off)
    ∧ (r.closed.state.isMotion = true → r.closed.buffered.mag ≤ r.closed.params.dMax) := by
  unfold Ramp.closed
  cases motion : r.state.isMotion with
  | true =>
    rw [r.drive_motion motion]
    exact ⟨rfl, fun rest => absurd (motion.symm.trans rest) (by decide), fun _ => r.magnitude_le _⟩
  | false =>
    rw [r.drive_rest motion]
    exact ⟨rfl, fun _ => rfl, fun moves => absurd (motion.symm.trans moves) (by decide)⟩

theorem State.periodClosed_drive (s : State) (ch : Channel) : ∃ r : Ramp, (s.periodClosed ch).ramp ch = r.closed :=
  ⟨_, by rw [s.periodClosed_eq ch, State.ramp_setRamp_self]⟩

/-! ### The land level -/

theorem State.writeLand_untested (s : State) (ch : Channel) (other : ∀ p, s.fc.test = some p → p.id ≠ .landInput ch) :
    s.writeLand ch = s.writeLocal ch.landEntry (bit (s.ramp ch).land.level) := by
  unfold State.writeLand
  dsimp only
  cases test : s.fc.test with
  | none => rfl
  | some p => exact if_neg (other p test)

theorem Ramp.referenceTest_paces (r : Ramp) : Paces r r.referenceTest := by
  rw [r.referenceTest_eq]
  split
  · exact ⟨rfl, rfl, rfl⟩
  · exact ⟨rfl, rfl, rfl⟩

theorem State.writeLocal_paced (s : State) (ch : Channel) (i : Fin 32) (v : Byte) :
    Paced ch (s.published i v) (s.writeLocal i v) := by
  have only := State.writeLocal_published s i v
  refine ⟨RampOnly.ofCalls' ch only, ?_⟩
  rw [only.ramp ch]
  exact ⟨rfl, rfl, rfl⟩

theorem State.landStage_paced (s : State) (ch : Channel) (other : ∀ p, s.fc.test = some p → p.id ≠ .landInput ch) :
    Paced ch (s.published ch.landEntry (bit (s.ramp ch).land.level)) (s.landStage ch) := by
  unfold State.landStage
  rw [s.writeLand_untested ch other]
  exact (s.writeLocal_paced ch _ _).setRamp _ (Ramp.referenceTest_paces _)

theorem State.landStage_fc (s : State) (ch : Channel) (other : ∀ p, s.fc.test = some p → p.id ≠ .landInput ch) :
    (s.landStage ch).fc = s.fc := by
  unfold State.landStage
  rw [s.writeLand_untested ch other]
  exact s.writeLocal_fc _ _

/-! ### A period end at rest under a LAND_INPUT test -/

/-- The land level written under a LAND_INPUT test, the test one step on (R193). -/
def State.landWritten (s : State) (ch : Channel) (p : ProofTest) : State :=
  (s.writeLocal ch.landEntry (bit (if p.steps < 2 then !(s.ramp ch).land.level else (s.ramp ch).land.level))).testStepped p

theorem State.landWritten_entry (s : State) (ch : Channel) (p : ProofTest) : (s.landWritten ch p).img.locals.at ch.landEntry =
    bit (if p.steps < 2 then !(s.ramp ch).land.level else (s.ramp ch).land.level) := by
  show (s.writeLocal ch.landEntry _).img.locals.at ch.landEntry = _
  rw [State.writeLocal_locals]
  exact Tab.at_put_self _ _ _

theorem State.writeLand_tested (s : State) (ch : Channel) (p : ProofTest) (test : s.fc.test = some p)
    (id : p.id = .landInput ch) :
    s.writeLand ch = if p.steps < 2 then s.landWritten ch p else (s.landWritten ch p).endTest .pass := by
  have entry := s.landWritten_entry ch p
  unfold State.writeLand
  dsimp only
  rw [test]
  exact (if_pos id).trans (if_neg (not_not_intro entry))

/-- What the land level's stage under a LAND_INPUT test leaves alone, and what it does to the test (R193). -/
structure LandTested (ch : Channel) (p : ProofTest) (s t : State) : Prop where
  ramp : t.ramp ch = s.ramp ch
  now : t.now = s.now
  entry : t.img.locals.at ch.landEntry = bit (if p.steps < 2 then !(s.ramp ch).land.level else (s.ramp ch).land.level)
  runs : p.steps < 2 → t.fc = { s.fc with test := some { p with steps := p.steps + 1 } }
  passed : 2 ≤ p.steps → t.fc.test = none ∧ t.fc.last = some (.landInput ch, .pass)
    ∧ (HasRoom s → t.tells (s.noticeFrame 30 16 [p.id.code, p.arg]))

theorem State.landWritten_ramp (s : State) (ch : Channel) (p : ProofTest) : (s.landWritten ch p).ramp ch = s.ramp ch :=
  s.writeLocal_ramp _ _ ch

/-- The test's record when its last step has passed (R191, R193). -/
def State.landPassed (s : State) (ch : Channel) (p : ProofTest) : State :=
  { s.landWritten ch p with
    fc := { (s.landWritten ch p).fc with test := none, last := some (.landInput ch, .pass) } }

theorem State.landWritten_passes (s : State) (ch : Channel) (p : ProofTest) (id : p.id = .landInput ch) :
    (s.landWritten ch p).endTest .pass = (s.landPassed ch p).notice 30 16 [p.id.code, p.arg] := by
  rw [State.endTest_eq (s.landWritten ch p) { p with steps := p.steps + 1 } .pass rfl]
  dsimp only
  rw [id]
  rfl

theorem State.writeLand_landTested (s : State) (ch : Channel) (p : ProofTest) (test : s.fc.test = some p)
    (id : p.id = .landInput ch) : LandTested ch p s (s.writeLand ch) := by
  have own := s.writeLand_tested ch p test id
  have entry := s.landWritten_entry ch p
  have written := s.writeLocal_calm ch.landEntry
    (bit (if p.steps < 2 then !(s.ramp ch).land.level else (s.ramp ch).land.level))
  by_cases more : p.steps < 2
  · rw [own, if_pos more]
    refine ⟨s.landWritten_ramp ch p, written.now, entry, fun _ => ?_, fun last => absurd more (Nat.not_lt.mpr last)⟩
    exact congrArg (fun x : Fc => { x with test := some { p with steps := p.steps + 1 } }) (s.writeLocal_fc _ _)
  · rw [own, if_neg more, s.landWritten_passes ch p id]
    have calm := (s.landPassed ch p).notice_calm 30 16 [p.id.code, p.arg]
    refine ⟨?_, calm.now.trans written.now, (State.place_locals _ _ _ (by cases ch <;> decide)).trans entry,
      fun few => absurd few more, fun _ => ⟨calm.test, calm.last, fun room => ?_⟩⟩
    · rw [State.ramp, calm.ramps]
      exact s.landWritten_ramp ch p
    · have node : (s.landPassed ch p).node = s.node := written.node
      have bli : (s.landPassed ch p).bli = s.bli := s.writeLocal_bli _ _
      rw [← State.noticeFrame_congr node]
      exact State.notice_tells _ _ _ _ (by rwa [HasRoom, bli])

/-- At rest in STOWED_LOCKED, with the readings that a period end of R93 judges the same. -/
structure Rests (r t : Ramp) : Prop where
  state : t.state = .stowedLocked
  land : t.land = r.land
  s : t.s = r.s
  params : t.params = r.params
  motionTime : t.motionTime = r.motionTime

theorem State.monitors_pass {s t u v : State} {ch : Channel}
    (runs : ¬ ((s.ramp ch).state = .disabled ∨ (s.ramp ch).state = .fault)) (speed : s.overspeedMonitor ch = (t, false))
    (stall : t.stallMonitor ch = (u, false)) (motion : u.motionMonitor ch = (v, false)) : s.monitors ch = (v, false) := by
  rw [s.monitors_run ch runs, speed]
  exact (if_neg Bool.false_ne_true).trans (stall ▸ (if_neg Bool.false_ne_true).trans motion)

/-- No monitor trips in STOWED_LOCKED at a speed within the limit (R101). -/
theorem State.monitors_rest (s : State) (ch : Channel) (rest : (s.ramp ch).state = .stowedLocked)
    (other : ∀ x, s.fc.test = some x → x.id ≠ .overspeed ch)
    (slow : (s.ramp ch).s.natAbs ≤ (s.ramp ch).params.vMax + (s.ramp ch).params.vMargin)
    (timely : (s.ramp ch).motionTime ≤ (s.ramp ch).params.tMotion * 1000) :
    ∃ r, s.monitors ch = (s.setRamp ch r, false) ∧ Rests (s.ramp ch) r := by
  have still (l : List RampState) (absent : RampState.stowedLocked ∉ l) : (s.ramp ch).state ∉ l := rest ▸ absent
  have count : (s.ramp ch).overspeedCount = 0 := if_neg (Nat.not_lt.mpr slow)
  have speed := s.overspeedMonitor_untested ch other
  rw [count, if_neg (by decide)] at speed
  have taken : (s.overspeedTaken ch 0).ramp ch = { s.ramp ch with overspeed := 0 } := State.ramp_setRamp_self _ _ _
  have stall := (s.overspeedTaken ch 0).stallMonitor_eq ch
  rw [taken, if_neg fun h => still _ (by decide) h.1, State.overspeedTaken, State.setRamp_setRamp] at stall
  generalize ({ s.ramp ch with overspeed := 0 } : Ramp).stallCount = n at stall
  have motion := (s.setRamp ch { s.ramp ch with overspeed := 0, stall := n }).motionMonitor_eq ch
  have time : ({ s.ramp ch with overspeed := 0, stall := n } : Ramp).timeCount = (s.ramp ch).motionTime :=
    if_neg (still _ (by decide))
  rw [State.ramp_setRamp_self, time, if_neg (Nat.not_lt.mpr timely), State.setRamp_setRamp] at motion
  have runs : ¬ ((s.ramp ch).state = .disabled ∨ (s.ramp ch).state = .fault) := by
    rw [rest]
    decide
  exact ⟨_, State.monitors_pass runs speed stall motion, ⟨rest, rfl, rfl, rfl, rfl⟩⟩

theorem State.checked_rest (s : State) (ch : Channel) (rest : (s.ramp ch).state = .stowedLocked)
    (other : ∀ x, s.fc.test = some x → x.id ≠ .overspeed ch)
    (slow : (s.ramp ch).s.natAbs ≤ (s.ramp ch).params.vMax + (s.ramp ch).params.vMargin)
    (timely : (s.ramp ch).motionTime ≤ (s.ramp ch).params.tMotion * 1000) :
    ∃ r, s.checked ch = s.setRamp ch r ∧ Rests (s.ramp ch) r := by
  obtain ⟨r, monitors, rests⟩ := s.monitors_rest ch rest other slow timely
  refine ⟨r, ?_, rests⟩
  have record : ((s.setRamp ch r).ramp ch).state = .stowedLocked := by
    rw [State.ramp_setRamp_self]
    exact rests.state
  unfold State.checked
  rw [monitors]
  dsimp only
  generalize s.setRamp ch r = t at record ⊢
  have unasked (c : Byte) : ¬ (t.ramp ch).asks c := by
    unfold Ramp.asks
    rw [record]
    simp
  rw [t.positionStep_other ch (by rw [record]; decide), if_neg Bool.false_ne_true, if_neg Bool.false_ne_true,
    t.permitStep_unasked ch unasked, State.liftStep, if_neg (by rw [record]; decide)]

theorem State.periodClosed_rest (s : State) (ch : Channel) (rest : (s.ramp ch).state = .stowedLocked) :
    s.periodClosed ch = s.setRamp ch (s.ramp ch).profile.closed := by
  have profiled : (s.profiled ch).ramp ch = (s.ramp ch).profile := State.ramp_setRamp_self _ _ _
  have moving : ¬ (((s.profiled ch).ramp ch).state = .halting ∧ ((s.profiled ch).ramp ch).vCmd = 0) := by
    rw [profiled]
    exact fun still => absurd (rest.symm.trans still.1) (by decide)
  rw [s.periodClosed_eq ch, s.profileStage_moving ch moving, profiled]
  exact s.setRamp_setRamp ch _ _

theorem Ramp.closed_rest (r : Ramp) (rest : r.state = .stowedLocked) :
    r.profile.closed.state = .stowedLocked ∧ r.profile.closed.land = r.land := by
  have motion : r.profile.state.isMotion = false := congrArg RampState.isMotion rest
  unfold Ramp.closed
  rw [r.profile.drive_rest motion]
  exact ⟨rest, rfl⟩

theorem Ramp.referenceTest_rest (r : Ramp) (rest : r.state = .stowedLocked) : Rests r r.referenceTest := by
  rw [r.referenceTest_eq]
  split
  · exact ⟨rest, rfl, rfl, rfl, rfl⟩
  · exact ⟨rest, rfl, rfl, rfl, rfl⟩

/-- A whole period end at rest: the land stage, and the channel's own record (R93). -/
theorem State.periodStages_rest (s : State) (ch : Channel) (r : Ramp) (written : (s.writeLand ch).ramp ch = r)
    (rest : r.state = .stowedLocked) (other : ∀ x, (s.writeLand ch).fc.test = some x → x.id ≠ .overspeed ch)
    (slow : r.s.natAbs ≤ r.params.vMax + r.params.vMargin) (timely : r.motionTime ≤ r.params.tMotion * 1000) :
    ∃ x, ((s.landStage ch).checked ch).periodClosed ch = (s.writeLand ch).setRamp ch x
      ∧ x.state = .stowedLocked ∧ x.land = r.land := by
  have staged : s.landStage ch = (s.writeLand ch).setRamp ch r.referenceTest := by rw [State.landStage, written]
  have referenced := r.referenceTest_rest rest
  have record : (s.landStage ch).ramp ch = r.referenceTest := by rw [staged, State.ramp_setRamp_self]
  obtain ⟨y, checked, rests⟩ := (s.landStage ch).checked_rest ch (by rw [record]; exact referenced.state)
    (by rw [staged]; exact other) (by rw [record, referenced.s, referenced.params]; exact slow)
    (by rw [record, referenced.motionTime, referenced.params]; exact timely)
  rw [record] at rests
  have yRecord : (((s.landStage ch).setRamp ch y).ramp ch) = y := State.ramp_setRamp_self _ _ _
  have closed := ((s.landStage ch).setRamp ch y).periodClosed_rest ch (by rw [yRecord]; exact rests.state)
  rw [yRecord] at closed
  obtain ⟨state, land⟩ := y.closed_rest rests.state
  exact ⟨y.profile.closed, by rw [checked, closed, staged, State.setRamp_setRamp, State.setRamp_setRamp], state, land.trans (rests.land.trans referenced.land)⟩

/-! ### The whole period end -/

theorem State.estimated_ramp (s : State) (ch : Channel) (n : Nat) : (s.estimated ch n).ramp ch = { s.ramp ch with
    periodAt := (s.ramp ch).periodAt + 10 * Config.msec, s := (s.ramp ch).estimate n } := State.ramp_setRamp_self _ _ _

/-- The clock at the period's end, the land level published (R93, log 2). -/
def State.periodBase (s : State) (ch : Channel) : State :=
  ({ s with now := max s.now (s.ramp ch).periodAt } : State).published ch.landEntry (bit (s.ramp ch).land.level)

theorem State.periodBase_entry (s : State) (ch : Channel) :
    (s.periodBase ch).img.locals.at ch.landEntry = bit (s.ramp ch).land.level := Tab.at_put_self _ _ _

/-- The same with the period begun and the speed estimated. -/
def State.periodOpened (s : State) (ch : Channel) : State :=
  (s.periodBase ch).setRamp ch { s.ramp ch with
    periodAt := (s.ramp ch).periodAt + 10 * Config.msec, s := (s.ramp ch).estimate (max s.now (s.ramp ch).periodAt) }

theorem State.periodOpened_ramp (s : State) (ch : Channel) : (s.periodOpened ch).ramp ch = { s.ramp ch with
    periodAt := (s.ramp ch).periodAt + 10 * Config.msec
    s := (s.ramp ch).estimate (max s.now (s.ramp ch).periodAt) } := State.ramp_setRamp_self _ _ _

theorem State.estimated_landStage (s : State) (ch : Channel) (other : ∀ p, s.fc.test = some p → p.id ≠ .landInput ch) :
    Paced ch (s.periodOpened ch) ((s.estimated ch (max s.now (s.ramp ch).periodAt)).landStage ch)
      ∧ ((s.estimated ch (max s.now (s.ramp ch).periodAt)).landStage ch).fc = s.fc := by
  have paced := (s.estimated ch (max s.now (s.ramp ch).periodAt)).landStage_paced ch other
  rw [s.estimated_ramp ch] at paced
  exact ⟨paced, (s.estimated ch (max s.now (s.ramp ch).periodAt)).landStage_fc ch other⟩

theorem State.periodEnd_steady (s : State) (ch : Channel) (enabled : (s.ramp ch).state ≠ .disabled)
    (other : ∀ p, s.fc.test = some p → p.id ≠ .landInput ch) :
    Steady ch (s.periodOpened ch) (s.periodEnd ch)
      ∧ ((∀ p, s.fc.test = some p → p.id ≠ .overspeed ch) → RampOnly ch (s.periodOpened ch) (s.periodEnd ch))
      ∧ ∃ r : Ramp, (s.periodEnd ch).ramp ch = r.closed := by
  obtain ⟨landed, fc⟩ := s.estimated_landStage ch other
  rw [s.periodEnd_enabled ch enabled]
  generalize (s.estimated ch (max s.now (s.ramp ch).periodAt)).landStage ch = m at landed fc ⊢
  refine ⟨landed.steady.trans ((m.checked_steady ch).trans (State.periodClosed_paced _ ch).steady), fun slow => ?_,
    (m.checked ch).periodClosed_drive ch⟩
  exact (landed.trans ((m.checked_paced ch (fc ▸ slow)).trans (State.periodClosed_paced _ ch))).only

theorem State.periodEnd_idle (s : State) (ch : Channel) (disabled : (s.ramp ch).state = .disabled)
    (other : ∀ p, s.fc.test = some p → p.id ≠ .landInput ch) :
    s.periodEnd ch = (s.periodBegun ch).writeLocal ch.landEntry (bit (s.ramp ch).land.level) := by
  rw [s.periodEnd_disabled ch disabled, (s.periodBegun ch).writeLand_untested ch other, s.periodBegun_ramp ch]

/-- The period end of a DISABLED channel (R93). -/
theorem State.periodEnd_idle_frame (s : State) (ch : Channel) (disabled : (s.ramp ch).state = .disabled)
    (other : ∀ p, s.fc.test = some p → p.id ≠ .landInput ch) :
    RampOnly ch (s.periodBase ch) (s.periodEnd ch)
      ∧ (s.periodEnd ch).ramp ch = { s.ramp ch with periodAt := (s.ramp ch).periodAt + 10 * Config.msec }
      ∧ (s.periodEnd ch).img.locals.at ch.landEntry = bit (s.ramp ch).land.level
      ∧ Calm s { s.periodEnd ch with now := s.now, ramps := s.ramps } ∧ (s.periodEnd ch).fc = s.fc
      ∧ (s.periodEnd ch).bli = s.bli := by
  rw [s.periodEnd_idle ch disabled other]
  have calm := (s.periodBegun ch).writeLocal_calm ch.landEntry (bit (s.ramp ch).land.level)
  have paced := (s.periodBegun ch).writeLocal_paced ch ch.landEntry (bit (s.ramp ch).land.level)
  refine ⟨RampOnly.trans ((RampOnly.refl ch (s.periodBase ch)).setRamp _) paced.only, ?_, ?_, ?_,
    (s.periodBegun ch).writeLocal_fc _ _, (s.periodBegun ch).writeLocal_bli _ _⟩
  · rw [State.writeLocal_ramp, s.periodBegun_ramp ch]
  · rw [State.writeLocal_locals]
    exact Tab.at_put_self _ _ _
  · exact ⟨calm.pending, rfl, calm.straps, calm.node, calm.pins, calm.dls, calm.dcc, calm.held, rfl, calm.estop,
      calm.groups, calm.cl, calm.bd, calm.ts, calm.settings, calm.remotes, calm.defs, calm.pointer, calm.pass,
      calm.silence, calm.restarting, calm.masks, calm.summaryMasks, calm.test, calm.last, calm.flags, calm.agenda⟩

/-- Settles O48: the stages in their order, what they keep of the channel, and the LAND_INPUT test at rest. -/
theorem periodEnds : Obligations.PeriodEnds := by
  refine ⟨fun s ch node other => ?_, fun s ch p node test id rest => ?_, fun s ch node enabled => ?_, fun s ch => ?_⟩
  · intro r n
    have own := s.act_own _ (·.periodEnd ch) node rfl
    by_cases disabled : r.state = .disabled
    · obtain ⟨only, record, entry, calm, fc, bli⟩ := s.periodEnd_idle_frame ch disabled other
      refine ⟨_, own, fun _ => only, ?_, ?_, entry, fun _ => ⟨record, fc, bli, calm.dls, calm.cl, calm.bd⟩,
        fun enabled => absurd disabled enabled⟩
      · rw [record]
      · rw [record]
    · obtain ⟨⟨paces, entry⟩, only, x, record⟩ := s.periodEnd_steady ch disabled other
      have begun : RampOnly ch (s.periodBase ch) (s.periodOpened ch) := (RampOnly.refl ch _).setRamp _
      obtain ⟨periodAt, params, speed⟩ := paces
      rw [s.periodOpened_ramp ch] at periodAt params speed
      refine ⟨_, own, fun slow => begun.trans (only slow), periodAt, params, entry.trans (s.periodBase_entry ch),
        fun idle => absurd idle disabled, fun _ => ?_⟩
      obtain ⟨close, off, bound⟩ := x.closed_drive
      rw [record] at params speed ⊢
      rw [params] at bound
      exact ⟨speed, close, off, bound⟩
  · intro r n written slow timely
    have enabled : r.state ≠ .disabled := fun disabled => absurd (rest.symm.trans disabled) (by decide)
    have tested := (s.estimated ch n).writeLand_landTested ch p test id
    have record := tested.ramp
    rw [s.estimated_ramp ch n] at record
    have unsped (x : ProofTest) (runs : ((s.estimated ch n).writeLand ch).fc.test = some x) : x.id ≠ .overspeed ch := by
      by_cases more : p.steps < 2
      · rw [tested.runs more] at runs
        obtain rfl := Option.some.inj runs
        exact fun same => absurd (id.symm.trans same) nofun
      · rw [(tested.passed (Nat.le_of_not_lt more)).1] at runs
        exact absurd runs nofun
    obtain ⟨x, ended, state, land⟩ := (s.estimated ch n).periodStages_rest ch _ record rest unsped slow timely
    have own := (s.periodEnd_enabled ch enabled).trans ended
    have closed : (((s.estimated ch n).writeLand ch).setRamp ch x).ramp ch = x := State.ramp_setRamp_self _ _ _
    have entry := tested.entry
    have shown : (s.estimated ch n).ramp ch = _ := s.estimated_ramp ch n
    rw [shown] at entry
    exact ⟨_, s.act_own _ (·.periodEnd ch) node own, tested.now, entry, closed.symm ▸ state, closed.symm ▸ land,
      tested.runs, tested.passed⟩
  · intro r n estimated written referenced judged moved passed profiled driven
    exact s.act_own _ (·.periodEnd ch) node (s.periodEnd_enabled ch enabled)
  · intro speed stall skips
    exact ⟨s.monitors_skip ch, s.monitors_run ch⟩

end Sys2Proof.Machine
end

section
/-! SUPPORT. Times of the drive, and the outputs (R80, R102, R110, R120 to R123, R164, R189). -/

namespace Sys2Proof.Machine

open Sys2Proof

/-! ### Timers of the drive -/

theorem State.recentExpired_eq (s : State) (ch : Channel) (due : Nat) (timer : (s.ramp ch).recent = some due) :
    s.recentExpired ch = (s.reach due).setRamp ch { s.ramp ch with recent := none } := by
  unfold State.recentExpired
  rw [timer]
  rfl

theorem State.pwmStart_eq (s : State) (ch : Channel) (z : Nat) (zero : (s.ramp ch).pwmZero = some z) :
    s.pwmStart ch = (s.reach (z + 2 * (s.ramp ch).params.pwmN)).setRamp ch { s.ramp ch with
      pwmZero := some (z + 2 * (s.ramp ch).params.pwmN), pwmCentred := false, active := (s.ramp ch).buffered } := by
  unfold State.pwmStart
  dsimp only
  rw [zero]

theorem State.pwmAtCentre_eq (s : State) (ch : Channel) (z : Nat) (zero : (s.ramp ch).pwmZero = some z)
    (waits : (s.ramp ch).pwmCentred = false) :
    s.pwmAtCentre ch = (s.reach (z + (s.ramp ch).params.pwmN)).setRamp ch { s.ramp ch with
      pwmCentred := true, conversion := some (max s.now (z + (s.ramp ch).params.pwmN) + 6 * Config.usec) } := by
  unfold State.pwmAtCentre
  dsimp only
  rw [zero]
  exact if_neg (ne_true_of_eq_false waits)

/-! ### The pressure sample -/

/-- The clock at the conversion's end, the sample at its pin (R123, log 25). -/
def State.sampled (s : State) (ch : Channel) (x : BitVec 12) (due : Nat) : State :=
  (s.setChannelPins ch { s.pins.channels.get ch with pressure := x }).reach due

/-- The sample kept, with an overload count (R102, R123). -/
def State.sampleKept (s : State) (ch : Channel) (x : BitVec 12) (due : Nat) (n : Nat) : State :=
  (s.sampled ch x due).setRamp ch { s.ramp ch with conversion := none, lastSample := x, overload := n }

theorem State.sampleKept_ramp (s : State) (ch : Channel) (x : BitVec 12) (due n : Nat) :
    (s.sampleKept ch x due n).ramp ch = { s.ramp ch with conversion := none, lastSample := x, overload := n } :=
  State.ramp_setRamp_self _ _ _

theorem State.conversionDone_eq (s : State) (ch : Channel) (x : BitVec 12) (due : Nat)
    (timer : (s.ramp ch).conversion = some due) :
    s.conversionDone ch x = (s.sampleKept ch x due (s.ramp ch).overload).overloadMonitor ch x.toNat := by
  unfold State.conversionDone
  extract_lets pins shown
  have same : (shown.ramp ch).conversion = some due := timer
  rw [same]
  rfl

/-- The overload count taken. -/
def State.overloadTaken (s : State) (ch : Channel) (n : Nat) : State := s.setRamp ch { s.ramp ch with overload := n }

theorem State.sampleKept_taken (s : State) (ch : Channel) (x : BitVec 12) (due n m : Nat) :
    (s.sampleKept ch x due n).overloadTaken ch m = s.sampleKept ch x due m := by
  rw [State.overloadTaken, s.sampleKept_ramp]
  exact State.setRamp_setRamp _ _ _ _

theorem State.overloadMonitor_idle (s : State) (ch : Channel) (sample : Nat)
    (idle : (s.ramp ch).state = .disabled ∨ (s.ramp ch).state = .fault) :
    s.overloadMonitor ch sample = s.overloadTaken ch 0 := if_pos idle

theorem State.overloadMonitor_eq (s : State) (ch : Channel) (sample n : Nat)
    (enabled : (s.ramp ch).state ≠ .disabled) (sound : (s.ramp ch).state ≠ .fault)
    (count : n = if (s.ramp ch).params.pMax < (if s.runsTest (.overload ch) then 4095 else sample)
      then (s.ramp ch).overload + 1 else 0) :
    s.overloadMonitor ch sample = if (s.ramp ch).params.nOver ≤ n ∧ 0 < n
      then if s.runsTest (.overload ch) then (s.overloadTaken ch n).endTest .pass
        else (s.overloadTaken ch n).faultRamp ch .overload
      else (s.overloadTaken ch n).testStep (.overload ch) ((s.ramp ch).params.nOver + 1) := by
  subst count
  exact if_neg fun idle => idle.elim enabled sound

theorem State.overloadMonitor_untested (s : State) (ch : Channel) (sample : Nat)
    (enabled : (s.ramp ch).state ≠ .disabled) (sound : (s.ramp ch).state ≠ .fault)
    (other : ∀ p, s.fc.test = some p → p.id ≠ .overload ch) (n : Nat)
    (count : n = if (s.ramp ch).params.pMax < sample then (s.ramp ch).overload + 1 else 0) :
    s.overloadMonitor ch sample = if (s.ramp ch).params.nOver ≤ n ∧ 0 < n
      then (s.overloadTaken ch n).faultRamp ch .overload else s.overloadTaken ch n := by
  have idle : s.runsTest (.overload ch) = false := s.runsTest_false _ other
  rw [s.overloadMonitor_eq ch sample n enabled sound (by rw [idle]; exact count), idle, if_neg Bool.false_ne_true,
    State.testStep_other (s.overloadTaken ch n) _ _ other]

theorem State.overloadMonitor_tested (s : State) (ch : Channel) (sample : Nat)
    (enabled : (s.ramp ch).state ≠ .disabled) (sound : (s.ramp ch).state ≠ .fault) (p : ProofTest)
    (test : s.fc.test = some p) (id : p.id = .overload ch) (n : Nat)
    (count : n = if (s.ramp ch).params.pMax < 4095 then (s.ramp ch).overload + 1 else 0) :
    s.overloadMonitor ch sample = if (s.ramp ch).params.nOver ≤ n ∧ 0 < n then (s.overloadTaken ch n).endTest .pass
      else if (s.ramp ch).params.nOver + 1 ≤ p.steps + 1 then ((s.overloadTaken ch n).testStepped p).endTest .fail
      else (s.overloadTaken ch n).testStepped p := by
  have runs : s.runsTest (.overload ch) = true := id ▸ s.runsTest_true p test
  rw [s.overloadMonitor_eq ch sample n enabled sound (by rw [runs]; exact count), runs, if_pos rfl, ← id,
    State.testStep_runs (s.overloadTaken ch n) p _ test]

/-- An OVERLOAD test that has ended with a result (R191, R192). -/
def State.overloadEnded (s : State) (ch : Channel) (p : ProofTest) (result : TestResult) : State :=
  State.notice { s.overloadTaken ch 0 with
    fc := { s.fc with test := none, last := some (.overload ch, result) } } 30 result.code [p.id.code, p.arg]

theorem State.overloadTaken_zeroed (s : State) (ch : Channel) (n : Nat) :
    (s.overloadTaken ch n).zeroTestCount (.overload ch) = s.overloadTaken ch 0 := by
  cases ch <;> rfl

theorem State.overloadTaken_passes (s : State) (ch : Channel) (n : Nat) (p : ProofTest) (test : s.fc.test = some p)
    (id : p.id = .overload ch) : (s.overloadTaken ch n).endTest .pass = s.overloadEnded ch p .pass := by
  rw [State.endTest_eq (s.overloadTaken ch n) p .pass test, State.overloadEnded, id, s.overloadTaken_zeroed ch n]
  rfl

theorem State.overloadTaken_fails (s : State) (ch : Channel) (n : Nat) (p : ProofTest) (id : p.id = .overload ch) :
    ((s.overloadTaken ch n).testStepped p).endTest .fail = s.overloadEnded ch p .fail := by
  have step : ((s.overloadTaken ch n).testStepped p).fc.test = some { p with steps := p.steps + 1 } := rfl
  rw [State.endTest_eq _ _ .fail step, State.overloadEnded]
  dsimp only
  rw [id, State.testStepped_zeroed, s.overloadTaken_zeroed ch n]
  rfl

theorem count_low {n k : Nat} (low : n < k ∨ n = 0) : ¬ (k ≤ n ∧ 0 < n) := by omega

/-- Settles O50: the timers, then the sample, without and with an OVERLOAD test. -/
theorem driveTimes : Obligations.DriveTimes := by
  refine ⟨fun s ch settled => ?_, fun s ch x due settled timer other => ?_,
    fun s ch x due p node timer test id enabled sound => ?_⟩
  · intro r
    refine ⟨fun due timer => ?_, fun z zero => ⟨?_, fun waits => ?_⟩⟩
    · exact s.act_exact _ (·.recentExpired ch) settled (s.recentExpired_eq ch due timer) rfl rfl rfl
    · exact s.act_exact _ (·.pwmStart ch) settled (s.pwmStart_eq ch z zero) rfl rfl rfl
    · exact s.act_exact _ (·.pwmAtCentre ch) settled (s.pwmAtCentre_eq ch z zero waits) rfl rfl rfl
  · intro r u count out
    have done := s.conversionDone_eq ch x due timer
    have record := s.sampleKept_ramp ch x due r.overload
    have judged (enabled : r.state ≠ .disabled) (sound : r.state ≠ .fault) :=
      (s.sampleKept ch x due r.overload).overloadMonitor_untested ch x.toNat (by rw [record]; exact enabled)
        (by rw [record]; exact sound) other count (by rw [record])
    rw [record] at judged
    refine ⟨fun idle => ?_, fun enabled sound low => ?_, fun enabled sound high some => ?_⟩
    · have own := done.trans (State.overloadMonitor_idle _ ch _ (by rw [record]; exact idle))
      rw [s.sampleKept_taken] at own
      exact s.act_exact _ (·.conversionDone ch x) settled own rfl rfl rfl
    · have own := done.trans ((judged enabled sound).trans (if_neg (count_low low)))
      rw [s.sampleKept_taken] at own
      exact s.act_exact _ (·.conversionDone ch x) settled own rfl rfl rfl
    · have own := done.trans ((judged enabled sound).trans (if_pos ⟨high, some⟩))
      rw [s.sampleKept_taken] at own
      obtain ⟨faulted, flag, -, only⟩ := (s.sampleKept ch x due count).faultRamp_frame ch .overload
      have kept : RampOnly ch u (s.sampleKept ch x due count) := (RampOnly.refl ch u).setRamp _
      rw [s.sampleKept_ramp] at faulted
      generalize (s.sampleKept ch x due count).faultRamp ch .overload = t at own faulted flag only
      refine ⟨t, s.act_own _ (·.conversionDone ch x) settled.1 own, kept.trans only, ?_, ?_, ?_, ?_, flag⟩
      all_goals
        rw [faulted]
        rfl
  · intro r u count kept ended becomes
    have done := s.conversionDone_eq ch x due timer
    have record := s.sampleKept_ramp ch x due r.overload
    have judged := (s.sampleKept ch x due r.overload).overloadMonitor_tested ch x.toNat (by rw [record]; exact enabled)
      (by rw [record]; exact sound) p test id count (by rw [record])
    have passes := (s.sampleKept ch x due r.overload).overloadTaken_passes ch count p test id
    have fails := (s.sampleKept ch x due r.overload).overloadTaken_fails ch count p id
    rw [passes, fails, record, State.overloadEnded, State.overloadEnded, s.sampleKept_taken, s.sampleKept_taken] at judged
    have runs (t : State) (own : (s.sampleKept ch x due r.overload).overloadMonitor ch x.toNat = t) : becomes t :=
      s.act_own _ (·.conversionDone ch x) node (done.trans own)
    refine ⟨fun high some => ?_, fun low last => ?_, fun low more => ?_⟩
    · exact runs _ (judged.trans (if_pos ⟨high, some⟩))
    · exact runs _ (judged.trans ((if_neg (count_low low)).trans (if_pos last)))
    · exact runs _ (judged.trans ((if_neg (count_low low)).trans (if_neg (Nat.not_le.mpr more))))

/-! ### Valve outputs -/

theorem State.ramp_quiet (s : State) (ch : Channel) (quiet : RampsOk s) : RampQuiet (s.ramp ch) := by
  cases ch with
  | a => exact quiet.1
  | b => exact quiet.2

theorem State.valve_stopped (s : State) (ch : Channel) (d : Dir) (stopped : (s.ramp ch).pwmZero = none) :
    s.valve ch d = false := by
  unfold State.valve
  dsimp only
  rw [stopped]

theorem State.valve_iff (s : State) (ch : Channel) (d : Dir) (moves : d ≠ .none) (z : Nat)
    (zero : (s.ramp ch).pwmZero = some z) : s.valve ch d = true ↔ (s.ramp ch).active.out = d ∧ 0 < (s.ramp ch).active.mag
      ∧ (s.now - z < (s.ramp ch).active.mag
        ∨ 2 * (s.ramp ch).params.pwmN - (s.ramp ch).active.mag ≤ s.now - z) := by
  unfold State.valve pwmOn
  dsimp only
  rw [zero]
  simp only [Bool.and_eq_true, bne_iff_ne, ne_eq, beq_iff_eq, Bool.or_eq_true, decide_eq_true_eq, moves, not_false_eq_true,
    true_and, and_assoc, Nat.pos_iff_ne_zero]

theorem State.valve_none (s : State) (ch : Channel) : s.valve ch .none = false := by
  unfold State.valve
  dsimp only
  cases (s.ramp ch).pwmZero with
  | none => rfl
  | some z => rfl

theorem State.valve_active (s : State) (ch : Channel) (d : Dir) (on : s.valve ch d = true) :
    (s.ramp ch).active.out = d ∧ 0 < (s.ramp ch).active.mag := by
  have moves : d ≠ .none := by
    rintro rfl
    exact ne_true_of_eq_false (s.valve_none ch) on
  cases zero : (s.ramp ch).pwmZero with
  | none => exact absurd on (ne_true_of_eq_false (s.valve_stopped ch d zero))
  | some z =>
    obtain ⟨out, mag, -⟩ := (s.valve_iff ch d moves z zero).mp on
    exact ⟨out, mag⟩

/-! ### The levels of a line -/

/-- The element of a list of parts of one length (the bits of characters). -/
theorem getElem?_flatMap_parts {α β : Type} (g : α → List β) (c : Nat) (len : ∀ a, (g a).length = c) (l : List α)
    (k j : Nat) (a : α) (part : l[k]? = some a) (inside : j < c) : (l.flatMap g)[c * k + j]? = (g a)[j]? := by
  induction l generalizing k with
  | nil => exact absurd part nofun
  | cons x l ih =>
    rw [List.flatMap_cons]
    cases k with
    | zero =>
      obtain rfl := Option.some.inj part
      rw [Nat.mul_zero, Nat.zero_add, List.getElem?_append_left (by rwa [len])]
    | succ k =>
      rw [List.getElem?_append_right (by rw [len, Nat.mul_succ]; omega), len,
        show c * (k + 1) + j - c = c * k + j by rw [Nat.mul_succ]; omega]
      exact ih k part

theorem charBits_length (b : Byte) : (charBits b).length = 11 := rfl

theorem charBits_bit (b : Byte) (j : Nat) (inside : j < 11) : ((charBits b)[j]?).getD true =
    if j = 0 then false else if j ≤ 8 then b.getLsbD (j - 1) else if j = 9 then evenParity b else true := by
  interval_cases j <;> rfl

theorem Frame.bytes_length (f : Frame) : f.bytes.length = 7 + f.payload.length := by
  simp only [Frame.bytes, bytes16, List.length_append, f.body_length, List.length_cons, List.length_nil]
  omega

theorem Frame.bits_length (f : Frame) : f.bits.length = 11 * (7 + f.payload.length) := by
  unfold Frame.bits
  rw [List.length_flatMap, List.map_congr_left fun b _ => charBits_length b, List.map_const', List.sum_replicate,
    f.bytes_length]
  exact Nat.mul_comm _ _

/-- The tick at which a frame's first bit begins (R6). -/
def Frame.startTick (f : Frame) (stop : Nat) : Nat := stop - (7 + f.payload.length) * (22 * Config.usec)

theorem lineLevel_eq (f : Frame) (stop now : Nat) : lineLevel f stop now = if now < f.startTick stop then true
    else (f.bits[(now - f.startTick stop) / 8]?).getD true := rfl

theorem lineLevel_idle (f : Frame) (stop now : Nat)
    (idle : now < f.startTick stop ∨ f.startTick stop + (7 + f.payload.length) * (22 * Config.usec) ≤ now) :
    lineLevel f stop now = true := by
  rw [lineLevel_eq]
  obtain early | late := idle
  · exact if_pos early
  · have time : (7 + f.payload.length) * (22 * Config.usec) = 88 * (7 + f.payload.length) := Nat.mul_comm _ _
    rw [if_neg (by omega), List.getElem?_eq_none (by rw [f.bits_length]; omega)]
    rfl

theorem lineLevel_bit (f : Frame) (stop now k : Nat) (b : Byte) (j : Nat) (byte : f.bytes[k]? = some b) (inside : j < 11)
    (from' : f.startTick stop + (11 * k + j) * 8 ≤ now) (until' : now < f.startTick stop + (11 * k + j + 1) * 8) :
    lineLevel f stop now =
      if j = 0 then false else if j ≤ 8 then b.getLsbD (j - 1) else if j = 9 then evenParity b else true := by
  have index : (now - f.startTick stop) / 8 = 11 * k + j := by omega
  have bit : f.bits[11 * k + j]? = (charBits b)[j]? :=
    getElem?_flatMap_parts charBits 11 charBits_length f.bytes k j b byte inside
  rw [lineLevel_eq, if_neg (by omega), index, bit]
  exact charBits_bit b j inside

theorem State.dlDir_iff (s : State) : s.dlDir = true ↔ ∃ f stop, s.dls.line = .sending f stop := by
  unfold State.dlDir
  cases s.dls.line with
  | sending f stop => exact iff_of_true rfl ⟨f, stop, rfl⟩
  | free | window _ | receiving _ | settling _ => simp

theorem State.dlTx_idle (s : State) (idle : s.dlDir = false) : s.dlTx = true := by
  unfold State.dlTx
  cases line : s.dls.line with
  | sending f stop => exact absurd (s.dlDir_iff.mpr ⟨f, stop, line⟩) (ne_true_of_eq_false idle)
  | free | window _ | receiving _ | settling _ => rfl

/-! ### Beacons -/

theorem State.beaconOn_off (s : State) (b : Fin 8) (off : (s.bd.shown.at b).timer = none) : s.beaconOn b = false := by
  unfold State.beaconOn
  dsimp only
  rw [off]

theorem State.beaconOn_iff (s : State) (b : Fin 8) (due : Nat) (timer : (s.bd.shown.at b).timer = some due) :
    s.beaconOn b = true ↔
      (s.now - (due - (s.bd.pattern (s.bd.shown.at b).pattern).length * (50 * Config.msec))) % 2000 * 31
        < (s.bd.shown.at b).level * 2000 := by
  unfold State.beaconOn
  dsimp only
  rw [timer]
  exact decide_eq_true_iff

/-- Settles O51: the outputs in their order. -/
theorem outputsOnlyInMotion : Obligations.OutputsOnlyInMotion := by
  refine ⟨fun s ch quiet => ?_, fun s ch d moves => ?_, fun s => ?_, fun f stop now k b j byte inside => ?_, fun s b => ?_⟩
  · obtain ⟨still, out, inn⟩ := s.ramp_quiet ch quiet
    refine ⟨fun ⟨lower, raise⟩ => ?_, fun d on => ?_, out, inn⟩
    · exact absurd ((s.valve_active ch .lower lower).1.symm.trans (s.valve_active ch .raise raise).1) (by decide)
    · by_contra rest
      obtain ⟨-, active, -⟩ := still (eq_false_of_ne_true rest)
      obtain ⟨-, mag⟩ := s.valve_active ch d on
      rw [active] at mag
      exact absurd mag (Nat.lt_irrefl 0)
  · exact ⟨s.valve_stopped ch d, s.valve_iff ch d moves, rfl, rfl⟩
  · refine ⟨s.dlDir_iff, s.dlTx_idle, fun idle => ?_, fun f stop line => ?_, fun x sending => ?_, ?_⟩
    · rw [State.blTx, idle]
    · rw [State.dlTx, line]
    · rw [State.blTx, sending]
    · rw [State.alarmActive, Bool.or_eq_true, s.heldStartUp_iff]
  · intro start
    exact ⟨lineLevel_idle f stop now, lineLevel_bit f stop now k b j byte inside⟩
  · intro x
    refine ⟨s.beaconOn_off b, fun due timer => ?_⟩
    intro start
    have on := s.beaconOn_iff b due timer
    refine ⟨on, fun full => on.mpr ?_, fun dark => eq_false_of_ne_true fun lit => ?_⟩
    · rw [show (s.bd.shown.at b).level = 31 from full]
      omega
    · have lit := on.mp lit
      rw [show (s.bd.shown.at b).level = 0 from dark] at lit
      omega

end Sys2Proof.Machine
end

section
/-! SUPPORT. Door frames, steps and the end of a sequence (R128 to R131, R136 to R138, R141). -/

namespace Sys2Proof.Machine

open Sys2Proof

/-! ### The steps of a list -/

/-- The first step of a list with a property. -/
theorem Group.active_find (r : Group) (p : Fin 8 → Bool) (k : Fin 8) (within : k.val < r.defn.doors.length) (meets : p k = true)
    (first : ∀ j, j < k → j.val < r.defn.doors.length → p j ≠ true) : r.active.find? p = some k := by
  unfold Group.active
  rw [allSteps_eq, List.find?_filter, List.find?_eq_some_iff_getElem]
  refine ⟨by simp [within, meets], k.val, by simp, by simp, fun j before => ?_⟩
  have inside : j < 8 := Nat.lt_trans before k.isLt
  have fails := first ⟨j, inside⟩ before
  simpa [imp_iff_not_or] using fails

theorem Group.active_find_none (r : Group) (p : Fin 8 → Bool) (none : ∀ j, j.val < r.defn.doors.length → p j ≠ true) :
    r.active.find? p = Option.none :=
  List.find?_eq_none.mpr fun j mem => none j ((r.mem_active j).mp mem)

theorem Group.allDecided_iff (r : Group) : r.allDecided = true ↔ ∀ j : Fin 8, j.val < r.defn.doors.length →
    (r.steps.at j).state = .confirmed ∨ (r.steps.at j).state = .failed := by
  unfold Group.allDecided
  rw [List.all_eq_true]
  simp only [Group.mem_active, Bool.or_eq_true, beq_iff_eq]

theorem Group.count_eq_zero_iff (r : Group) (st : StepState) : r.count st = 0 ↔
    ∀ j : Fin 8, j.val < r.defn.doors.length → (r.steps.at j).state ≠ st := by
  unfold Group.count
  rw [List.length_eq_zero_iff, List.filter_eq_nil_iff]
  simp only [Group.mem_active, beq_iff_eq, ne_eq]

theorem Group.count_eq (r : Group) (st : StepState) : r.count st = ((List.finRange 8).filter fun j =>
    decide (j.val < r.defn.doors.length ∧ (r.steps.at j).state = st)).length := by
  unfold Group.count Group.active
  rw [allSteps_eq, List.filter_filter]
  refine congrArg List.length (List.filter_congr fun j _ => ?_)
  rw [Bool.decide_and, Bool.and_comm]
  rfl

/-! ### Records -/

theorem State.setGroup_setGroup (s : State) (g : Fin 4) (r r' : Group) :
    (s.setGroup g r).setGroup g r' = s.setGroup g r' := by
  unfold State.setGroup Tab.put
  dsimp only
  rw [Vector.set_set]

theorem Tab.put_put {α : Type} {n : Nat} (t : Tab α n) (i : Fin n) (x y : α) : (t.put i x).put i y = t.put i y :=
  Vector.set_set x i.isLt

theorem State.setStep_setStep (s : State) (g : Fin 4) (k : Fin 8) (x y : Step) :
    (s.setStep g k x).setStep g k y = s.setStep g k y := by
  have record := s.group_setStep_self g k x
  unfold State.setStep at record ⊢
  rw [record, State.setGroup_setGroup]
  dsimp only
  rw [Tab.put_put]

theorem State.step_setStep_self (s : State) (g : Fin 4) (k : Fin 8) (x : Step) :
    ((s.setStep g k x).group g).steps.at k = x := by
  rw [s.group_setStep_self]
  exact Tab.at_put_self _ _ _

theorem State.step_setStep_ne (s : State) (g : Fin 4) {k j : Fin 8} (x : Step) (other : k ≠ j) :
    ((s.setStep g k x).group g).steps.at j = (s.group g).steps.at j := by
  rw [s.group_setStep_self]
  exact Tab.at_put_ne _ _ other

/-! ### Frames -/

/-- A step's issue advanced for a new command (R130). -/
def State.stepIssued (s : State) (g : Fin 4) (k : Fin 8) : State :=
  s.setStep g k { (s.group g).steps.at k with issue := ((s.group g).steps.at k).issue + 1 }

theorem State.buildDoor_eq (s : State) (g : Fin 4) (k : Fin 8) (d : Fin 96) (cmd : DoorCmd)
    (door : s.doorEntry g k = some d) :
    let x := (s.group g).steps.at k
    let q := s.doorRec g k cmd d (s.targetOf d) (x.issue + 1) (s.group g).mark
    s.buildDoor g k cmd = if s.dls.hasPlace (s.group g).mark
      then { s.setStep g k { x with issue := x.issue + 1 } with dls := s.dls.accept q }
      else s.setStep g k { x with issue := x.issue + 1, pendingCmd := some q } := by
  intro x q
  have mark : ((s.stepIssued g k).group g).mark = (s.group g).mark := by
    rw [State.stepIssued, s.group_setStep_self]
  unfold State.buildDoor
  rw [door]
  extract_lets y issued
  have record : issued.doorRec g k cmd d (issued.targetOf d) y.issue (issued.group g).mark = q := by
    rw [show (issued.group g).mark = (s.group g).mark from mark]
    rfl
  cases place : s.dls.hasPlace (s.group g).mark with
  | true =>
    simp only [record, issued.offer_placed q place]
    rfl
  | false =>
    simp only [record, issued.offer_full q place]
    exact s.setStep_setStep g k _ _

theorem State.buildStopTo_eq (s : State) (g : Fin 4) (k : Fin 8) (d : Fin 96) (target : NodeNo × Byte) :
    let x := (s.group g).steps.at k
    let q := s.doorRec g k .stop d target x.issue true
    s.buildStopTo g k d target = if s.dls.hasPlace true then { s with dls := s.dls.accept q }
      else if x.pendingStop = none then s.setStep g k { x with pendingStop := some q } else s := by
  intro x q
  unfold State.buildStopTo
  cases place : s.dls.hasPlace true with
  | true => simp only [s.offer_placed (s.doorRec g k .stop d target x.issue true) place, x, q, if_true]
  | false =>
    simp only [s.offer_full (s.doorRec g k .stop d target x.issue true) place, x, q, Bool.false_eq_true, if_false]
    cases pending : ((s.group g).steps.at k).pendingStop with
    | none => rfl
    | some r => rfl

theorem State.buildStop_eq (s : State) (g : Fin 4) (k : Fin 8) (d : Fin 96) (door : s.doorEntry g k = some d) :
    s.buildStop g k = s.buildStopTo g k d (s.targetOf d) := by
  unfold State.buildStop
  rw [door]

/-- The first WAITING step of a sequence is commanded (R136, R141). -/
theorem State.commandNext_eq (s : State) (g : Fin 4) (k : Fin 8) (cmd : DoorCmd)
    (sequence : (s.group g).state = .closing ∧ cmd = .close ∨ (s.group g).state = .opening ∧ cmd = .openDoor)
    (within : k.val < (s.group g).defn.doors.length) (waiting : ((s.group g).steps.at k).state = .waiting)
    (first : ∀ j, j < k → ((s.group g).steps.at j).state ≠ .waiting) :
    s.commandNext g = (s.setStep g k { (s.group g).steps.at k with state := .commanded }).buildDoor g k cmd := by
  have command : (s.group g).state.command? = some cmd := by
    obtain ⟨state, rfl⟩ | ⟨state, rfl⟩ := sequence
    · rw [state]
      rfl
    · rw [state]
      rfl
  have found : ((s.group g).active.find? fun k => ((s.group g).steps.at k).state == .waiting) = some k :=
    (s.group g).active_find _ k within (beq_iff_eq.mpr waiting) fun j before _ => mt beq_iff_eq.mp (first j before)
  unfold State.commandNext
  rw [command, found]

theorem State.doorEntry_within (s : State) (g : Fin 4) (k : Fin 8) (d : Fin 96) (door : s.doorEntry g k = some d) :
    k.val < (s.group g).defn.doors.length := (List.getElem?_eq_some_iff.mp door).1

/-! ### The end of a sequence -/

theorem State.endSequence_open (s : State) (g : Fin 4) (still : (s.group g).allDecided = false
    ∨ (s.group g).state ≠ .closing ∧ (s.group g).state ≠ .opening) : s.endSequence g = s := by
  unfold State.endSequence
  obtain undecided | ⟨closing, opening⟩ := still
  · exact if_neg (ne_true_of_eq_false undecided)
  · dsimp only
    split
    · cases state : (s.group g).state with
      | closing => exact absurd state closing
      | opening => exact absurd state opening
      | idle | warning | waitPermit | closed | incomplete | stopped => rfl
    · rfl

theorem State.endSequence_closing (s : State) (g : Fin 4) (decided : (s.group g).allDecided = true)
    (state : (s.group g).state = .closing) : s.endSequence g = if (s.group g).count .failed = 0
      then s.enterGroup g .closed else (s.enterGroup g .incomplete).raiseFlag .groupIncomplete := by
  unfold State.endSequence
  dsimp only
  rw [if_pos decided, state]

theorem State.endSequence_opening (s : State) (g : Fin 4) (decided : (s.group g).allDecided = true)
    (state : (s.group g).state = .opening) : s.endSequence g = s.enterGroup g .idle := by
  unfold State.endSequence
  dsimp only
  rw [if_pos decided, state]

/-! ### Reports of doors -/

theorem State.retryOrFail_eq (s : State) (g : Fin 4) (k : Fin 8) (c : StepCause) :
    let x := (s.group g).steps.at k
    s.retryOrFail g k c = if x.travel = none then s
      else if x.attempts < 3 then s.setStep g k { x with
        travel := none, retry := some (s.now + (s.group g).defn.tRetry * Config.second) }
      else s.failStep g k c := by
  intro x
  unfold State.retryOrFail
  dsimp only
  cases travel : ((s.group g).steps.at k).travel with
  | none => exact (if_pos rfl).symm
  | some due => exact (if_neg nofun).symm

theorem State.closingReport_other (s : State) (g : Fin 4) (k : Fin 8) (v : Byte) (other : v ∉ [3, 5, 6, 7, 8]) :
    s.closingReport g k v = s := by
  have apart (n : Nat) (small : n < 256) (mem : BitVec.ofNat 8 n ∈ ([3, 5, 6, 7, 8] : List Byte)) : v.toNat ≠ n := by
    intro same
    refine other ?_
    rwa [show v = BitVec.ofNat 8 n from BitVec.eq_of_toNat_eq (by rw [same, BitVec.toNat_ofNat]; omega)]
  unfold State.closingReport
  split
  case h_1 same => exact absurd same (apart 3 (by decide) (by decide))
  case h_2 same => exact absurd same (apart 8 (by decide) (by decide))
  case h_3 same => exact absurd same (apart 7 (by decide) (by decide))
  case h_4 same => exact absurd same (apart 6 (by decide) (by decide))
  case h_5 same => exact absurd same (apart 5 (by decide) (by decide))
  case h_6 => rfl

/-- The door of a step is an image entry. -/
def Group.doorAt (r : Group) (i : Nat) (k : Fin 8) : Prop := ∃ d, r.defn.doors[k.val]? = some d ∧ 32 + d.val = i

theorem Group.stepOf_found (r : Group) (i : Nat) (k : Fin 8) (door : r.doorAt i k) (first : ∀ j, j < k → ¬ r.doorAt i j) :
    r.stepOf i = some k := by
  obtain ⟨d, entry, index⟩ := door
  refine r.active_find _ k (List.getElem?_eq_some_iff.mp entry).1 ?_ fun j before _ meets => first j before ?_
  · rw [entry]
    exact beq_iff_eq.mpr index
  · split at meets
    · next d entry => exact ⟨d, entry, beq_iff_eq.mp meets⟩
    · exact absurd meets nofun

theorem Group.stepOf_none (r : Group) (i : Nat) (none : ∀ k, ¬ r.doorAt i k) : r.stepOf i = Option.none := by
  refine r.active_find_none _ fun j _ meets => none j ?_
  split at meets
  · next d entry => exact ⟨d, entry, beq_iff_eq.mp meets⟩
  · exact absurd meets nofun

theorem State.groupImageChange_waitPermit (s : State) (g : Fin 4) (i : Nat) (v : Byte)
    (state : (s.group g).state = .waitPermit) : s.groupImageChange g i v =
      if s.condition (s.group g).defn.closePermit then s.enterClosing g else s := by
  unfold State.groupImageChange
  dsimp only
  rw [state]

theorem State.groupImageChange_deaf (s : State) (g : Fin 4) (i : Nat) (v : Byte)
    (state : (s.group g).state ∈ [.idle, .warning, .incomplete, .stopped]) : s.groupImageChange g i v = s := by
  unfold State.groupImageChange
  simp only [List.mem_cons, List.not_mem_nil, or_false] at state
  obtain state | state | state | state := state
  all_goals
    dsimp only
    rw [state]

theorem State.groupImageChange_stranger (s : State) (g : Fin 4) (i : Nat) (v : Byte)
    (state : (s.group g).state ≠ .waitPermit) (none : (s.group g).stepOf i = Option.none) : s.groupImageChange g i v = s := by
  unfold State.groupImageChange
  dsimp only
  rw [none]
  cases other : (s.group g).state with
  | waitPermit => exact absurd other state
  | idle | warning | closing | closed | incomplete | opening | stopped => rfl

theorem State.groupImageChange_closing (s : State) (g : Fin 4) (i : Nat) (v : Byte) (k : Fin 8)
    (state : (s.group g).state = .closing) (found : (s.group g).stepOf i = some k) : s.groupImageChange g i v =
      if ((s.group g).steps.at k).state = .commanded then s.closingReport g k v else s := by
  unfold State.groupImageChange
  dsimp only
  rw [found, state]

theorem State.groupImageChange_opening (s : State) (g : Fin 4) (i : Nat) (v : Byte) (k : Fin 8)
    (state : (s.group g).state = .opening) (found : (s.group g).stepOf i = some k) : s.groupImageChange g i v =
      if ((s.group g).steps.at k).state = .commanded ∧ v = 1 then s.confirmStep g k else s := by
  unfold State.groupImageChange
  dsimp only
  rw [found, state]

theorem State.groupImageChange_closed (s : State) (g : Fin 4) (i : Nat) (v : Byte) (k : Fin 8)
    (state : (s.group g).state = .closed) (found : (s.group g).stepOf i = some k) : s.groupImageChange g i v =
      if v = 3 ∨ v = 255 then s else (s.raiseFlag .doorBreach).enterGroup g .incomplete (BitVec.ofNat 8 k.val) := by
  unfold State.groupImageChange
  dsimp only
  rw [found, state]
  by_cases shut : v = 3 ∨ v = 255
  · rw [if_pos shut]
    exact if_neg fun ⟨known, opened⟩ => shut.elim opened known
  · obtain ⟨opened, known⟩ := not_or.mp shut
    rw [if_neg shut]
    exact if_pos ⟨known, opened⟩

/-! ### The start and the outcome of a frame -/

theorem State.doorFrameStarted_stop (s : State) (g : Fin 4) (k : Fin 8) (issue : Byte) (d : Fin 96) (f : Frame) :
    s.doorFrameStarted g k issue .stop d f = s := by
  unfold State.doorFrameStarted
  exact if_pos rfl

/-- A current frame has begun: the attempt counted, travel started (R137). -/
def State.travelStarted (s : State) (g : Fin 4) (k : Fin 8) : State :=
  s.setStep g k { (s.group g).steps.at k with
    attempts := ((s.group g).steps.at k).attempts + 1
    travel := some (s.now + (s.group g).defn.tTravel * Config.second) }

theorem State.doorFrameStarted_current (s : State) (g : Fin 4) (k : Fin 8) (issue : Byte) (cmd : DoorCmd) (d : Fin 96)
    (f : Frame) (moves : cmd ≠ .stop) (current : issue = ((s.group g).steps.at k).issue) :
    s.doorFrameStarted g k issue cmd d f =
      if ((s.group g).steps.at k).attempts = 0 ∧ ((s.group g).state = .closing ∨ (s.group g).state = .opening) then
        if (s.group g).defn.tSpace = 0 then (s.travelStarted g k).commandNext g
        else (s.travelStarted g k).setGroup g { (s.travelStarted g k).group g with
          spacing := some (s.now + (s.group g).defn.tSpace * Config.second) }
      else s.travelStarted g k := by
  unfold State.doorFrameStarted
  exact (if_neg moves).trans (if_pos current)

theorem State.doorFrameStarted_stale (s : State) (g : Fin 4) (k : Fin 8) (issue : Byte) (cmd : DoorCmd) (d : Fin 96)
    (f : Frame) (moves : cmd ≠ .stop) (stale : issue ≠ ((s.group g).steps.at k).issue) :
    s.doorFrameStarted g k issue cmd d f =
      if cmd = .close ∧ ((s.group g).state = .idle ∨ (s.group g).state = .stopped) then
        s.buildStopTo g k d (s.staleTarget d f) else s := by
  unfold State.doorFrameStarted
  exact (if_neg moves).trans (if_neg stale)

theorem State.doorOutcome_stale (s : State) (g : Fin 4) (k : Fin 8) (issue : Byte) (cmd : DoorCmd) (o : Outcome)
    (stale : ¬ (cmd ≠ .stop ∧ issue = ((s.group g).steps.at k).issue ∧ ((s.group g).steps.at k).state = .commanded)) :
    s.doorOutcome g k issue cmd o = s := if_neg stale

theorem State.doorOutcome_idle (s : State) (g : Fin 4) (k : Fin 8) (issue : Byte) (cmd : DoorCmd) (o : Outcome)
    (idle : (s.group g).state ≠ .closing ∧ (s.group g).state ≠ .opening) : s.doorOutcome g k issue cmd o = s := by
  unfold State.doorOutcome
  dsimp only
  split
  · cases state : (s.group g).state with
    | closing => exact absurd state idle.1
    | opening => exact absurd state idle.2
    | idle | warning | waitPermit | closed | incomplete | stopped => rfl
  · rfl

/-- The value of the image entry of a step's door, if it has one. -/
def State.doorValue (s : State) (g : Fin 4) (k : Fin 8) : Option Byte :=
  ((s.group g).defn.doors[k.val]?).map fun d => (s.img.remotes.at d).value

/-- What the outcome of a current CLOSE or OPEN decides (R137, R141). -/
def State.outcomeOf (s : State) (g : Fin 4) (k : Fin 8) : GroupState → Outcome → State
  | .closing, .accepted => if s.doorValue g k = some 3 then s.confirmStep g k else s
  | .closing, .rejected => s.retryOrFail g k .rejected
  | .closing, .noAnswer => s.retryOrFail g k .noAnswer
  | .opening, .accepted => if s.doorValue g k = some 1 then s.confirmStep g k else s
  | .opening, .rejected => s.failStep g k .rejected
  | .opening, .noAnswer => s.failStep g k .noAnswer
  | _, _ => s

theorem State.doorOutcome_judged (s : State) (g : Fin 4) (k : Fin 8) (issue : Byte) (cmd : DoorCmd) (o : Outcome)
    (judged : cmd ≠ .stop ∧ issue = ((s.group g).steps.at k).issue ∧ ((s.group g).steps.at k).state = .commanded)
    (sequence : (s.group g).state = .closing ∨ (s.group g).state = .opening) :
    s.doorOutcome g k issue cmd o = s.outcomeOf g k (s.group g).state o := by
  unfold State.doorOutcome
  refine (if_pos judged).trans ?_
  obtain state | state := sequence
  · rw [state]
    cases o <;> rfl
  · rw [state]
    cases o <;> rfl

end Sys2Proof.Machine
end

section
/-! SUPPORT. Timers, reports and warnings of the door groups (R128 to R141). -/

namespace Sys2Proof.Machine

open Sys2Proof

/-! ### Records after the group's own steps -/

theorem GroupOnly.keeps_flag {g : Fin 4} {s t : State} (only : GroupOnly g s t) {f : Flag} (set : s.hasFlag f) :
    t.hasFlag f := flags_trans set only.grow.flags

theorem Group.enter_step (r : Group) (st : GroupState) (k : Fin 8) : (r.enter st).steps.at k =
    if (r.state = .closing ∨ r.state = .opening) ∧ (r.steps.at k).state = .commanded then (r.steps.at k).release
    else r.steps.at k := by
  by_cases sequence : r.state = .closing ∨ r.state = .opening
  · rw [r.enter_released st sequence k]
    exact if_congr (by simp [sequence]) rfl rfl
  · rw [if_neg fun h => sequence h.1]
    unfold Group.enter Group.releaseSteps
    rw [if_neg sequence]

theorem State.enterClosing_record (s : State) (g : Fin 4) :
    ((s.group g).enter .closing).SameButSteps ((s.enterClosing g).group g) := by
  have steps := ((s.enterGroup g .closing).commandNext_frame g).2
  rw [s.enterGroup_record] at steps
  exact steps

/-- A command built for a step: its issue advanced, nothing else of the group but what it keeps pending (R130). -/
theorem State.buildDoor_record (s : State) (g : Fin 4) (k : Fin 8) (d : Fin 96) (cmd : DoorCmd)
    (door : s.doorEntry g k = some d) : ∃ p, (s.buildDoor g k cmd).group g = { s.group g with
      steps := (s.group g).steps.put k { (s.group g).steps.at k with
        issue := ((s.group g).steps.at k).issue + 1, pendingCmd := p } } := by
  rw [s.buildDoor_eq g k d cmd door]
  split
  · exact ⟨_, s.group_setStep_self g k _⟩
  · exact ⟨_, s.group_setStep_self g k _⟩

theorem State.doorEntry_some (s : State) (g : Fin 4) (k : Fin 8) (within : k.val < (s.group g).defn.doors.length) :
    ∃ d, s.doorEntry g k = some d := ⟨_, List.getElem?_eq_getElem within⟩

/-- The first WAITING step commanded: the other steps stay (R136, R141). -/
theorem State.commandNext_record (s : State) (g : Fin 4) (k : Fin 8)
    (sequence : (s.group g).state = .closing ∨ (s.group g).state = .opening)
    (within : k.val < (s.group g).defn.doors.length) (waiting : ((s.group g).steps.at k).state = .waiting)
    (first : ∀ j, j < k → ((s.group g).steps.at j).state ≠ .waiting) :
    ∃ p, (s.commandNext g).group g = { s.group g with
      steps := (s.group g).steps.put k { (s.group g).steps.at k with
        state := .commanded, issue := ((s.group g).steps.at k).issue + 1, pendingCmd := p } } := by
  obtain ⟨cmd, command⟩ : ∃ cmd, (s.group g).state = .closing ∧ cmd = DoorCmd.close
      ∨ (s.group g).state = .opening ∧ cmd = .openDoor :=
    sequence.elim (fun state => ⟨_, .inl ⟨state, rfl⟩⟩) fun state => ⟨_, .inr ⟨state, rfl⟩⟩
  have record := s.group_setStep_self g k { (s.group g).steps.at k with state := .commanded }
  obtain ⟨d, door⟩ := s.doorEntry_some g k within
  have entry : (s.setStep g k { (s.group g).steps.at k with state := .commanded }).doorEntry g k = some d := by
    unfold State.doorEntry
    rw [record]
    exact door
  obtain ⟨p, built⟩ := State.buildDoor_record _ g k d cmd entry
  rw [s.commandNext_eq g k cmd command within waiting first]
  refine ⟨p, built.trans ?_⟩
  rw [record]
  dsimp only
  rw [Tab.put_put, Tab.at_put_self]

/-! ### The end of a sequence -/

theorem State.endSequence_outcome (s : State) (g : Fin 4) : s.endSequence g = s
    ∨ ∃ st breach, s.endSequence g = s.enterGroup g st breach
      ∨ s.endSequence g = (s.enterGroup g st breach).raiseFlag .groupIncomplete := by
  by_cases still : (s.group g).allDecided = false ∨ (s.group g).state ≠ .closing ∧ (s.group g).state ≠ .opening
  · exact .inl (s.endSequence_open g still)
  · obtain ⟨decided, sequence⟩ := not_or.mp still
    refine .inr ?_
    by_cases closing : (s.group g).state = .closing
    · rw [s.endSequence_closing g (eq_true_of_ne_false decided) closing]
      split
      · exact ⟨.closed, 255, .inl rfl⟩
      · exact ⟨.incomplete, 255, .inr rfl⟩
    · have opening : (s.group g).state = .opening := by_contra fun other => sequence ⟨closing, other⟩
      exact ⟨.idle, 255, .inl (s.endSequence_opening g (eq_true_of_ne_false decided) opening)⟩

theorem State.raiseFlag_group (s : State) (f : Flag) (g : Fin 4) : (s.raiseFlag f).group g = s.group g :=
  ((CallsOnly.refl s).raiseFlag f).group g

/-- The end of a sequence keeps the definition and the steps that are not COMMANDED. -/
theorem State.endSequence_keeps (s : State) (g : Fin 4) : ((s.endSequence g).group g).defn = (s.group g).defn
    ∧ ∀ k, ((s.group g).steps.at k).state ≠ .commanded →
        ((s.endSequence g).group g).steps.at k = (s.group g).steps.at k := by
  have entered (st : GroupState) (breach : Byte) : ((s.enterGroup g st breach).group g).defn = (s.group g).defn
      ∧ ∀ k, ((s.group g).steps.at k).state ≠ .commanded →
        ((s.enterGroup g st breach).group g).steps.at k = (s.group g).steps.at k := by
    rw [s.enterGroup_record]
    exact ⟨Group.enter_defn _ _, fun k free => (Group.enter_step _ _ k).trans (if_neg fun held => free held.2)⟩
  obtain still | ⟨st, breach, ends | ends⟩ := s.endSequence_outcome g
  · rw [still]
    exact ⟨rfl, fun _ _ => rfl⟩
  · rw [ends]
    exact entered st breach
  · rw [ends, State.raiseFlag_group]
    exact entered st breach

/-- A step decided in a group of which the other steps are, or are not (R138, R141). -/
theorem Group.allDecided_put (r : Group) (k : Fin 8) (x : Step) (decided : x.state = .confirmed ∨ x.state = .failed) :
    ({ r with steps := r.steps.put k x } : Group).allDecided = true ↔ ∀ j : Fin 8, j.val < r.defn.doors.length → j ≠ k →
      (r.steps.at j).state = .confirmed ∨ (r.steps.at j).state = .failed := by
  rw [Group.allDecided_iff]
  constructor
  · intro all j within other
    have ended := all j within
    rwa [Tab.at_put_ne _ _ (Ne.symm other)] at ended
  · intro others j within
    by_cases same : k = j
    · subst same
      rw [Tab.at_put_self]
      exact decided
    · rw [Tab.at_put_ne _ _ same]
      exact others j within (Ne.symm same)

/-- A step that fails: the flag, the step, and the sequence when it was the last (R137, R138, R141). -/
theorem State.failStep_record (s : State) (g : Fin 4) (k : Fin 8) (c : StepCause)
    (within : k.val < (s.group g).defn.doors.length) :
    (s.failStep g k c).hasFlag .doorFailed
      ∧ ((s.failStep g k c).group g).defn = (s.group g).defn
      ∧ ((s.failStep g k c).group g).steps.at k = ((s.group g).steps.at k).decided .failed c
      ∧ ((∀ j : Fin 8, j.val < (s.group g).defn.doors.length → j ≠ k →
            ((s.group g).steps.at j).state = .confirmed ∨ ((s.group g).steps.at j).state = .failed) →
          ((s.group g).state = .closing →
            ((s.failStep g k c).group g).state = .incomplete ∧ (s.failStep g k c).hasFlag .groupIncomplete)
          ∧ ((s.group g).state = .opening → ((s.failStep g k c).group g).state = .idle))
      ∧ ((∃ j : Fin 8, j.val < (s.group g).defn.doors.length ∧ j ≠ k
            ∧ (((s.group g).steps.at j).state = .waiting ∨ ((s.group g).steps.at j).state = .commanded)) →
          ((s.failStep g k c).group g).state = (s.group g).state) := by
  unfold State.failStep
  have stepped := s.group_setStep_self g k (((s.group g).steps.at k).decided .failed c)
  have raised := State.raiseFlag_group (s.setStep g k (((s.group g).steps.at k).decided .failed c)) .doorFailed g
  have flag := State.raiseFlag_has (s.setStep g k (((s.group g).steps.at k).decided .failed c)) .doorFailed
  generalize State.raiseFlag _ .doorFailed = m at raised flag ⊢
  have record := raised.trans stepped
  have state : (m.group g).state = (s.group g).state := by rw [record]
  have last := (s.group g).allDecided_put k (((s.group g).steps.at k).decided .failed c) (.inr rfl)
  rw [← record] at last
  have only : GroupOnly g m (m.endSequence g) := (GroupOnly.refl g m).endSequence
  obtain ⟨defn, steps⟩ := m.endSequence_keeps g
  have own : (m.group g).steps.at k = ((s.group g).steps.at k).decided .failed c := by
    rw [record]
    exact Tab.at_put_self _ _ _
  have failed : (m.group g).count .failed ≠ 0 := fun none =>
    ((m.group g).count_eq_zero_iff .failed).mp none k (by rw [record]; exact within) (by rw [own]; rfl)
  refine ⟨only.keeps_flag flag, defn.trans (by rw [record]), (steps k (by rw [own]; exact nofun)).trans own,
    fun others => ⟨fun closing => ?_, fun opening => ?_⟩, fun ⟨j, inside, other, undecided⟩ => ?_⟩
  · rw [m.endSequence_closing g (last.mpr others) (state.trans closing), if_neg failed, State.raiseFlag_group]
    exact ⟨m.enterGroup_state g .incomplete 255, State.raiseFlag_has _ _⟩
  · rw [m.endSequence_opening g (last.mpr others) (state.trans opening)]
    exact m.enterGroup_state g .idle 255
  · have open' : (m.group g).allDecided = false := eq_false_of_ne_true fun all => by
      obtain confirmed | failed := last.mp all j inside other
      · rw [confirmed] at undecided
        exact undecided.elim nofun nofun
      · rw [failed] at undecided
        exact undecided.elim nofun nofun
    rw [m.endSequence_open g (.inl open')]
    exact state

/-! ### Timers -/

theorem State.groupWarningExpired_eq (s : State) (g : Fin 4) (due : Nat) (timer : (s.group g).warnTimer = some due)
    (warning : (s.group g).state = .warning) : s.groupWarningExpired g =
      ((s.reach due).setGroup g { s.group g with warnTimer := none }).endWarning g := by
  unfold State.groupWarningExpired
  rw [timer]
  refine if_pos ?_
  rw [State.group_setGroup_self]
  exact warning

theorem State.spacingExpired_eq (s : State) (g : Fin 4) (due : Nat) (timer : (s.group g).spacing = some due) :
    s.spacingExpired g = ((s.reach due).setGroup g { s.group g with spacing := none }).commandNext g := by
  unfold State.spacingExpired
  rw [timer]
  rfl

theorem State.travelExpired_eq (s : State) (g : Fin 4) (k : Fin 8) (due : Nat)
    (timer : ((s.group g).steps.at k).travel = some due) (commanded : ((s.group g).steps.at k).state = .commanded)
    (sequence : (s.group g).state = .closing ∨ (s.group g).state = .opening) : s.travelExpired g k =
      ((s.reach due).setStep g k { (s.group g).steps.at k with travel := none }).failStep g k .timeout := by
  unfold State.travelExpired
  rw [timer]
  refine if_pos ⟨?_, ?_⟩
  · rw [State.step_setStep_self]
    exact commanded
  · rw [State.group_setStep_self]
    exact sequence

theorem State.retryExpired_eq (s : State) (g : Fin 4) (k : Fin 8) (due : Nat)
    (timer : ((s.group g).steps.at k).retry = some due) (commanded : ((s.group g).steps.at k).state = .commanded)
    (closing : (s.group g).state = .closing) : s.retryExpired g k =
      ((s.reach due).setStep g k { (s.group g).steps.at k with retry := none }).buildDoor g k .close := by
  unfold State.retryExpired
  rw [timer]
  refine if_pos ⟨?_, ?_⟩
  · rw [State.step_setStep_self]
    exact commanded
  · rw [State.group_setStep_self]
    exact closing

/-! ### Warnings -/

theorem State.endWarning_marked (s : State) (g : Fin 4) (marked : (s.group g).mark = true) :
    s.endWarning g = s.enterClosing g := if_pos marked

theorem State.endWarning_unmarked (s : State) (g : Fin 4) (unmarked : (s.group g).mark = false) : s.endWarning g =
    if (s.removeEntry (groupCallEntry g)).condition (s.group g).defn.closePermit
      then (s.removeEntry (groupCallEntry g)).enterClosing g
      else (s.removeEntry (groupCallEntry g)).enterGroup g .waitPermit := by
  unfold State.endWarning
  rw [if_neg (ne_true_of_eq_false unmarked)]
  dsimp only
  rw [State.group_removeEntry]

theorem State.beginCount_timed (s : State) (g : Fin 4)
    (timed : (if (s.group g).mark then (s.group g).defn.tEwarn else (s.group g).defn.tWarn) ≠ 0) :
    s.beginCount g = s.setGroup g { s.group g with
      ready := true
      warnTimer := some (s.now + (if (s.group g).mark then (s.group g).defn.tEwarn else (s.group g).defn.tWarn)
        * Config.second) } := by
  unfold State.beginCount
  dsimp only
  rw [if_neg timed, if_neg timed]
  rfl

theorem State.beginCount_untimed (s : State) (g : Fin 4)
    (untimed : (if (s.group g).mark then (s.group g).defn.tEwarn else (s.group g).defn.tWarn) = 0) :
    s.beginCount g = (s.setGroup g { s.group g with ready := true, warnTimer := none }).endWarning g := by
  unfold State.beginCount
  dsimp only
  rw [if_pos untimed, if_pos untimed]

theorem State.handle_groupReady (s : State) (g : Fin 4) : s.handle (.callReady (groupCallEntry g)) = s.ownCallReady g := by
  fin_cases g <;> rfl

/-- What a group has once its warning has ended: CLOSING under the mark, else by the close permit (R133, R135). -/
theorem State.endWarning_record (s : State) (g : Fin 4) :
    ((s.endWarning g).group g).warnTimer = none ∧ ((s.endWarning g).group g).defn = (s.group g).defn
      ∧ ((s.group g).mark = true → ((s.endWarning g).group g).state = .closing ∧ ((s.endWarning g).group g).mark = true)
      ∧ ((s.group g).mark = false → ((s.endWarning g).group g).state =
          if (s.removeEntry (groupCallEntry g)).condition (s.group g).defn.closePermit then .closing else .waitPermit) := by
  have closes (u : State) (same : u.group g = s.group g) :
      ((u.enterClosing g).group g).warnTimer = none ∧ ((u.enterClosing g).group g).defn = (s.group g).defn := by
    have record := u.enterClosing_record g
    rw [same] at record
    exact ⟨(congrArg Group.warnTimer record).trans rfl,
      (congrArg Group.defn record).trans (Group.enter_defn (s.group g) .closing)⟩
  cases mark : (s.group g).mark with
  | true =>
    rw [s.endWarning_marked g mark]
    obtain ⟨timer, defn⟩ := closes s rfl
    obtain ⟨-, state, kept⟩ := s.enterClosing_frame g
    exact ⟨timer, defn, fun _ => ⟨state, kept.trans mark⟩, nofun⟩
  | false =>
    rw [s.endWarning_unmarked g mark]
    have same := s.group_removeEntry (groupCallEntry g) g
    generalize s.removeEntry (groupCallEntry g) = u at same ⊢
    split
    · obtain ⟨timer, defn⟩ := closes u same
      exact ⟨timer, defn, nofun, fun _ => (u.enterClosing_frame g).2.1⟩
    · rw [u.enterGroup_record, same]
      exact ⟨rfl, Group.enter_defn _ _, nofun, fun _ => rfl⟩

theorem State.groupTimers (s : State) (g : Fin 4) (due : Nat) :
    ((s.group g).warnTimer = some due → (s.group g).state = .warning →
      GroupOnly g { s with now := max s.now due } (s.groupWarningExpired g))
    ∧ ((s.group g).spacing = some due → GroupOnly g { s with now := max s.now due } (s.spacingExpired g)) := by
  refine ⟨fun timer warning => ?_, fun timer => ?_⟩
  · rw [s.groupWarningExpired_eq g due timer warning]
    exact ((GroupOnly.refl g _).setGroup _).endWarning
  · rw [s.spacingExpired_eq g due timer]
    exact ((GroupOnly.refl g _).setGroup _).commandNext

/-- Settles O54: the timers; the image changes; the steps; the frames; the warnings. -/
theorem groupTimersExpire : Obligations.GroupTimersExpire := by
  refine ⟨fun s g k due node => ?_, fun s g i v => ?_, fun s g k c st breach => ?_, fun s g k d door => ?_,
    fun s g k d node object => s.buildStopTo_eq g k d (node, object), fun s g k issue cmd d f o => ?_, fun s g => ?_⟩
  · intro r u x own
    have within (t : State) (only : GroupOnly g u t) (defn : (t.group g).defn = r.defn) (c : Instr)
        (runs : exec c s = .next t.settled) : own t c := ⟨runs, only, defn⟩
    refine ⟨fun timer warning => ?_, fun timer sequence => ?_, fun timer commanded sequence inside => ?_,
      fun timer commanded closing inside => ?_⟩
    · have marked := State.group_setGroup_self u g { r with warnTimer := none }
      have only := (s.groupTimers g due).1 timer warning
      have runs := s.act_own _ (·.groupWarningExpired g) node (s.groupWarningExpired_eq g due timer warning)
      rw [s.groupWarningExpired_eq g due timer warning] at only
      obtain ⟨stopped, defn, held, free⟩ := (u.setGroup g { r with warnTimer := none }).endWarning_record g
      rw [marked] at defn held free
      exact ⟨_, within _ only defn _ runs, stopped, held, free⟩
    · have marked := State.group_setGroup_self u g { r with spacing := none }
      have only := (s.groupTimers g due).2 timer
      have runs := s.act_own _ (·.spacingExpired g) node (s.spacingExpired_eq g due timer)
      rw [s.spacingExpired_eq g due timer] at only
      have frame := ((u.setGroup g { r with spacing := none }).commandNext_frame g).2
      have commands := (u.setGroup g { r with spacing := none }).commandNext_record g k
      rw [marked] at frame commands
      refine ⟨(u.setGroup g { r with spacing := none }).commandNext g,
        within _ only ((congrArg Group.defn frame).trans rfl) _ runs, (congrArg Group.spacing frame).trans rfl,
        (congrArg Group.state frame).trans rfl, fun inside waiting first => ?_⟩
      obtain ⟨p, record⟩ := commands sequence inside waiting first
      have steps := congrArg Group.steps record
      dsimp only at steps
      rw [steps]
      refine ⟨?_, ?_, fun j other => Tab.at_put_ne _ _ (Ne.symm other)⟩
      · rw [Tab.at_put_self]
      · rw [Tab.at_put_self]
    · have marked := u.group_setStep_self g k { x with travel := none }
      have step := u.step_setStep_self g k { x with travel := none }
      have runs := s.act_own _ (·.travelExpired g k) node (s.travelExpired_eq g k due timer commanded sequence)
      have only : GroupOnly g u ((u.setStep g k { x with travel := none }).failStep g k .timeout) :=
        ((GroupOnly.refl g u).setStep _ _).failStep _ _
      obtain ⟨flag, defn, ended, last, more⟩ := (u.setStep g k { x with travel := none }).failStep_record g k .timeout
        (by rw [marked]; exact inside)
      have others (j : Fin 8) (ne : j ≠ k) := u.step_setStep_ne g { x with travel := none } (Ne.symm ne)
      rw [step] at ended
      refine ⟨_, within _ only (defn.trans (by rw [marked]; rfl)) _ runs, flag, ended, fun decided => ?_,
        fun ⟨j, inside', ne, undecided⟩ => ?_⟩
      · obtain ⟨closes, opens⟩ := last fun j inside' ne => by
          rw [others j ne]
          exact decided j (by rw [marked] at inside'; exact inside') ne
        rw [marked] at closes opens
        exact ⟨closes, opens⟩
      · have still := more ⟨j, by rw [marked]; exact inside', ne, by rw [others j ne]; exact undecided⟩
        rw [marked] at still
        exact still
    · have marked := u.group_setStep_self g k { x with retry := none }
      have step := u.step_setStep_self g k { x with retry := none }
      have runs := s.act_own _ (·.retryExpired g k) node (s.retryExpired_eq g k due timer commanded closing)
      have only : GroupOnly g u ((u.setStep g k { x with retry := none }).buildDoor g k .close) :=
        ((GroupOnly.refl g u).setStep _ _).buildDoor _ _
      obtain ⟨d, door⟩ := (u.setStep g k { x with retry := none }).doorEntry_some g k (by rw [marked]; exact inside)
      obtain ⟨p, record⟩ := State.buildDoor_record _ g k d .close door
      rw [step, marked] at record
      have steps := congrArg (fun y : Group => y.steps.at k) record
      dsimp only at steps
      rw [Tab.at_put_self] at steps
      refine ⟨_, within _ only ((congrArg Group.defn record).trans rfl) _ runs, (congrArg Group.state record).trans closing, ?_, ?_, ?_, ?_⟩
      · rw [steps]
      · rw [steps]
      · rw [steps]
        exact commanded
      · rw [steps]
  · intro r t door found
    refine ⟨s.groupImageChange_waitPermit g i v, s.groupImageChange_deaf g i v,
      fun state none => s.groupImageChange_stranger g i v state (r.stepOf_none i none), fun k isFound => ?_⟩
    intro x commanded
    have step : r.stepOf i = some k := r.stepOf_found i k isFound.1 isFound.2
    refine ⟨fun sequence idle => ?_, fun opening held => ?_, fun closed => s.groupImageChange_closed g i v k closed step,
      fun closing held => ?_⟩
    · obtain closing | opening := sequence
      · exact (s.groupImageChange_closing g i v k closing step).trans (if_neg idle)
      · exact (s.groupImageChange_opening g i v k opening step).trans (if_neg fun h => idle h.1)
    · refine (s.groupImageChange_opening g i v k opening step).trans (if_congr ?_ rfl rfl)
      exact ⟨fun h => h.2, fun one => ⟨held, one⟩⟩
    · have report : t = s.closingReport g k v := (s.groupImageChange_closing g i v k closing step).trans (if_pos held)
      have retry := s.retryOrFail_eq g k .obstructed
      refine ⟨fun value => ?_, fun value => ?_, fun value => ?_, fun value => ?_, fun other => ?_⟩
      · rw [report, value]
        rfl
      · rw [report, value]
        rfl
      · rw [report, value]
        rfl
      · have again : t = s.retryOrFail g k .obstructed := by
          obtain value | value := value
          · rw [report, value]
            rfl
          · rw [report, value]
            rfl
        rw [again, retry]
        exact ⟨fun still => if_pos still, fun moving few => (if_neg moving).trans (if_pos few),
          fun moving many => (if_neg moving).trans (if_neg (Nat.not_lt.mpr many))⟩
      · exact report.trans (s.closingReport_other g k v other)
  · intro r x done within decided failed count
    have all : r.allDecided = true ↔ decided := r.allDecided_iff
    have none : r.count .failed = 0 ↔ ¬ failed := (r.count_eq_zero_iff .failed).trans
      ⟨fun free ⟨j, inside, bad⟩ => free j inside bad, fun free j inside bad => free ⟨j, inside, bad⟩⟩
    refine ⟨rfl, rfl, fun ended closing => ⟨fun sound => ?_, fun bad => ?_⟩,
      fun ended opening => s.endSequence_opening g (all.mpr ended) opening, fun still => ?_, ?_, ?_, ?_⟩
    · exact (s.endSequence_closing g (all.mpr ended) closing).trans (if_pos (none.mpr sound))
    · exact (s.endSequence_closing g (all.mpr ended) closing).trans (if_neg fun zero => none.mp zero bad)
    · exact s.endSequence_open g (still.imp_left fun open' => eq_false_of_ne_true fun full => open' (all.mp full))
    · have counted (a : StepState) : BitVec.ofNat 8 ((r.enter st).count a) = count a := by
        rw [Group.count_eq, Group.enter_defn]
      have record : ((s.setGroup g (r.enter st)).writeLocal (groupEntry g) st.code).group g = r.enter st := by
        rw [State.group, (State.writeLocal_calm _ _ _).groups]
        exact State.group_setGroup_self _ _ _
      rw [← counted, ← counted]
      unfold State.enterGroup
      dsimp only
      rw [record]
    · unfold Group.enter Group.releaseSteps
      cases st with
      | idle | warning | waitPermit | closing | closed | incomplete | opening | stopped => split <;> rfl
    · exact r.enter_step st k
  · intro r o frame
    refine ⟨fun cmd sequence waiting first => s.commandNext_eq g k cmd sequence (s.doorEntry_within g k d door) waiting first,
      fun cmd => ?_, ?_⟩
    · intro x q
      exact s.buildDoor_eq g k d cmd door
    · intro x q
      rw [s.buildStop_eq g k d door]
      exact s.buildStopTo_eq g k d _
  · intro r x started told gone first entry again judged
    refine ⟨fun stop => ?_, fun moves current => ?_, fun moves stale => ?_, fun idle => ?_, fun held closing => ?_,
      fun held opening => ?_⟩
    · subst stop
      exact s.doorFrameStarted_stop g k issue d f
    · have begun : started = _ := s.doorFrameStarted_current g k issue cmd d f moves current
      exact ⟨fun later => begun.trans (if_neg later), fun begins zero => begun.trans ((if_pos begins).trans (if_pos zero)),
        fun begins some => begun.trans ((if_pos begins).trans (if_neg some))⟩
    · have begun : started = _ := s.doorFrameStarted_stale g k issue cmd d f moves stale
      exact ⟨fun closes => begun.trans (if_pos closes), fun other => begun.trans (if_neg other)⟩
    · obtain stale | rest := idle
      · exact s.doorOutcome_stale g k issue cmd o stale
      · exact s.doorOutcome_idle g k issue cmd o rest
    · have out : told = _ := s.doorOutcome_judged g k issue cmd o held (.inl closing)
      rw [closing] at out
      refine ⟨fun result => ?_, fun result => ?_, fun result => ?_⟩
      · subst result
        exact out
      · subst result
        exact out.trans (s.retryOrFail_eq g k .rejected)
      · subst result
        exact out.trans (s.retryOrFail_eq g k .noAnswer)
    · have out : told = _ := s.doorOutcome_judged g k issue cmd o held (.inr opening)
      rw [opening] at out
      refine ⟨fun result => ?_, fun result => ?_, fun result => ?_⟩
      all_goals
        subst result
        exact out
  · intro r readyAt waits time all own cleared told
    have ready (e : Fin 16) : s.callReadyAt e = true ↔ readyAt e := s.callReadyAt_iff e
    have handled : told = s.ownCallReady g := s.handle_groupReady g
    refine ⟨fun there waiting => ?_, fun idle => ?_, fun there => ?_, fun absent => ?_, fun none => ?_, fun some => ?_,
      fun waiting => if_pos waiting, fun idle => if_neg idle, s.beginCount_timed g, s.beginCount_untimed g,
      s.endWarning_marked g, fun unmarked => ?_, rfl, rfl, cleared.callReadyAt_iff 6⟩
    · exact handled.trans (if_pos ⟨(ready _).mpr there, waiting⟩)
    · exact handled.trans (if_neg fun h => idle.elim (fun absent => absent ((ready _).mp h.1)) fun other => other h.2)
    · exact if_pos ((ready 6).mpr there)
    · exact if_neg (mt (ready 6).mp absent)
    · exact if_pos (Option.isNone_iff_eq_none.mpr none)
    · exact if_neg (mt Option.isNone_iff_eq_none.mp some)
    · exact s.endWarning_unmarked g unmarked

end Sys2Proof.Machine
end

section
/-! SUPPORT. CLOSE and OPEN and STOP delivered to a group (R132, R133, R135, R140 to R142). -/

namespace Sys2Proof.Machine

open Sys2Proof

/-! ### What a group's own event tells and publishes -/

/-- A group's event that places at most `n` notices: its definition stays, its entry stays published, and a
reply told before is told after. -/
structure GroupTells (g : Fin 4) (n : Nat) (s t : State) : Prop where
  told : s.bli.queue.length + n ≤ 32 → t.bli.queue.length ≤ s.bli.queue.length + n
    ∧ ∀ f : Frame, f.cls = .reply → s.tells f → t.tells f
  defn : (t.group g).defn = (s.group g).defn
  published : s.img.locals.at (groupEntry g) = (s.group g).state.code →
    t.img.locals.at (groupEntry g) = (t.group g).state.code

/-- An event that places no notice and leaves the group's state alone. -/
theorem GroupTells.ofStill {g : Fin 4} {s t : State} (bli : t.bli = s.bli)
    (entry : t.img.locals.at (groupEntry g) = s.img.locals.at (groupEntry g))
    (defn : (t.group g).defn = (s.group g).defn) (state : (t.group g).state = (s.group g).state) :
    GroupTells g 0 s t where
  told := fun _ => ⟨by rw [bli]; exact Nat.le_refl _, fun f _ told => State.tells_of_bli bli f told⟩
  defn := defn
  published := fun was => by rw [entry, was, state]

theorem GroupTells.refl (g : Fin 4) (s : State) : GroupTells g 0 s s := .ofStill rfl rfl rfl rfl

theorem GroupTells.trans {g : Fin 4} {m n : Nat} {s t u : State} (h : GroupTells g m s t) (k : GroupTells g n t u) :
    GroupTells g (m + n) s u where
  told := fun room => by
    obtain ⟨first, kept⟩ := h.told (by omega)
    obtain ⟨second, still⟩ := k.told (by omega)
    exact ⟨by omega, fun f cls told => still f cls (kept f cls told)⟩
  defn := k.defn.trans h.defn
  published := fun was => k.published (h.published was)

theorem GroupTells.weaken {g : Fin 4} {m n : Nat} {s t : State} (h : GroupTells g m s t) (le : m ≤ n) : GroupTells g n s t where
  told := fun room => by
    obtain ⟨queue, kept⟩ := h.told (by omega)
    exact ⟨by omega, kept⟩
  defn := h.defn
  published := h.published

theorem GroupTells.setGroup (s : State) (g : Fin 4) (r : Group) (defn : r.defn = (s.group g).defn)
    (state : r.state = (s.group g).state) : GroupTells g 0 s (s.setGroup g r) :=
  .ofStill rfl rfl ((congrArg Group.defn (State.group_setGroup_self s g r)).trans defn)
    ((congrArg Group.state (State.group_setGroup_self s g r)).trans state)

theorem GroupTells.resetSteps (s : State) (g : Fin 4) : GroupTells g 0 s (s.resetSteps g) := .setGroup s g _ rfl rfl

theorem GroupTells.markGroup (s : State) (g : Fin 4) : GroupTells g 0 s (s.markGroup g) := .setGroup s g _ rfl rfl

theorem CallsOnly.groupLocal {s t : State} (h : CallsOnly s t) (g : Fin 4) :
    t.img.locals.at (groupEntry g) = s.img.locals.at (groupEntry g) :=
  h.locals _ (.inl (by unfold groupEntry; have := g.isLt; dsimp only; omega))

theorem GroupTells.ofCalls {s t : State} (g : Fin 4) (only : CallsOnly s t) (silent : Silent s t) : GroupTells g 0 s t :=
  .ofStill silent.1 (only.groupLocal g) (congrArg Group.defn (only.group g)) (congrArg Group.state (only.group g))

theorem GroupTells.removeEntry (s : State) (g : Fin 4) (e : Fin 16) : GroupTells g 0 s (s.removeEntry e) :=
  .ofCalls g ((CallsOnly.refl s).removeEntry e) ((Silent.refl s).removeEntry e)

theorem GroupTells.placeEntry (s : State) (g : Fin 4) (e : Fin 16) (c : Call) : GroupTells g 0 s (s.placeEntry e c) :=
  .ofCalls g ((CallsOnly.refl s).placeEntry e c) ((Silent.refl s).placeEntry e c)

/-- Commands to doors fill the deck transmit queue and write the groups, nothing else. -/
theorem State.buildDoor_parts (s : State) (g : Fin 4) (k : Fin 8) (cmd : DoorCmd) :
    ∃ dls groups, s.buildDoor g k cmd = { s with dls := dls, groups := groups } := by
  cases door : s.doorEntry g k with
  | none =>
    unfold State.buildDoor
    rw [door]
    exact ⟨s.dls, s.groups, rfl⟩
  | some d =>
    rw [s.buildDoor_eq g k d cmd door]
    split
    · exact ⟨_, _, rfl⟩
    · exact ⟨_, _, rfl⟩

theorem State.commandNext_parts (s : State) (g : Fin 4) :
    ∃ dls groups, s.commandNext g = { s with dls := dls, groups := groups } := by
  unfold State.commandNext
  split
  · next cmd k _ _ =>
    obtain ⟨dls, groups, built⟩ := (s.setStep g k { (s.group g).steps.at k with state := .commanded }).buildDoor_parts g k cmd
    exact ⟨dls, groups, built⟩
  · exact ⟨s.dls, s.groups, rfl⟩

theorem GroupTells.commandNext (s : State) (g : Fin 4) : GroupTells g 0 s (s.commandNext g) := by
  have steps := (s.commandNext_frame g).2
  obtain ⟨dls, groups, parts⟩ := s.commandNext_parts g
  exact .ofStill ((congrArg State.bli parts).trans rfl)
    ((congrArg (fun t : State => t.img.locals.at (groupEntry g)) parts).trans rfl)
    ((congrArg Group.defn steps).trans rfl) ((congrArg Group.state steps).trans rfl)

theorem State.notice_told (s : State) (object value : Byte) (payload : List Byte) (room : HasRoom s) :
    (s.notice object value payload).bli.queue.length ≤ s.bli.queue.length + 1
      ∧ ∀ f : Frame, f.cls = .reply → s.tells f → (s.notice object value payload).tells f := by
  obtain ⟨-, queue, kept⟩ := s.place_tells ⟨s.noticeFrame object value payload, false⟩ room
  exact ⟨queue, fun f cls told => kept f (by simp [sameKey, cls]) told⟩

/-- The entry to a state places its notice (R129). -/
theorem State.enterGroup_told (s : State) (g : Fin 4) (st : GroupState) (breach : Byte) (room : HasRoom s) :
    (s.enterGroup g st breach).bli.queue.length ≤ s.bli.queue.length + 1
      ∧ ∀ f : Frame, f.cls = .reply → s.tells f → (s.enterGroup g st breach).tells f := by
  unfold State.enterGroup
  extract_lets old entered written r
  have bli : written.bli = s.bli := entered.writeLocal_bli _ _
  obtain ⟨queue, kept⟩ := written.notice_told (groupObject g) st.code
    [old.code, BitVec.ofNat 8 (r.count .confirmed), BitVec.ofNat 8 (r.count .failed), breach]
    (by rw [HasRoom, bli]; exact room)
  rw [bli] at queue
  exact ⟨queue, fun f cls told => kept f cls (State.tells_of_bli bli f told)⟩

theorem GroupTells.enterGroup (s : State) (g : Fin 4) (st : GroupState) (breach : Byte) :
    GroupTells g 1 s (s.enterGroup g st breach) where
  told := fun room => s.enterGroup_told g st breach (Nat.lt_of_succ_le room)
  defn := by rw [s.enterGroup_record, Group.enter_defn]
  published := fun _ => by rw [s.enterGroup_published, s.enterGroup_state]

theorem GroupTells.enterClosing (s : State) (g : Fin 4) : GroupTells g 1 s (s.enterClosing g) :=
  (GroupTells.enterGroup s g .closing 255).trans (.commandNext _ g)

theorem GroupTells.endWarning (s : State) (g : Fin 4) : GroupTells g 1 s (s.endWarning g) := by
  unfold State.endWarning
  split
  · exact .enterClosing s g
  · have removed := GroupTells.removeEntry s g (groupCallEntry g)
    generalize s.removeEntry (groupCallEntry g) = u at removed
    dsimp only
    split
    · exact removed.trans (.enterClosing u g)
    · exact removed.trans (.enterGroup u g _ _)

theorem GroupTells.beginCount (s : State) (g : Fin 4) : GroupTells g 1 s (s.beginCount g) := by
  unfold State.beginCount
  extract_lets r time counting
  have counts : GroupTells g 0 s counting := .setGroup s g _ rfl rfl
  split
  · exact counts.trans (.endWarning counting g)
  · exact counts.weaken (Nat.zero_le _)

theorem GroupTells.warnUnderMark (s : State) (g : Fin 4) : GroupTells g 1 s (s.warnUnderMark g) := by
  unfold State.warnUnderMark
  extract_lets removed r cleared
  have taken : GroupTells g 0 s cleared :=
    (GroupTells.removeEntry s g (groupCallEntry g)).trans
      (.setGroup removed g { removed.group g with ready := false, warnTimer := none } rfl rfl)
  split
  · exact taken.trans (.beginCount cleared g)
  · exact taken.weaken (Nat.zero_le _)

/-! ### A group that has taken a request -/

/-- What holds of a group whose request was answered in `u` and then taken: it alone has changed, its entry is
published, its definition stays, and the answer is still told. -/
structure RequestTaken (g : Fin 4) (u t : State) : Prop where
  only : GroupOnly g u t
  published : t.img.locals.at (groupEntry g) = (t.group g).state.code
  tells : GroupTells g 3 u t

/-- A group that has entered a state and gone on has its entry published. -/
theorem RequestTaken.ofEntered {g : Fin 4} {u v t : State} {st : GroupState} {breach : Byte} {m n : Nat} (only : GroupOnly g u t)
    (first : GroupTells g m u v) (after : GroupTells g n (v.enterGroup g st breach) t) (few : m + 1 + n ≤ 3) :
    RequestTaken g u t where
  only := only
  published := after.published (by rw [v.enterGroup_published, v.enterGroup_state])
  tells := ((first.trans (.enterGroup v g st breach)).trans after).weaken few

/-- A group that has taken a request has the answer told, when the queue was not near full. -/
theorem RequestTaken.answered {g : Fin 4} {s t : State} {n : NodeNo} {c : Result} (room : HasRoom s)
    (taken : RequestTaken g (s.replied ⟨n, []⟩ (groupObject g) c) t) : t.now = s.now ∧ (t.group g).defn = (s.group g).defn
      ∧ (s.bli.queue.length ≤ 24 → t.tells (s.replyFrame n (groupObject g) c [])) := by
  have calm := s.replied_calm ⟨n, []⟩ (groupObject g) c []
  obtain ⟨told, queue⟩ := s.replied_tells ⟨n, []⟩ (groupObject g) c [] room
  refine ⟨taken.only.now.trans calm.now, taken.tells.defn.trans ?_, fun short => (taken.tells.told (by omega)).2 _ rfl told⟩
  rw [State.group, calm.groups]
  rfl

theorem State.group_replied (s : State) (q : Request) (o : Byte) (c : Result) (p : List Byte) (g : Fin 4) :
    (s.replied q o c p).group g = s.group g := by
  rw [State.group, (s.replied_calm q o c p).groups]
  rfl

/-- A request that is answered and then writes its group's record alone. -/
theorem State.actRequest_recorded (s : State) (f : State → State) (q : Request) (o : Byte) (c : Result) (g : Fin 4)
    (r : Group) (settled : Settled s) (own : f s = (s.replied q o c).setGroup g r) :
    s.actRequest f = .next ((s.replied q o c).setGroup g r) := by
  have agenda : (s.replied q o c).agenda = s.agenda := s.queued_agenda _
  have owed : (s.replied q o c).fc.owed = s.fc.owed := congrArg Fc.owed (s.queued_fc _)
  have dls : (s.replied q o c).dls = s.dls := (s.replied_calm q o c []).dls
  generalize s.replied q o c = v at own agenda owed dls ⊢
  exact s.actRequest_exact _ f settled own agenda owed dls

/-! ### The answers to CLOSE -/

theorem Group.undefinedGroup_iff (r : Group) : r.undefinedGroup = true ↔ r.defn.doors = [] := List.isEmpty_iff

theorem State.closeGroup_undefined (s : State) (g : Fin 4) (n : NodeNo) (none : (s.group g).defn.doors = []) :
    s.closeGroup g ⟨n, []⟩ = s.refuse n (groupObject g) .state := by
  unfold State.closeGroup
  exact (if_neg (fun h => h rfl)).trans (if_pos ((Group.undefinedGroup_iff _).mpr none))

theorem State.closeGroup_normal (s : State) (g : Fin 4) (n : NodeNo) (some : (s.group g).defn.doors ≠ [])
    (normal : ¬ ((s.group g).defn.fire = true ∧ s.dcc.deck = .emergency)) :
    s.closeGroup g ⟨n, []⟩ = s.normalClose g (Option.some n) := by
  unfold State.closeGroup
  exact (if_neg (fun h => h rfl)).trans ((if_neg (mt (Group.undefinedGroup_iff _).mp some)).trans (if_neg normal))

/-- An emergency close that has nothing to do (R135). -/
def Group.closeDone (r : Group) : Bool := r.state == .closed || (r.mark && (r.state == .warning || r.state == .closing))

theorem Group.closeDone_closed (r : Group) (state : r.state = .closed) : r.closeDone = true := by
  unfold Group.closeDone
  rw [state]
  rfl

theorem Group.closeDone_marked (r : Group) (state : r.state = .warning ∨ r.state = .closing) : r.closeDone = r.mark := by
  unfold Group.closeDone
  obtain state | state := state
  · rw [state]
    exact Bool.and_true _
  · rw [state]
    exact Bool.and_true _

theorem Group.closeDone_begun (r : Group) (state : r.state ∈ [GroupState.waitPermit, .idle, .stopped, .incomplete, .opening]) :
    r.closeDone = false := by
  unfold Group.closeDone
  cases other : r.state with
  | waitPermit | idle | stopped | incomplete | opening => exact Bool.and_false _
  | closed | warning | closing => simp [other] at state

theorem State.closeGroup_emergency (s : State) (g : Fin 4) (n : NodeNo) (room : HasRoom s)
    (some : (s.group g).defn.doors ≠ []) (emergency : (s.group g).defn.fire = true ∧ s.dcc.deck = .emergency) :
    s.closeGroup g ⟨n, []⟩ =
      (s.replied ⟨n, []⟩ (groupObject g) (if (s.group g).closeDone then .done else .accepted)).emergencyClose g := by
  rw [← s.reply_replied ⟨n, []⟩ _ _ _ room]
  unfold State.closeGroup
  exact (if_neg (fun h => h rfl)).trans ((if_neg (mt (Group.undefinedGroup_iff _).mp some)).trans (if_pos emergency))

theorem State.normalClose_done (s : State) (g : Fin 4) (n : NodeNo)
    (state : (s.group g).state ∈ [GroupState.closed, .warning, .waitPermit, .closing]) :
    s.normalClose g (some n) = s.reply n (groupObject g) .done := by
  unfold State.normalClose
  dsimp only
  cases other : (s.group g).state with
  | closed | warning | waitPermit | closing => rfl
  | idle | stopped | incomplete | opening => simp [other] at state

theorem State.normalClose_asked (s : State) (g : Fin 4) (n : NodeNo)
    (state : (s.group g).state ∈ [GroupState.idle, .stopped, .incomplete, .opening]) :
    s.normalClose g (some n) = if (s.sec 4).status = .corrupt then s.refuse n (groupObject g) .corrupt
      else if s.condition (s.group g).defn.closePermit then (s.reply n (groupObject g) .accepted).warnNormal g
      else s.refuse n (groupObject g) (.conditionFalse (s.group g).defn.closePermit) := by
  unfold State.normalClose
  dsimp only
  cases other : (s.group g).state with
  | idle | stopped | incomplete | opening => rfl
  | closed | warning | waitPermit | closing => simp [other] at state

/-! ### What a taken CLOSE does -/

theorem State.warnNormal_group (s : State) (g : Fin 4) :
    (s.warnNormal g).group g = ((s.resetSteps g).group g).enter .warning := by
  rw [State.warnNormal, State.group_placeEntry, State.enterGroup_record]

theorem RequestTaken.warnNormal (s : State) (g : Fin 4) : RequestTaken g s (s.warnNormal g) :=
  .ofEntered (GroupOnly.refl g s).warnNormal (.resetSteps s g) (.placeEntry _ g _ _) (by decide)

theorem Call.key_iff (x c : Call) : x.key = c.key ↔ x.origin = c.origin ∧ x.zones = c.zones ∧ x.message = c.message
    ∧ x.priority = c.priority ∧ x.reps = c.reps ∧ x.pattern = c.pattern := by
  unfold Call.key
  simp only [Prod.mk.injEq]

/-- The group's own call stands in its entry (R133). -/
theorem State.warnNormal_call (s : State) (g : Fin 4) : ∃ x, (s.warnNormal g).cl.calls.at (groupCallEntry g) = some x
    ∧ x.origin = .group g ∧ x.zones = (s.group g).defn.zones ∧ x.message = (s.group g).defn.message
    ∧ x.priority = .safety ∧ x.reps = 0 ∧ x.pattern = (s.group g).defn.pattern := by
  have endless : (s.groupCall g).reps = 0 := rfl
  rw [State.warnNormal]
  obtain ⟨x, listed, key⟩ := State.placeEntry_listed ((s.resetSteps g).enterGroup g .warning) (groupCallEntry g)
    (s.groupCall g) endless
  exact ⟨x, listed, (x.key_iff _).mp key⟩

theorem State.emergencyClose_waitPermit (s : State) (g : Fin 4) (state : (s.group g).state = .waitPermit) :
    s.emergencyClose g = (s.markGroup g).enterClosing g := by
  unfold State.emergencyClose
  rw [state]

theorem State.emergencyClose_closing (s : State) (g : Fin 4) (state : (s.group g).state = .closing) :
    s.emergencyClose g = s.markGroup g := by
  unfold State.emergencyClose
  rw [state]

theorem State.emergencyClose_warns (s : State) (g : Fin 4)
    (state : (s.group g).state ∈ [GroupState.idle, .stopped, .incomplete, .opening]) :
    s.emergencyClose g = (((s.resetSteps g).markGroup g).enterGroup g .warning).warnUnderMark g := by
  unfold State.emergencyClose
  cases other : (s.group g).state with
  | idle | stopped | incomplete | opening => rfl
  | closed | warning | waitPermit | closing => simp [other] at state

theorem RequestTaken.emergencyClose (s : State) (g : Fin 4)
    (state : (s.group g).state ∈ [GroupState.waitPermit, .idle, .stopped, .incomplete, .opening]) :
    RequestTaken g s (s.emergencyClose g) := by
  have only := (GroupOnly.refl g s).emergencyClose
  obtain waits | rest := List.mem_cons.mp state
  · rw [s.emergencyClose_waitPermit g waits] at only ⊢
    exact .ofEntered only (.markGroup s g) (.commandNext _ g) (by decide)
  · rw [s.emergencyClose_warns g rest] at only ⊢
    exact .ofEntered only ((GroupTells.resetSteps s g).trans (.markGroup _ g)) (.warnUnderMark _ g) (by decide)

/-- Settles O52: CLOSE, normal and in EMERGENCY. -/
theorem closeJudged : Obligations.CloseJudged := by
  intro s g n settled room q o r out emergency u taken
  have group : u.group g = r := s.group_replied _ _ _ _ _
  have calm : Calm s u := s.replied_calm _ _ _ _
  have answered (t : State) (ends : s.closeGroup g q = t) (takes : RequestTaken g u t) : taken t := by
    obtain ⟨now, defn, tells⟩ := takes.answered room
    exact ⟨s.actRequest_own _ (·.closeGroup g q) settled.1 settled.2.2.2.2 ends, takes.only, now, takes.published, defn, tells⟩
  refine ⟨fun none => ?_, fun some normal => ?_, fun some urgent => ?_⟩
  · exact s.actRequest_refused (·.closeGroup g q) q o .state settled room (s.closeGroup_undefined g n none)
  · have judged := s.closeGroup_normal g n some normal
    refine ⟨fun busy => ?_, fun idle => ?_⟩
    · exact s.actRequest_replied (·.closeGroup g q) q o .done [] settled room (judged.trans (s.normalClose_done g n busy))
    · have asked := judged.trans (s.normalClose_asked g n idle)
      refine ⟨fun corrupt => ?_, fun sound denied => ?_, fun sound permitted => ?_⟩
      · exact s.actRequest_refused (·.closeGroup g q) q o .corrupt settled room (asked.trans (if_pos corrupt))
      · exact s.actRequest_refused (·.closeGroup g q) q o _ settled room
          (asked.trans ((if_neg sound).trans (if_neg (ne_true_of_eq_false denied))))
      · have warns : s.closeGroup g q = u.warnNormal g := by
          refine asked.trans ((if_neg sound).trans ((if_pos permitted).trans ?_))
          exact congrArg (·.warnNormal g) (s.reply_replied q o .accepted [] room)
        have record := u.warnNormal_group g
        obtain ⟨state, steps⟩ := u.warnNormal_record g
        have call := u.warnNormal_call g
        rw [State.group_resetSteps, group] at record
        rw [group] at steps call
        have takes := answered _ warns (.warnNormal u g)
        generalize u.warnNormal g = t at record state steps call takes
        refine ⟨t, takes, state, ?_, ?_, ?_, ?_, steps, call⟩
        · rw [record]
          exact Bool.and_true _
        · rw [record]
          rfl
        · rw [record]
          rfl
        · rw [record]
          rfl
  · have judged := s.closeGroup_emergency g n room some urgent
    have same (c : Result) : (s.replied q o c).group g = r := s.group_replied _ _ _ _ _
    have takes (state : r.state ∈ [GroupState.waitPermit, .idle, .stopped, .incomplete, .opening]) :
        taken (u.emergencyClose g) := by
      rw [r.closeDone_begun state] at judged
      exact answered _ judged (.emergencyClose u g (by rw [group]; exact state))
    obtain ⟨-, -, -, marks, closes, warns⟩ := u.emergencyClose_record g
    rw [group] at marks closes warns
    refine ⟨fun closed => ?_, fun closing => ?_, fun waits => ?_, fun warning => ?_, fun idle => ?_⟩
    · rw [r.closeDone_closed closed] at judged
      obtain ⟨-, -, still, -⟩ := (s.replied q o .done).emergencyClose_record g
      refine s.actRequest_replied (·.closeGroup g q) q o .done [] settled room (judged.trans ?_)
      exact (still ((congrArg Group.state (same _)).trans closed)).trans (s.reply_replied q o .done [] room).symm
    · intro v
      rw [r.closeDone_marked (.inr closing), State.emergencyClose_closing _ g ((congrArg Group.state (same _)).trans closing),
        State.markGroup, same] at judged
      exact s.actRequest_recorded (·.closeGroup g q) q o _ g _ settled judged
    · exact ⟨u.emergencyClose g, takes (by simp [waits]), closes (.inl waits), marks (by simp [waits])⟩
    · intro v
      rw [r.closeDone_marked (.inl warning)] at judged
      have group : v.group g = r := same _
      have now : v.now = s.now := (s.replied_calm _ _ _ _).now
      have ends : s.closeGroup g q = v.emergencyClose g := judged
      clear_value v
      obtain ⟨-, -, -, marks, -, warns⟩ := v.emergencyClose_record g
      rw [group] at marks warns
      have only := (GroupOnly.refl g v).emergencyClose
      exact ⟨v.emergencyClose g, s.actRequest_own _ (·.closeGroup g q) settled.1 settled.2.2.2.2 ends, only,
        only.now.trans now, warns (by simp [warning]), marks (by simp [warning])⟩
    · exact ⟨u.emergencyClose g, takes (List.mem_cons_of_mem _ idle), warns (List.mem_append_left [GroupState.warning] idle),
        marks fun closed => by simp [closed] at idle⟩

end Sys2Proof.Machine
end

section
/-! SUPPORT. OPEN and STOP delivered to a group (R132, R140 to R142). -/

namespace Sys2Proof.Machine

open Sys2Proof

/-! ### The answers to OPEN -/

theorem State.openGroup_undefined (s : State) (g : Fin 4) (n : NodeNo) (none : (s.group g).defn.doors = []) :
    s.openGroup g ⟨n, []⟩ = s.refuse n (groupObject g) .state := by
  unfold State.openGroup
  exact (if_neg (fun h => h rfl)).trans (if_pos ((Group.undefinedGroup_iff _).mpr none))

theorem State.openGroup_opening (s : State) (g : Fin 4) (n : NodeNo) (some : (s.group g).defn.doors ≠ [])
    (opening : (s.group g).state = .opening) : s.openGroup g ⟨n, []⟩ = s.reply n (groupObject g) .done := by
  unfold State.openGroup
  exact (if_neg (fun h => h rfl)).trans ((if_neg (mt (Group.undefinedGroup_iff _).mp some)).trans (if_pos opening))

/-- OPEN to a defined group that is not opening: deck condition, CORRUPT and permit, in this order (R140). -/
theorem State.openGroup_judged (s : State) (g : Fin 4) (n : NodeNo) (some : (s.group g).defn.doors ≠ [])
    (shut : (s.group g).state ≠ .opening) : s.openGroup g ⟨n, []⟩ =
      if (s.group g).defn.sea = true ∧ s.dcc.deck = .sea ∨ (s.group g).defn.fire = true ∧ s.dcc.deck = .emergency
        then s.refuse n (groupObject g) .deckCondition
      else if (s.sec 4).status = .corrupt then s.refuse n (groupObject g) .corrupt
      else if s.condition (s.group g).defn.openPermit = false
        then s.refuse n (groupObject g) (.conditionFalse (s.group g).defn.openPermit)
      else (s.reply n (groupObject g) .accepted).startOpening g := by
  unfold State.openGroup
  exact (if_neg (fun h => h rfl)).trans ((if_neg (mt (Group.undefinedGroup_iff _).mp some)).trans (if_neg shut))

/-! ### Entry to OPENING -/

theorem Group.enter_record (r : Group) (st : GroupState) : r.enter st = { r with
    state := st, mark := r.mark && !st.clearsMark, ready := false, warnTimer := none, spacing := none
    steps := (r.enter st).steps } := by
  unfold Group.enter Group.releaseSteps
  split
  · rfl
  · rfl

/-- A group in OPENING with every step WAITING, its first command not yet built (R141). -/
def State.opened (s : State) (g : Fin 4) : State := (s.resetSteps g).enterGroup g .opening

theorem State.opened_record (s : State) (g : Fin 4) : (s.opened g).group g = { s.group g with
    state := .opening, mark := false, ready := false, warnTimer := none, spacing := none
    steps := ((s.opened g).group g).steps } := by
  rw [State.opened, State.enterGroup_record]
  refine (Group.enter_record _ .opening).trans ?_
  rw [State.group_resetSteps]
  exact congrArg (fun m => ({ s.group g with
    state := .opening, mark := m, ready := false, warnTimer := none, spacing := none, steps := _ } : Group)) (Bool.and_false _)

theorem State.opened_steps (s : State) (g : Fin 4) (k : Fin 8) :
    ((s.opened g).group g).steps.at k = ((s.group g).steps.at k).restarted := by
  have waiting (k : Fin 8) : ((s.resetSteps g).group g).steps.at k = ((s.group g).steps.at k).restarted := by
    rw [State.group_resetSteps]
    exact Tab.at_make _ k
  rw [State.opened, State.enterGroup_record, Group.enter_steps, waiting k]
  intro j
  rw [waiting j]
  exact nofun

theorem State.opened_deck (s : State) (g : Fin 4) : (s.opened g).cl = s.cl ∧ (s.opened g).dls = s.dls :=
  (s.resetSteps g).enterGroup_deck g .opening 255

theorem State.startOpening_warning (s : State) (g : Fin 4) (warning : (s.group g).state = .warning) :
    s.startOpening g = ((s.removeEntry (groupCallEntry g)).opened g).commandNext g := by
  unfold State.startOpening
  rw [if_pos warning]
  rfl

theorem State.startOpening_calm (s : State) (g : Fin 4) (calm : (s.group g).state ≠ .warning) :
    s.startOpening g = (s.opened g).commandNext g := by
  unfold State.startOpening
  rw [if_neg calm]
  rfl

/-- What OPENING begins with: every step begun anew, the first one commanded (R141). -/
structure OpeningBegun (g : Fin 4) (s t : State) : Prop where
  state : (t.group g).state = .opening
  mark : (t.group g).mark = false
  published : t.img.locals.at (groupEntry g) = 6
  cl : t.cl = s.cl
  first : ((t.group g).steps.at 0).state = .commanded
  later : ∀ k, k ≠ 0 → ((t.group g).steps.at k).state = .waiting
  fresh : ∀ k, ((t.group g).steps.at k).attempts = 0 ∧ ((t.group g).steps.at k).travel = none

theorem State.opened_begins (s : State) (g : Fin 4) (some : (s.group g).defn.doors ≠ []) :
    OpeningBegun g s ((s.opened g).commandNext g) := by
  have record := s.opened_record g
  have steps := s.opened_steps g
  have published : (s.opened g).img.locals.at (groupEntry g) = 6 := (s.resetSteps g).enterGroup_published g .opening 255
  have cl := (s.opened_deck g).1
  generalize s.opened g = u at record steps published cl ⊢
  obtain ⟨p, commanded⟩ := u.commandNext_record g 0 (.inr (by rw [record]))
    (by rw [record]; exact List.length_pos_iff.mpr some) (by rw [steps]; rfl) (fun j none => absurd none (Fin.not_lt_zero j))
  obtain ⟨dls, groups, parts⟩ := u.commandNext_parts g
  obtain ⟨stays, -⟩ := u.commandNext_frame g
  have img : (u.commandNext g).img = u.img := by rw [parts]
  have own : ((u.commandNext g).group g).steps.at 0 = { ((s.group g).steps.at 0).restarted with
      state := .commanded, issue := ((s.group g).steps.at 0).restarted.issue + 1, pendingCmd := p } := by
    rw [commanded]
    dsimp only
    rw [Tab.at_put_self, steps]
  have others (k : Fin 8) (later : k ≠ 0) : ((u.commandNext g).group g).steps.at k = ((s.group g).steps.at k).restarted := by
    rw [commanded]
    dsimp only
    rw [Tab.at_put_ne _ _ (Ne.symm later), steps]
  refine ⟨?_, ?_, by rw [img]; exact published, stays.cl.trans cl, by rw [own], fun k later => ?_, fun k => ?_⟩
  · rw [commanded, record]
  · rw [commanded, record]
  · rw [others k later]
    rfl
  · by_cases same : k = 0
    · subst same
      rw [own]
      exact ⟨rfl, rfl⟩
    · rw [others k same]
      exact ⟨rfl, rfl⟩

/-- The first OPEN of a group stands in the deck transmit queue when it has a place (R130, R140). -/
theorem State.opened_frame (s : State) (g : Fin 4) (d : Fin 96) (first : (s.group g).defn.doors.head? = some d)
    (place : s.dls.hasPlace false = true) : ∃ x ∈ ((s.opened g).commandNext g).dls.normal, x.urgent = false
      ∧ x.frame.dest = ((s.opened g).img.defs.at d).node ∧ x.frame.object = ((s.opened g).img.defs.at d).object
      ∧ x.frame.cls = .command ∧ x.frame.verb = 2 ∧ x.frame.payload = [] := by
  have record := s.opened_record g
  have waiting : (((s.opened g).group g).steps.at 0).state = .waiting := by
    rw [s.opened_steps g]
    rfl
  have dls := (s.opened_deck g).2
  generalize s.opened g = u at record waiting dls ⊢
  have entry : (u.group g).defn.doors[(0 : Fin 8).val]? = some d := by
    rw [record]
    exact (List.head?_eq_getElem? ..).symm.trans first
  rw [u.commandNext_eq g 0 .openDoor (.inr ⟨by rw [record], rfl⟩) (List.getElem?_eq_some_iff.mp entry).1 waiting
    fun j none => absurd none (Fin.not_lt_zero j)]
  have kept := u.group_setStep_self g 0 { (u.group g).steps.at 0 with state := .commanded }
  have commanded : (u.setStep g 0 { (u.group g).steps.at 0 with state := .commanded }).dls.hasPlace
      ((u.setStep g 0 { (u.group g).steps.at 0 with state := .commanded }).group g).mark = true := by
    rw [kept, record]
    exact (congrArg (·.hasPlace false) dls).trans place
  have door : (u.setStep g 0 { (u.group g).steps.at 0 with state := .commanded }).doorEntry g 0 = some d := by
    unfold State.doorEntry
    rw [kept]
    exact entry
  rw [State.buildDoor_eq _ g 0 d .openDoor door, if_pos commanded, kept, record]
  exact ⟨_, List.mem_append_right _ (List.mem_singleton.mpr rfl), rfl, rfl, rfl, rfl, rfl, rfl⟩

theorem RequestTaken.startOpening (s : State) (g : Fin 4) : RequestTaken g s (s.startOpening g) := by
  have only := (GroupOnly.refl g s).startOpening
  by_cases warning : (s.group g).state = .warning
  · rw [s.startOpening_warning g warning] at only ⊢
    exact .ofEntered only ((GroupTells.removeEntry s g (groupCallEntry g)).trans (.resetSteps _ g)) (.commandNext _ g)
      (by decide)
  · rw [s.startOpening_calm g warning] at only ⊢
    exact .ofEntered only (.resetSteps s g) (.commandNext _ g) (by decide)

/-- OPENING begins, a warning's call gone from its entry first (R140, R141). -/
theorem State.startOpening_begins (s : State) (g : Fin 4) (some : (s.group g).defn.doors ≠ []) :
    ∃ u : State, OpeningBegun g u (s.startOpening g)
      ∧ ((s.group g).state = .warning → u.cl.calls.at (groupCallEntry g) = none) := by
  by_cases warning : (s.group g).state = .warning
  · rw [s.startOpening_warning g warning]
    exact ⟨_, State.opened_begins _ g (by rw [State.group_removeEntry]; exact some), fun _ => s.removeEntry_absent _⟩
  · rw [s.startOpening_calm g warning]
    exact ⟨_, s.opened_begins g some, fun h => absurd h warning⟩

/-! ### STOP -/

theorem State.stopGroupRequest_eq (s : State) (g : Fin 4) (n : NodeNo) (room : HasRoom s) :
    s.stopGroupRequest g ⟨n, []⟩ = (s.replied ⟨n, []⟩ (groupObject g) .done).stopGroup g := by
  rw [← s.reply_replied ⟨n, []⟩ _ _ _ room]
  unfold State.stopGroupRequest
  exact if_neg fun h => h rfl

theorem State.stopGroup_rest (s : State) (g : Fin 4)
    (state : (s.group g).state ∈ [GroupState.idle, .closed, .incomplete, .stopped]) : s.stopGroup g = s := by
  unfold State.stopGroup
  cases other : (s.group g).state with
  | idle | closed | incomplete | stopped => rfl
  | warning | waitPermit | closing | opening => simp [other] at state

theorem State.stopGroup_warning (s : State) (g : Fin 4) (state : (s.group g).state = .warning) :
    s.stopGroup g = (s.removeEntry (groupCallEntry g)).enterGroup g .stopped := by
  unfold State.stopGroup
  rw [state]

theorem State.stopGroup_moving (s : State) (g : Fin 4)
    (state : (s.group g).state = .closing ∨ (s.group g).state = .opening) : s.stopGroup g = s.haltGroup g := by
  unfold State.stopGroup
  obtain state | state := state
  · rw [state]
  · rw [state]

/-- A group in a sequence enters STOPPED, after the frames that STOP builds (R142). -/
theorem State.stopGroup_enters (s : State) (g : Fin 4)
    (state : (s.group g).state ∈ [GroupState.warning, .waitPermit, .closing, .opening]) :
    ∃ u : State, s.stopGroup g = u.enterGroup g .stopped := by
  unfold State.stopGroup
  cases other : (s.group g).state with
  | warning => exact ⟨_, rfl⟩
  | waitPermit => exact ⟨_, rfl⟩
  | closing | opening => exact ⟨_, rfl⟩
  | idle | closed | incomplete | stopped => simp [other] at state

/-- Settles O53: the answers to OPEN and what a taken one begins, and STOP. -/
theorem openAndStopJudged : Obligations.OpenAndStopJudged := by
  intro s g n settled room q o r kept judged out
  have asked (h : judged) := s.openGroup_judged g n h.1 h.2
  refine ⟨fun none => ?_, fun some opening => ?_, fun h sea => ?_, fun h free corrupt => ?_, fun h free sound denied => ?_,
    fun h free sound permitted => ?_, ?_⟩
  · exact s.actRequest_refused (·.openGroup g q) q o .state settled room (s.openGroup_undefined g n none)
  · exact s.actRequest_replied (·.openGroup g q) q o .done [] settled room (s.openGroup_opening g n some opening)
  · exact s.actRequest_refused (·.openGroup g q) q o .deckCondition settled room ((asked h).trans (if_pos sea))
  · exact s.actRequest_refused (·.openGroup g q) q o .corrupt settled room
      ((asked h).trans ((if_neg free).trans (if_pos corrupt)))
  · exact s.actRequest_refused (·.openGroup g q) q o _ settled room
      ((asked h).trans ((if_neg free).trans ((if_neg sound).trans (if_pos denied))))
  · have group : (s.replied q o .accepted).group g = r := s.group_replied _ _ _ _ _
    have calm := s.replied_calm q o .accepted []
    obtain ⟨now, -, tells⟩ := (RequestTaken.startOpening (s.replied q o .accepted) g).answered room
    have ends : s.openGroup g q = (s.replied q o .accepted).startOpening g :=
      ((asked h).trans ((if_neg free).trans ((if_neg sound).trans (if_neg (by rw [permitted]; exact nofun))))).trans
        (congrArg (·.startOpening g) (s.reply_replied q o .accepted [] room))
    generalize s.replied q o .accepted = u at group calm now tells ends ⊢
    obtain ⟨v, begun, gone⟩ := u.startOpening_begins g (by rw [group]; exact h.1)
    rw [group] at gone
    refine ⟨u.startOpening g, s.actRequest_own _ (·.openGroup g q) settled.1 settled.2.2.2.2 ends,
      (GroupOnly.refl g u).startOpening, now, begun.state, begun.mark, begun.published,
      fun warning => by rw [begun.cl]; exact gone warning, begun.first, begun.later, begun.fresh, tells,
      fun quiet place d first => ?_⟩
    have defs : (u.opened g).img.defs = s.img.defs :=
      ((GroupOnly.refl g u).resetSteps.enterGroup .opening 255).defs.trans calm.defs
    rw [u.startOpening_calm g (by rw [group]; exact quiet)]
    have framed := u.opened_frame g d (by rw [group]; exact first) (by rw [calm.dls]; exact place)
    rw [defs] at framed
    exact framed
  · intro stop u
    have group : u.group g = r := s.group_replied _ _ _ _ _
    have now : u.now = s.now := (s.replied_calm _ _ _ _).now
    have ends := s.stopGroupRequest_eq g n room
    refine ⟨fun rest => ?_, fun sequence => ?_⟩
    · refine s.actRequest_replied (·.stopGroupRequest g q) q o .done [] settled room (ends.trans ?_)
      rw [s.reply_replied q o .done [] room]
      exact u.stopGroup_rest g (by rw [group]; exact rest)
    · have taken : s.stopGroupRequest g q = u.stopGroup g := ends
      clear_value u
      have only := (GroupOnly.refl g u).stopGroup
      obtain ⟨v, enters⟩ := u.stopGroup_enters g (by rw [group]; exact sequence)
      have record : (u.stopGroup g).group g = (v.group g).enter .stopped := by rw [enters, v.enterGroup_record]
      refine ⟨u.stopGroup g, s.actRequest_own _ (·.stopGroupRequest g q) settled.1 settled.2.2.2.2 taken, only,
        only.now.trans now, ?_, ?_, ?_, ?_, ?_, fun warning => ?_, fun moving k commanded => ?_⟩
      · rw [record]
        rfl
      · rw [record]
        exact Bool.and_false _
      · rw [record]
        rfl
      · rw [record]
        rfl
      · rw [enters]
        exact v.enterGroup_published g .stopped 255
      · rw [u.stopGroup_warning g ((congrArg Group.state group).trans warning), (State.enterGroup_deck _ _ _ _).1]
        exact u.removeEntry_absent _
      · rw [← group] at moving commanded
        obtain ⟨-, -, steps⟩ := u.haltGroup_record g moving
        rw [u.stopGroup_moving g moving, ← group]
        exact steps k commanded

end Sys2Proof.Machine
end

section
/-! SUPPORT. What the beacons show (R162 to R164). -/

namespace Sys2Proof.Machine

open Sys2Proof

theorem State.beaconAt_eq (s : State) (b : Fin 8) (p : Nat) (i : Fin 16) : s.beaconAt b p i = {
    pattern := p, step := i
    timer := if p = 0 then none else some (s.now + (s.bd.pattern p).length * (50 * Config.msec))
    level := if p ≠ 0 ∧ ((s.bd.pattern p).steps.getLsbD i.val != (s.bd.recs.at b).opposite) = true then
      (if s.dcc.deck = .emergency then 31 else (s.bd.recs.at b).intensity) else 0 } := by
  have lit : s.stepLit b p i = true ↔
      p ≠ 0 ∧ ((s.bd.pattern p).steps.getLsbD i.val != (s.bd.recs.at b).opposite) = true := by
    rw [State.stepLit, Bool.and_eq_true, bne_iff_ne]
  have level : (if s.stepLit b p i then s.intensity b else 0) = if p ≠ 0
      ∧ ((s.bd.pattern p).steps.getLsbD i.val != (s.bd.recs.at b).opposite) = true then s.intensity b else 0 :=
    if_congr lit rfl rfl
  exact congrArg (fun n => ({ pattern := p, step := i, level := n
                              timer := if p = 0 then none else s.timerFor ((s.bd.pattern p).length * Config.stepUnit) } : Shown)) level

/-- The step after a step, 15 going back to 0 (R163). -/
theorem nextStep_eq (i : Fin 16) : i + 1 = if i.val = 15 then 0 else i + 1 := by
  revert i
  decide

theorem State.stepBeacon_eq (s : State) (b : Fin 8) (due : Nat) (timer : (s.bd.shown.at b).timer = some due) :
    s.stepBeacon b = (s.reach due).setShown b
      ((s.reach due).beaconAt b (s.bd.shown.at b).pattern ((s.bd.shown.at b).step + 1)) := by
  unfold State.stepBeacon
  dsimp only
  rw [timer]

/-! ### Patterns formed afresh -/

/-- A beacon after its shown pattern was formed afresh (R162). -/
def State.beaconFormed (s : State) (b : Fin 8) : Shown :=
  if s.sourcePattern (s.bd.recs.at b).source = (s.bd.shown.at b).pattern then s.bd.shown.at b else s.beaconRestarted b

theorem State.formBeacon_shown_self (s : State) (b : Fin 8) : (s.formBeacon b).bd.shown.at b = s.beaconFormed b := by
  unfold State.formBeacon State.beaconFormed
  dsimp only
  split
  · rfl
  · exact Tab.at_put_self _ _ _

theorem State.formBeacon_shown_ne (s : State) {b c : Fin 8} (other : b ≠ c) :
    (s.formBeacon b).bd.shown.at c = s.bd.shown.at c := by
  unfold State.formBeacon
  dsimp only
  split
  · rfl
  · exact Tab.at_put_ne _ _ other

theorem State.formBeacon_formed_ne (s : State) {b c : Fin 8} (other : b ≠ c) :
    (s.formBeacon b).beaconFormed c = s.beaconFormed c := by
  have shown := s.formBeacon_shown_ne other
  obtain ⟨x, formed⟩ := s.formBeacon_eq b
  rw [formed] at shown ⊢
  unfold State.beaconFormed
  rw [shown]
  rfl

theorem State.foldl_formBeacon_shown (l : List (Fin 8)) (once : l.Nodup) (s : State) (b : Fin 8) :
    (l.foldl State.formBeacon s).bd.shown.at b = if b ∈ l then s.beaconFormed b else s.bd.shown.at b := by
  induction l generalizing s with
  | nil => rfl
  | cons c l ih =>
    obtain ⟨fresh, rest⟩ := List.nodup_cons.mp once
    rw [List.foldl_cons, ih rest]
    by_cases same : c = b
    · subst same
      rw [if_neg fresh, if_pos List.mem_cons_self, State.formBeacon_shown_self]
    · rw [s.formBeacon_formed_ne same, s.formBeacon_shown_ne same]
      exact if_congr (by simp [Ne.symm same]) rfl rfl

theorem State.formBeacons_shown (s : State) (b : Fin 8) : s.formBeacons.bd.shown.at b = s.beaconFormed b := by
  have listed : b ∈ allBeacons := by
    revert b
    decide
  rw [State.formBeacons, State.foldl_formBeacon_shown allBeacons (by decide), if_pos listed]

theorem State.formBeacons_frame (s : State) :
    s.formBeacons = { s with bd := { s.bd with shown := s.formBeacons.bd.shown } } := by
  obtain ⟨x, formed⟩ := s.formBeacons_eq
  rw [formed]
  rfl

theorem State.ownerCall_none (s : State) (z : Fin 12) (free : (s.cl.zones.at z).owner = none) : s.ownerCall z = none := by
  rw [State.ownerCall, free]

theorem State.ownerCall_some (s : State) (z : Fin 12) (e : Fin 16) (owner : (s.cl.zones.at z).owner = some e) :
    s.ownerCall z = (s.cl.calls.at e).map fun c => (e, c) := by
  rw [State.ownerCall, owner]

theorem State.sourcePattern_zone (s : State) (z : Fin 12) :
    s.sourcePattern (.zone z) = ((s.ownerCall z).map fun x => x.2.pattern).getD 0 := by
  unfold State.sourcePattern
  dsimp only
  cases owner : (s.cl.zones.at z).owner with
  | none => rw [s.ownerCall_none z owner]; rfl
  | some e =>
    rw [s.ownerCall_some z e owner, Option.map_map]
    rfl

theorem State.setMark_present (s : State) (e : Fin 16) (z : Fin 12) (m : Mark) (c : Call)
    (present : s.cl.calls.at e = some c) : s.setMark e z m = s.setCall e (some { c with marks := c.marks.put z m }) := by
  rw [State.setMark, present]
  rfl

theorem State.ownerCall_owner {s : State} {z : Fin 12} {e : Fin 16} {c : Call} (owned : s.ownerCall z = some (e, c)) :
    (s.cl.zones.at z).owner = some e ∧ s.cl.calls.at e = some c := by
  cases owner : (s.cl.zones.at z).owner with
  | none => exact absurd ((s.ownerCall_none z owner).symm.trans owned) nofun
  | some k =>
    rw [s.ownerCall_some z k owner, Option.map_eq_some_iff] at owned
    obtain ⟨x, present, same⟩ := owned
    cases same
    exact ⟨rfl, present⟩

theorem State.ownerCall_iff (s : State) (z : Fin 12) (e : Fin 16) (c : Call) :
    s.ownerCall z = some (e, c) ↔ (s.cl.zones.at z).owner = some e ∧ s.cl.calls.at e = some c := by
  refine ⟨State.ownerCall_owner, fun ⟨owner, present⟩ => ?_⟩
  rw [s.ownerCall_some z e owner, present]
  rfl

/-! ### Frames of the zones -/

theorem State.zoneFrameStarted_cut (s : State) (z : Fin 12) (issue : Byte) (urgent : Bool) (f : Frame)
    (current : issue = (s.cl.zones.at z).issue) : s.zoneFrameStarted z issue false urgent f = s := by
  unfold State.zoneFrameStarted
  exact (if_pos current).trans (if_neg nofun)

theorem State.zoneFrameStarted_unowned (s : State) (z : Fin 12) (issue : Byte) (play urgent : Bool) (f : Frame)
    (current : issue = (s.cl.zones.at z).issue) (free : s.ownerCall z = none) :
    s.zoneFrameStarted z issue play urgent f = s := by
  unfold State.zoneFrameStarted
  refine (if_pos current).trans ?_
  cases play with
  | true => exact (if_pos rfl).trans (by rw [free])
  | false => exact if_neg nofun

theorem State.zoneFrameStarted_play (s : State) (z : Fin 12) (issue : Byte) (urgent : Bool) (f : Frame) (e : Fin 16)
    (c : Call) (current : issue = (s.cl.zones.at z).issue) (owned : s.ownerCall z = some (e, c)) :
    s.zoneFrameStarted z issue true urgent f = s.setMark e z (.playing .sent) := by
  unfold State.zoneFrameStarted
  exact (if_pos current).trans ((if_pos rfl).trans (by rw [owned]))

/-- The CUT that follows a stale PLAY to a node the zone is not mapped to (R154). -/
def State.strayCut (s : State) (z : Fin 12) (play urgent : Bool) (f : Frame) (t : State) : State :=
  if play = true ∧ (s.zoneTarget z).map Prod.fst ≠ some f.dest then t.cutTo z f.dest f.object urgent else t

theorem State.zoneFrameStarted_stale_free (s : State) (z : Fin 12) (issue : Byte) (play urgent : Bool) (f : Frame)
    (stale : issue ≠ (s.cl.zones.at z).issue) (free : s.ownerCall z = none) :
    s.zoneFrameStarted z issue play urgent f = s.strayCut z play urgent f (if play then s.buildCut z urgent else s) := by
  unfold State.zoneFrameStarted
  refine (if_neg stale).trans ?_
  dsimp only
  rw [free]
  rfl

theorem State.zoneFrameStarted_stale_owned (s : State) (z : Fin 12) (issue : Byte) (play urgent : Bool) (f : Frame)
    (e : Fin 16) (c : Call) (stale : issue ≠ (s.cl.zones.at z).issue) (owned : s.ownerCall z = some (e, c)) :
    s.zoneFrameStarted z issue play urgent f = if c.isPlaying z
      then (((s.strayCut z play urgent f s).setMark e z (.pending false)).playOwner z).settleDone
      else s.strayCut z play urgent f s := by
  unfold State.zoneFrameStarted
  refine (if_neg stale).trans ?_
  dsimp only
  rw [owned]
  rfl

theorem State.buildCut_unmapped (s : State) (z : Fin 12) (urgent : Bool) (none : s.zoneTarget z = none) :
    s.buildCut z urgent = s := by
  rw [State.buildCut, none]

theorem State.buildCut_mapped (s : State) (z : Fin 12) (urgent : Bool) (node : NodeNo) (object : Byte)
    (target : s.zoneTarget z = some (node, object)) : s.buildCut z urgent = s.cutTo z node object urgent := by
  rw [State.buildCut, target]

/-! ### Outcomes and reports of the zones -/

theorem State.loseZone_eq (s : State) (z : Fin 12) (e : Fin 16) (c : Call) : s.loseZone z e c =
    ((s.setMark e z (if c.reps ≠ 0 then .done else .pending true)).raiseFlag .zoneLost).settleDone := by
  have mark : (if c.finite then Mark.done else .pending true) = if c.reps ≠ 0 then .done else .pending true :=
    if_congr bne_iff_ne rfl rfl
  unfold State.loseZone
  rw [mark]

theorem State.showsMessage_iff (s : State) (z : Fin 12) (d : Fin 96) (message : Byte)
    (index : (s.cl.zones.at z).index = 32 + d.val) : s.showsMessage z message = true ↔
      (s.img.remotes.at d).value = 1 ∧ (s.img.remotes.at d).detail.head? = some message := by
  unfold State.showsMessage
  rw [index, remoteOf?_remote]
  simp only [Bool.and_eq_true, beq_iff_eq]

theorem State.zoneOutcome_free (s : State) (z : Fin 12) (issue : Byte) (play ok : Bool) (free : s.ownerCall z = none) :
    s.zoneOutcome z issue play ok = s := by
  unfold State.zoneOutcome
  rw [free]
  exact ite_self s

theorem State.zoneOutcome_owned (s : State) (z : Fin 12) (issue : Byte) (play ok : Bool) (e : Fin 16) (c : Call)
    (owned : s.ownerCall z = some (e, c)) : s.zoneOutcome z issue play ok =
      if play = true ∧ issue = (s.cl.zones.at z).issue ∧ c.isPlaying z = true then
        if ok then s.setMark e z (.playing (if c.finite && s.showsMessage z c.message then .heard else .accepted))
        else s.loseZone z e c
      else s := by
  unfold State.zoneOutcome
  rw [owned]
  dsimp only
  by_cases current : play = true ∧ issue = (s.cl.zones.at z).issue
  · rw [if_pos current]
    exact if_congr ⟨fun playing => ⟨current.1, current.2, playing⟩, fun h => h.2.2⟩ rfl rfl
  · rw [if_neg current, if_neg fun h => current ⟨h.1, h.2.1⟩]

theorem State.zoneReport_free (s : State) (z : Fin 12) (v : Byte) (free : s.ownerCall z = none) : s.zoneReport z v = s := by
  unfold State.zoneReport
  rw [free]

theorem State.zoneReport_waits (s : State) (z : Fin 12) (v : Byte) (e : Fin 16) (c : Call)
    (owned : s.ownerCall z = some (e, c)) (waits : c.marks.at z = .pending true) : s.zoneReport z v =
      if v = 255 then s else (s.setMark e z (.pending false)).playOwner z := by
  unfold State.zoneReport
  rw [owned]
  dsimp only
  rw [waits]

theorem State.zoneReport_still (s : State) (z : Fin 12) (v : Byte) (e : Fin 16) (c : Call)
    (owned : s.ownerCall z = some (e, c)) (still : c.marks.at z ∈ [Mark.none, .pending false, .done]) :
    s.zoneReport z v = s := by
  simp only [List.mem_cons, List.not_mem_nil, or_false] at still
  unfold State.zoneReport
  rw [owned]
  dsimp only
  obtain mark | mark | mark := still
  · rw [mark]
  · rw [mark]
  · rw [mark]

theorem State.zoneReport_playing (s : State) (z : Fin 12) (v : Byte) (e : Fin 16) (c : Call) (p : Progress)
    (owned : s.ownerCall z = some (e, c)) (mark : c.marks.at z = .playing p) : s.zoneReport z v =
      if v = 2 then s.loseZone z e c
      else if c.finite then
        if v = 1 ∧ p = .accepted ∧ s.showsMessage z c.message = true then s.setMark e z (.playing .heard)
        else if v = 0 ∧ p = .heard then (s.setMark e z .done).settleDone
        else s
      else s := by
  unfold State.zoneReport
  rw [owned]
  dsimp only
  rw [mark]

/-! ### Timers -/

/-- An entry made ready now, and a reserved origin told (R156). -/
def State.madeReady (s : State) (e : Fin 16) (c : Call) : State :=
  { s with
    cl := { s.cl with calls := s.cl.calls.put e (some { c with ready := some s.now, wait := none }) }
    agenda := if e.val ≤ 6 then s.agenda ++ [.callReady e] else s.agenda }

theorem State.makeReady_eq (s : State) (e : Fin 16) (c : Call) : s.makeReady e c = s.madeReady e c := by
  unfold State.makeReady State.madeReady
  dsimp only
  split
  · rfl
  · rfl

theorem State.waitExpired_eq (s : State) (e : Fin 16) (c : Call) (due : Nat) (present : s.cl.calls.at e = some c)
    (timer : c.wait = some due) : s.waitExpired e = ((s.reach due).madeReady e c).raiseFlag .warnDegraded := by
  unfold State.waitExpired
  rw [present]
  dsimp only
  rw [timer]
  dsimp only
  rw [State.makeReady_eq]

/-- Settles O56: the timers; the patterns; the starts, outcomes and reports of the zones' frames. -/
theorem waitAndBeaconTimers : Obligations.WaitAndBeaconTimers := by
  refine ⟨fun s e c due node present timer => ?_, fun s b due settled timer => ?_, fun s b => ?_,
    fun s z issue play urgent f => ?_, fun s z e c d issue v play ok owned index => ?_,
    fun s z issue v play ok free => ⟨s.zoneOutcome_free z issue play ok free, s.zoneReport_free z v free⟩, fun _ => rfl,
    fun s i v => ?_⟩
  · intro n u t
    have ends : s.waitExpired e = t := s.waitExpired_eq e c due present timer
    have ready : CallsOnly { s with now := n } u := by
      rw [show u = State.makeReady { s with now := n } e c from (State.makeReady_eq { s with now := n } e c).symm]
      exact (CallsOnly.refl _).makeReady e c
    have calm := u.raiseFlag_calm .warnDegraded
    exact ⟨s.act_own _ (·.waitExpired e) node ends, ready.raiseFlag _, u.raiseFlag_has _, calm.dls, calm.bd, calm.cl⟩
  · intro x n next lit
    have ends := s.stepBeacon_eq b due timer
    rw [State.beaconAt_eq, nextStep_eq] at ends
    exact s.act_exact _ (·.stepBeacon b) settled ends rfl rfl rfl
  · have frame := s.formBeacons_frame
    have shown := s.formBeacons_shown b
    rw [State.beaconFormed, s.beaconRestarted_eq b] at shown
    generalize s.formBeacons = u at frame shown ⊢
    refine ⟨frame, shown, rfl, s.sourcePattern_zone, fun ch => ?_⟩
    unfold State.sourcePattern
    dsimp only
    cases (s.ramp ch).state with
    | starting | locking | lowering | landing | raising | stowing | halting | jog => rfl
    | fault => rfl
    | disabled | stowedLocked | landed | halted => rfl
  · intro t current stray
    refine ⟨fun now still => ?_, fun now plays e c owned => ?_, fun stale free => ?_, fun stale e c owned => ?_⟩
    · obtain cut | free := still
      · subst cut
        exact s.zoneFrameStarted_cut z issue urgent f now
      · exact s.zoneFrameStarted_unowned z issue play urgent f now free
    · subst plays
      exact s.zoneFrameStarted_play z issue urgent f e c now owned
    · have begun : t = _ := s.zoneFrameStarted_stale_free z issue play urgent f stale free
      refine ⟨fun cut => ?_, fun plays unmapped => ?_, fun plays node object target => ?_⟩
      · subst cut
        exact begun.trans (if_neg fun h => Bool.false_ne_true h.1)
      · subst plays
        rw [if_pos rfl, s.buildCut_unmapped z urgent unmapped] at begun
        exact begun.trans (if_pos ⟨rfl, by rw [unmapped]; exact nofun⟩)
      · subst plays
        rw [if_pos rfl, s.buildCut_mapped z urgent node object target] at begun
        exact begun
    · have begun : t = _ := s.zoneFrameStarted_stale_owned z issue play urgent f e c stale owned
      exact ⟨fun silent => begun.trans (if_neg (ne_true_of_eq_false silent)), fun playing => begun.trans (if_pos playing)⟩
  · intro told seen x shows lost judged
    have out : told = _ := s.zoneOutcome_owned z issue play ok e c owned
    have shown : s.showsMessage z c.message = true ↔ shows := s.showsMessage_iff z d c.message index
    have loses : s.loseZone z e c = lost := s.loseZone_eq z e c
    refine ⟨fun idle => out.trans (if_neg idle), fun held bad => ?_, fun held good finite heard => ?_,
      fun held good silent => ?_, fun waits => s.zoneReport_waits z v e c owned waits,
      fun still => s.zoneReport_still z v e c owned still, fun p playing => ?_⟩
    · exact (out.trans (if_pos held)).trans ((if_neg (ne_true_of_eq_false bad)).trans loses)
    · refine (out.trans (if_pos held)).trans ((if_pos good).trans ?_)
      rw [if_pos (by rw [Bool.and_eq_true]; exact ⟨bne_iff_ne.mpr finite, shown.mpr heard⟩)]
    · refine (out.trans (if_pos held)).trans ((if_pos good).trans ?_)
      rw [if_neg]
      rw [Bool.and_eq_true]
      exact fun h => silent.elim (bne_iff_ne.mp h.1) fun hidden => hidden (shown.mp h.2)
    · have report : seen = _ := s.zoneReport_playing z v e c p owned playing
      have finite (some : c.reps ≠ 0) : c.finite = true := bne_iff_ne.mpr some
      refine ⟨fun lost => ?_, fun kept endless => ?_, fun one some accepted heard => ?_, fun zero some heard => ?_,
        fun kept fresh silent => ?_⟩
      · exact (report.trans (if_pos lost)).trans loses
      · exact (report.trans (if_neg kept)).trans (if_neg fun some => bne_iff_ne.mp some endless)
      · exact (report.trans (if_neg (by rw [one]; decide))).trans
          ((if_pos (finite some)).trans (if_pos ⟨one, accepted, shown.mpr heard⟩))
      · exact (report.trans (if_neg (by rw [zero]; decide))).trans ((if_pos (finite some)).trans
          ((if_neg fun h => absurd (h.1.symm.trans zero) (by decide)).trans (if_pos ⟨zero, heard⟩)))
      · rw [if_neg kept, if_neg (fun h => fresh ⟨h.1, h.2.1, shown.mp h.2.2⟩ :
          ¬ (v = 1 ∧ p = .accepted ∧ s.showsMessage z c.message = true)), if_neg silent] at report
        exact report.trans (ite_self s)
  · intro zones
    exact ⟨fun low => if_pos low, fun high => if_neg (Nat.not_lt.mpr high)⟩

end Sys2Proof.Machine
end

section
/-! SUPPORT. The frames and the owners of the zones (R152 to R154). -/

namespace Sys2Proof.Machine

open Sys2Proof

/-! ### PLAY and CUT -/

theorem State.zoneTarget_mapped (s : State) (z : Fin 12) (d : Fin 96) (index : (s.cl.zones.at z).index = 32 + d.val) :
    s.zoneTarget z = some ((s.img.defs.at d).node, (s.img.defs.at d).object) := by
  rw [State.zoneTarget, index, remoteOf?_remote]
  rfl

theorem State.zoneTarget_unfitted (s : State) (z : Fin 12)
    (index : (s.cl.zones.at z).index < 32 ∨ 127 < (s.cl.zones.at z).index) : s.zoneTarget z = none := by
  unfold State.zoneTarget remoteOf?
  obtain low | high := index
  · rw [if_neg (Nat.not_le.mpr low)]
    rfl
  · rw [if_pos (by omega), dif_neg (by omega)]
    rfl

theorem State.zoneTarget_congr {s t : State} {z : Fin 12} (index : (t.cl.zones.at z).index = (s.cl.zones.at z).index)
    (defs : t.img.defs = s.img.defs) : t.zoneTarget z = s.zoneTarget z := by
  rw [State.zoneTarget, State.zoneTarget, index, defs]

theorem State.cutTo_eq (s : State) (z : Fin 12) (node : NodeNo) (object : Byte) (urgent : Bool) :
    let r : DeckRec := {
      frame := { dest := node, urgent := false, src := s.node, cls := .call, object := object, verb := 2, payload := [] }
      urgent := urgent, cond := none, origin := .zone z (s.cl.zones.at z).issue false }
    s.cutTo z node object urgent = if s.dls.hasPlace urgent then { s with dls := s.dls.accept r }
      else if (s.cl.zones.at z).pendingCut = none then s.setZone z { s.cl.zones.at z with pendingCut := some r } else s := by
  intro r
  unfold State.cutTo
  cases place : s.dls.hasPlace urgent with
  | true => simp only [s.offer_placed r place, r, if_true]
  | false =>
    simp only [s.offer_full r place, r, Bool.false_eq_true, if_false]
    cases (s.cl.zones.at z).pendingCut with
    | none => rfl
    | some p => rfl

/-- The PLAY of a call for a zone (R154). -/
def State.playRec (s : State) (z : Fin 12) (node : NodeNo) (object : Byte) (c : Call) : DeckRec where
  frame := { dest := node, urgent := false, src := s.node, cls := .call, object := object, verb := 1
             payload := [c.message, BitVec.ofNat 8 c.reps] }
  urgent := c.isEmergency
  cond := none
  origin := .zone z (s.cl.zones.at z).issue true

theorem State.buildPlay_eq (s : State) (z : Fin 12) (node : NodeNo) (object : Byte) (c : Call) :
    s.buildPlay z node object c = if s.dls.hasPlace c.isEmergency
      then { s.setZone z { s.cl.zones.at z with pendingPlay := none } with
        dls := s.dls.accept (s.playRec z node object c) }
      else s.setZone z { s.cl.zones.at z with pendingPlay := some (s.playRec z node object c) } := by
  unfold State.buildPlay
  extract_lets zn r
  cases place : s.dls.hasPlace c.isEmergency with
  | true =>
    rw [s.offer_placed r place]
    rfl
  | false =>
    rw [s.offer_full r place]
    rfl

/-! ### The owner of a zone plays -/

theorem State.advanceIssue_zone (s : State) (z : Fin 12) : (s.advanceIssue z).cl.zones.at z =
    { s.cl.zones.at z with issue := (s.cl.zones.at z).issue + 1 } := s.zone_setZone_self z _

theorem State.advanceIssue_ownerCall (s : State) (z : Fin 12) : (s.advanceIssue z).ownerCall z = s.ownerCall z :=
  State.ownerCall_congr (by rw [State.advanceIssue_zone]) rfl

theorem State.advanceIssue_zoneTarget (s : State) (z : Fin 12) : (s.advanceIssue z).zoneTarget z = s.zoneTarget z :=
  State.zoneTarget_congr (by rw [State.advanceIssue_zone]) rfl

theorem State.playOwner_free (s : State) (z : Fin 12) (free : s.ownerCall z = none) :
    s.playOwner z = s.advanceIssue z := by
  unfold State.playOwner
  dsimp only
  rw [s.advanceIssue_ownerCall, free]

theorem State.playOwner_unfitted (s : State) (z : Fin 12) (e : Fin 16) (c : Call) (owned : s.ownerCall z = some (e, c))
    (unfitted : s.zoneTarget z = none) : s.playOwner z =
      (s.advanceIssue z).setMark e z (if c.reps ≠ 0 then .done else .playing .accepted) := by
  have mark : (if c.finite then Mark.done else .playing .accepted) = if c.reps ≠ 0 then .done else .playing .accepted :=
    if_congr bne_iff_ne rfl rfl
  unfold State.playOwner
  dsimp only
  rw [s.advanceIssue_ownerCall, owned]
  dsimp only
  rw [s.advanceIssue_zoneTarget, unfitted]
  dsimp only
  rw [mark]

/-- A zone about to play: its issue advanced, the node wait of its owner's call cleared (R153). -/
def State.playBegun (s : State) (z : Fin 12) (e : Fin 16) (c : Call) : State :=
  if c.marks.at z = .pending true then (s.advanceIssue z).setMark e z (.pending false) else s.advanceIssue z

theorem State.playOwner_fitted (s : State) (z : Fin 12) (e : Fin 16) (c : Call) (node : NodeNo) (object : Byte)
    (owned : s.ownerCall z = some (e, c)) (target : s.zoneTarget z = some (node, object)) :
    s.playOwner z = (s.playBegun z e c).buildPlay z node object c := by
  unfold State.playOwner
  dsimp only
  rw [s.advanceIssue_ownerCall, owned]
  dsimp only
  rw [s.advanceIssue_zoneTarget, target]
  rfl

theorem State.setMark_frame (s : State) (e : Fin 16) (z : Fin 12) (m : Mark) :
    ∃ calls, s.setMark e z m = { s with cl := { s.cl with calls := calls } } := by
  unfold State.setMark
  split
  · exact ⟨s.cl.calls, rfl⟩
  · exact ⟨_, rfl⟩

theorem State.playBegun_frame (s : State) (z : Fin 12) (e : Fin 16) (c : Call) :
    ∃ calls, s.playBegun z e c = { s.advanceIssue z with cl := { (s.advanceIssue z).cl with calls := calls } } := by
  unfold State.playBegun
  split
  · exact (s.advanceIssue z).setMark_frame e z _
  · exact ⟨(s.advanceIssue z).cl.calls, rfl⟩

/-- The frame of a zone's owner, and where it goes (R154). -/
theorem State.playOwner_frame (s : State) (z : Fin 12) (e : Fin 16) (c : Call) (node : NodeNo) (object : Byte)
    (owned : s.ownerCall z = some (e, c)) (target : s.zoneTarget z = some (node, object)) :
    let zn := s.cl.zones.at z
    let r : DeckRec := {
      frame := { dest := node, urgent := false, src := s.node, cls := .call, object := object, verb := 1
                 payload := [c.message, BitVec.ofNat 8 c.reps] }
      urgent := decide (c.priority = .emergency), cond := none, origin := .zone z (zn.issue + 1) true }
    let kept : Option DeckRec → State := fun p =>
      (s.playBegun z e c).setZone z { zn with issue := zn.issue + 1, pendingPlay := p }
    s.playOwner z = if s.dls.hasPlace r.urgent then { kept none with dls := s.dls.accept r } else kept (some r) := by
  intro zn r kept
  rw [s.playOwner_fitted z e c node object owned target, State.buildPlay_eq]
  obtain ⟨calls, begun⟩ := s.playBegun_frame z e c
  have zone : (s.playBegun z e c).cl.zones.at z = { zn with issue := zn.issue + 1 } := by
    rw [begun]
    exact s.advanceIssue_zone z
  have dls : (s.playBegun z e c).dls = s.dls := by
    rw [begun]
    rfl
  have record : (s.playBegun z e c).playRec z node object c = r := by
    rw [State.playRec, zone, begun]
    rfl
  rw [zone, dls, record]
  rfl

/-! ### Owners recomputed -/

/-- A zone taken by an entry. -/
def State.ownZone (s : State) (z : Fin 12) (new : Option (Fin 16)) : State :=
  s.setZone z { s.cl.zones.at z with owner := new }

theorem State.recomputeZone_same (s : State) (before : CallList) (gone : List (Fin 16)) (z : Fin 12)
    (same : (before.zones.at z).owner = s.cl.choose z) (stays : ∀ e, (before.zones.at z).owner = some e → e ∉ gone) :
    State.recomputeZone before gone s z = s := by
  unfold State.recomputeZone
  refine if_pos ⟨same, ?_⟩
  cases owner : (before.zones.at z).owner with
  | none => rfl
  | some e => simpa using stays e owner

theorem State.recomputeZone_free (s : State) (before : CallList) (gone : List (Fin 16)) (z : Fin 12)
    (free : (before.zones.at z).owner = none) (taken : s.cl.choose z ≠ none) :
    State.recomputeZone before gone s z = (s.ownZone z (s.cl.choose z)).playOwner z := by
  unfold State.recomputeZone
  rw [free]
  exact if_neg fun h => taken h.1.symm

/-- The call that loses a zone, as it was when it lost it (R153). -/
def State.loserOf (s : State) (before : CallList) (gone : List (Fin 16)) (e : Fin 16) : Option Call :=
  if e ∈ gone then before.calls.at e else s.cl.calls.at e

theorem State.loserOf_eq (s : State) (before : CallList) (gone : List (Fin 16)) (e : Fin 16) :
    (if gone.contains e = true then before.calls.at e else s.cl.calls.at e) = s.loserOf before gone e :=
  if_congr List.contains_iff_mem rfl rfl

theorem zone_moves {old : Fin 16} {new : Option (Fin 16)} {gone : List (Fin 16)} (moves : some old ≠ new ∨ old ∈ gone) :
    ¬ (some old = new ∧ gone.contains old = false) := by
  rintro ⟨same, stays⟩
  obtain other | gone' := moves
  · exact other same
  · exact absurd (List.contains_iff_mem.mpr gone') (ne_true_of_eq_false stays)

theorem State.recomputeZone_silent (s : State) (before : CallList) (gone : List (Fin 16)) (z : Fin 12) (e : Fin 16)
    (owner : (before.zones.at z).owner = some e) (moves : some e ≠ s.cl.choose z ∨ e ∈ gone)
    (silent : ∀ c, s.loserOf before gone e = some c → c.isPlaying z = false) :
    State.recomputeZone before gone s z = (s.ownZone z (s.cl.choose z)).playOwner z := by
  unfold State.recomputeZone
  rw [owner]
  extract_lets old new removed lost marked owned cut told
  have lose : lost = none := by
    simp only [lost, old, removed, State.loserOf_eq]
    cases loser : s.loserOf before gone e with
    | none => rfl
    | some c => exact if_neg (ne_true_of_eq_false (silent c loser))
  have mark : marked = s := by
    simp only [marked, old, lose]
    rfl
  rw [if_neg (zone_moves moves)]
  simp only [told, lose, cut, owned, mark]
  rfl

theorem State.recomputeZone_cut (s : State) (before : CallList) (gone : List (Fin 16)) (z : Fin 12) (e : Fin 16) (c : Call)
    (owner : (before.zones.at z).owner = some e) (moves : some e ≠ s.cl.choose z ∨ e ∈ gone)
    (loser : s.loserOf before gone e = some c) (playing : c.isPlaying z = true) :
    let a := (if e ∈ gone then s else s.setMark e z (.pending false)).ownZone z (s.cl.choose z)
    State.recomputeZone before gone s z =
      (a.buildCut z (((a.ownerCall z).map Prod.snd).getD c).isEmergency).playOwner z := by
  intro a
  unfold State.recomputeZone
  rw [owner]
  extract_lets old new removed lost marked owned cut told
  have lose : lost = some c := by
    simp only [lost, old, removed, State.loserOf_eq, loser, playing, if_true]
  have mark : marked = if e ∈ gone then s else s.setMark e z (.pending false) := by
    simp only [marked, old, lose, removed]
    by_cases leaves : e ∈ gone
    · rw [if_pos leaves, if_neg fun h => absurd (List.contains_iff_mem.mpr leaves) (ne_true_of_eq_false h.2)]
    · rw [if_neg leaves, if_pos ⟨rfl, eq_false_of_ne_true (mt List.contains_iff_mem.mp leaves)⟩]
  have cuts : cut = a := by
    simp only [cut, owned, mark]
    rfl
  rw [if_neg (zone_moves moves)]
  simp only [told, lose, cuts]
  cases a.ownerCall z with
  | none => rfl
  | some x => rfl

end Sys2Proof.Machine
end

section
/-! SUPPORT. The order of the calls: the owner chosen and the call evicted (R150, R152). -/

namespace Sys2Proof.Machine

open Sys2Proof

/-! ### The best of a list, by a comparison that may keep or replace -/

/-- The best entry so far, after one more: replaced when the new key is better. -/
def pickBest {α P : Type} (key : α → Option P) (better : P → P → Bool) (best : Option (α × P)) (e : α) : Option (α × P) :=
  match key e, best with
  | none, _ => best
  | some p, none => some (e, p)
  | some p, some (_, q) => if better p q then some (e, p) else best

section
variable {α P : Type} (key : α → Option P) (better : P → P → Bool)

theorem pickBest_keyless (best : Option (α × P)) (e : α) (keyless : key e = none) : pickBest key better best e = best := by
  unfold pickBest
  rw [keyless]

theorem pickBest_first (e : α) (p : P) (keyed : key e = some p) : pickBest key better none e = some (e, p) := by
  unfold pickBest
  rw [keyed]

theorem pickBest_next (k e : α) (p q : P) (keyed : key e = some p) :
    pickBest key better (some (k, q)) e = if better p q then some (e, p) else some (k, q) := by
  unfold pickBest
  rw [keyed]

/-- A best entry stays best over entries that are not better. -/
theorem foldl_pickBest_stays (l : List α) (k : α) (q : P) (worse : ∀ e ∈ l, ∀ p, key e = some p → better p q = false) :
    l.foldl (pickBest key better) (some (k, q)) = some (k, q) := by
  induction l with
  | nil => rfl
  | cons e l ih =>
    have still : pickBest key better (some (k, q)) e = some (k, q) := by
      cases keyed : key e with
      | none => exact pickBest_keyless key better _ e keyed
      | some p =>
        rw [pickBest_next key better k e p q keyed]
        exact if_neg (ne_true_of_eq_false (worse e List.mem_cons_self p keyed))
    rw [List.foldl_cons, still]
    exact ih fun e mem => worse e (List.mem_cons_of_mem _ mem)

/-- The best entry is one of the list, with its key. -/
theorem foldl_pickBest_mem (l : List α) (e : α) (p : P) (best : l.foldl (pickBest key better) none = some (e, p)) :
    e ∈ l ∧ key e = some p := by
  induction l using List.reverseRecOn generalizing e p with
  | nil => exact absurd best nofun
  | append_singleton l k ih =>
    rw [List.foldl_append, List.foldl_cons, List.foldl_nil] at best
    have earlier (h : l.foldl (pickBest key better) none = some (e, p)) : e ∈ l ++ [k] ∧ key e = some p :=
      ⟨List.mem_append_left _ (ih e p h).1, (ih e p h).2⟩
    cases keyed : key k with
    | none => exact earlier ((pickBest_keyless key better _ k keyed).symm.trans best)
    | some q =>
      have last (h : some (k, q) = some (e, p)) : e ∈ l ++ [k] ∧ key e = some p := by
        cases h
        exact ⟨by simp, keyed⟩
      cases before : l.foldl (pickBest key better) none with
      | none =>
        rw [before, pickBest_first key better k q keyed] at best
        exact last best
      | some x =>
        rw [before, pickBest_next key better x.1 k q x.2 keyed] at best
        split at best
        · exact last best
        · exact earlier (before.trans best)

theorem foldl_pickBest_none (l : List α) : l.foldl (pickBest key better) none = none ↔ ∀ e ∈ l, key e = none := by
  induction l using List.reverseRecOn with
  | nil => exact ⟨fun _ => nofun, fun _ => rfl⟩
  | append_singleton l k ih =>
    rw [List.foldl_append, List.foldl_cons, List.foldl_nil]
    cases keyed : key k with
    | none =>
      rw [pickBest_keyless key better _ k keyed, ih]
      simp [or_imp, forall_and, keyed]
    | some q =>
      refine ⟨fun bare => ?_, fun bare => absurd (bare k (by simp)) (by rw [keyed]; exact nofun)⟩
      cases before : l.foldl (pickBest key better) none with
      | none =>
        rw [before, pickBest_first key better k q keyed] at bare
        exact absurd bare nofun
      | some x =>
        rw [before, pickBest_next key better x.1 k q x.2 keyed] at bare
        split at bare
        · exact absurd bare nofun
        · exact absurd bare nofun

/-- The best entry beats those before it, and none after it beats it. -/
theorem foldl_pickBest_some (chain : ∀ p q r, better p q = true → better q r = true → better p r = true)
    (between : ∀ p q r, better p q = true → better r q = false → better p r = true) (l : List α) (e : α) (p : P) :
    l.foldl (pickBest key better) none = some (e, p) ↔ ∃ a b, l = a ++ e :: b ∧ key e = some p
      ∧ (∀ k ∈ a, ∀ x, key k = some x → better p x = true) ∧ ∀ k ∈ b, ∀ x, key k = some x → better x p = false := by
  constructor
  · intro best
    induction l using List.reverseRecOn generalizing e p with
    | nil => exact absurd best nofun
    | append_singleton l k ih =>
      rw [List.foldl_append, List.foldl_cons, List.foldl_nil] at best
      have earlier (h : l.foldl (pickBest key better) none = some (e, p))
          (worse : ∀ x, key k = some x → better x p = false) : ∃ a b, l ++ [k] = a ++ e :: b ∧ key e = some p
            ∧ (∀ k ∈ a, ∀ x, key k = some x → better p x = true) ∧ ∀ k ∈ b, ∀ x, key k = some x → better x p = false := by
        obtain ⟨a, b, split, keyed, first, after⟩ := ih e p h
        refine ⟨a, b ++ [k], by rw [split]; simp, keyed, first, fun j mem x has => ?_⟩
        obtain mem | rfl := List.mem_append.mp mem |>.imp_right List.mem_singleton.mp
        · exact after j mem x has
        · exact worse x has
      have last (keyed : key k = some p) (beats : ∀ j ∈ l, ∀ x, key j = some x → better p x = true) :
          ∃ a b, l ++ [k] = a ++ k :: b ∧ key k = some p
            ∧ (∀ k ∈ a, ∀ x, key k = some x → better p x = true) ∧ ∀ k ∈ b, ∀ x, key k = some x → better x p = false :=
        ⟨l, [], rfl, keyed, beats, nofun⟩
      cases keyed : key k with
      | none => exact earlier ((pickBest_keyless key better _ k keyed).symm.trans best) fun x has => absurd (keyed.symm.trans has) nofun
      | some q =>
        cases before : l.foldl (pickBest key better) none with
        | none =>
          rw [before, pickBest_first key better k q keyed] at best
          cases best
          exact last keyed fun j mem x has =>
            absurd (((foldl_pickBest_none key better l).mp before j mem).symm.trans has) nofun
        | some y =>
          rw [before, pickBest_next key better y.1 k q y.2 keyed] at best
          cases beats : better q y.2 with
          | true =>
            rw [if_pos beats] at best
            cases best
            obtain ⟨a, b, split, own, first, after⟩ := ih y.1 y.2 before
            refine last keyed fun j mem x has => ?_
            rw [split] at mem
            obtain mem | mem := List.mem_append.mp mem
            · exact chain _ _ _ beats (first j mem x has)
            · obtain rfl | mem := List.mem_cons.mp mem
              · exact (Option.some.inj (own.symm.trans has)) ▸ beats
              · exact between _ _ _ beats (after j mem x has)
          | false =>
            rw [if_neg (ne_true_of_eq_false beats)] at best
            cases best
            exact earlier before fun x has => (Option.some.inj (keyed.symm.trans has)) ▸ beats
  · rintro ⟨a, b, rfl, keyed, first, after⟩
    rw [List.foldl_append, List.foldl_cons]
    have begins : pickBest key better (a.foldl (pickBest key better) none) e = some (e, p) := by
      cases before : a.foldl (pickBest key better) none with
      | none => exact pickBest_first key better e p keyed
      | some y =>
        obtain ⟨mem, own⟩ := foldl_pickBest_mem key better a y.1 y.2 before
        rw [show y = (y.1, y.2) from rfl, pickBest_next key better y.1 e p y.2 keyed]
        exact if_pos (first y.1 mem y.2 own)
    rw [begins]
    exact foldl_pickBest_stays key better b e p after
end

/-! ### The owner chosen for a zone -/

theorem Call.wants_iff (c : Call) (z : Fin 12) : c.wants z = true ↔
    (∃ w, c.marks.at z = .pending w) ∨ ∃ w, c.marks.at z = .playing w := by
  unfold Call.wants
  cases c.marks.at z with
  | none => simp
  | done => simp
  | pending w => simp
  | playing w => simp

/-- An entry whose call wants a zone, with the call's priority (R152). -/
def State.wantsWith (s : State) (z : Fin 12) (k : Fin 16) (p : Priority) : Prop := ∃ c, s.cl.calls.at k = some c
  ∧ c.priority = p ∧ ((∃ w, c.marks.at z = .pending w) ∨ ∃ w, c.marks.at z = .playing w)

/-- The priority code an entry bids for a zone with. -/
def CallList.bid (cl : CallList) (z : Fin 12) (k : Fin 16) : Option Nat :=
  (cl.calls.at k).bind fun c => if c.wants z then some c.priority.code else none

theorem CallList.choose_eq (cl : CallList) (z : Fin 12) :
    cl.choose z = (cl.order.foldl (pickBest (cl.bid z) fun p q => decide (p < q)) none).map Prod.fst := by
  unfold CallList.choose
  congr 2
  funext best e
  unfold pickBest CallList.bid
  cases cl.calls.at e with
  | none => rfl
  | some c =>
    dsimp only [Option.bind_some]
    cases c.wants z with
    | false => rfl
    | true =>
      cases best with
      | none => rfl
      | some x => simp

theorem State.bid_iff (s : State) (z : Fin 12) (k : Fin 16) (n : Nat) :
    s.cl.bid z k = some n ↔ ∃ p, s.wantsWith z k p ∧ p.code = n := by
  unfold CallList.bid
  constructor
  · intro bids
    obtain ⟨c, present, priced⟩ := Option.bind_eq_some_iff.mp bids
    split at priced
    · next wants => exact ⟨c.priority, ⟨c, present, rfl, (c.wants_iff z).mp wants⟩, Option.some.inj priced⟩
    · exact absurd priced nofun
  · rintro ⟨p, ⟨c, present, rfl, wants⟩, rfl⟩
    rw [present, Option.bind_some, if_pos ((c.wants_iff z).mpr wants)]

theorem State.bid_none (s : State) (z : Fin 12) (k : Fin 16) : s.cl.bid z k = none ↔ ∀ p, ¬ s.wantsWith z k p := by
  rw [Option.eq_none_iff_forall_ne_some]
  exact ⟨fun free p wants => free _ ((s.bid_iff z k _).mpr ⟨p, wants, rfl⟩), fun free n bids =>
    ((s.bid_iff z k n).mp bids).elim fun p h => free p h.1⟩

theorem State.choose_none (s : State) (z : Fin 12) :
    s.cl.choose z = none ↔ ∀ k ∈ s.cl.order, ∀ p, ¬ s.wantsWith z k p := by
  rw [CallList.choose_eq, Option.map_eq_none_iff, foldl_pickBest_none]
  exact forall₂_congr fun k _ => s.bid_none z k

theorem State.choose_some (s : State) (z : Fin 12) (e : Fin 16) : s.cl.choose z = some e ↔
    ∃ a b p, s.cl.order = a ++ e :: b ∧ s.wantsWith z e p
      ∧ (∀ k ∈ a, ∀ x, s.wantsWith z k x → p.code < x.code) ∧ ∀ k ∈ b, ∀ x, s.wantsWith z k x → p.code ≤ x.code := by
  have best (n : Nat) := foldl_pickBest_some (s.cl.bid z) (fun p q : Nat => decide (p < q))
    (fun p q r h k => decide_eq_true (Nat.lt_trans (of_decide_eq_true h) (of_decide_eq_true k)))
    (fun p q r h k => decide_eq_true (Nat.lt_of_lt_of_le (of_decide_eq_true h) (Nat.le_of_not_lt (of_decide_eq_false k))))
    s.cl.order e n
  rw [CallList.choose_eq, Option.map_eq_some_iff]
  constructor
  · rintro ⟨⟨k, n⟩, chosen, rfl⟩
    obtain ⟨a, b, order, bids, first, after⟩ := (best n).mp chosen
    obtain ⟨p, wants, rfl⟩ := (s.bid_iff z _ n).mp bids
    exact ⟨a, b, p, order, wants,
      fun k mem x has => of_decide_eq_true (first k mem _ ((s.bid_iff z k _).mpr ⟨x, has, rfl⟩)),
      fun k mem x has => Nat.le_of_not_lt (of_decide_eq_false (after k mem _ ((s.bid_iff z k _).mpr ⟨x, has, rfl⟩)))⟩
  · rintro ⟨a, b, p, order, wants, first, after⟩
    refine ⟨(e, p.code), (best p.code).mpr ⟨a, b, order, (s.bid_iff z e _).mpr ⟨p, wants, rfl⟩, fun k mem n bids => ?_,
      fun k mem n bids => ?_⟩, rfl⟩
    · obtain ⟨x, has, rfl⟩ := (s.bid_iff z k n).mp bids
      exact decide_eq_true (first k mem x has)
    · obtain ⟨x, has, rfl⟩ := (s.bid_iff z k n).mp bids
      exact decide_eq_false (Nat.not_lt.mpr (after k mem x has))

/-! ### The call evicted -/

/-- A general entry, with its call's priority (R150). -/
def State.generalWith (s : State) (k : Fin 16) (p : Priority) : Prop :=
  7 ≤ k.val ∧ ∃ c, s.cl.calls.at k = some c ∧ c.priority = p

/-- The priority of a general entry. -/
def State.generalPriority (s : State) (k : Fin 16) : Option Priority :=
  if 7 ≤ k.val then (s.cl.calls.at k).map Call.priority else none

theorem State.generalPriority_iff (s : State) (k : Fin 16) (p : Priority) :
    s.generalPriority k = some p ↔ s.generalWith k p := by
  unfold State.generalPriority State.generalWith
  by_cases general : 7 ≤ k.val
  · rw [if_pos general, Option.map_eq_some_iff]
    exact ⟨fun h => ⟨general, h⟩, fun h => h.2⟩
  · rw [if_neg general]
    exact ⟨nofun, fun h => absurd h.1 general⟩

theorem State.victim_eq (s : State) : s.victim =
    s.cl.order.foldl (pickBest s.generalPriority fun p q => decide (q.code ≤ p.code)) none := by
  unfold State.victim
  congr 1
  funext best e
  unfold pickBest State.generalPriority
  by_cases general : 7 ≤ e.val
  · rw [if_pos general, if_pos general]
    cases s.cl.calls.at e with
    | none => rfl
    | some c =>
      cases best with
      | none => rfl
      | some x => simp
  · rw [if_neg general, if_neg general]

theorem State.victim_none (s : State) : s.victim = none ↔ ∀ k ∈ s.cl.order, ∀ p, ¬ s.generalWith k p := by
  rw [State.victim_eq, foldl_pickBest_none]
  refine forall₂_congr fun k _ => ?_
  rw [Option.eq_none_iff_forall_ne_some]
  exact forall_congr' fun p => not_congr (s.generalPriority_iff k p)

theorem State.victim_some (s : State) (e : Fin 16) (p : Priority) : s.victim = some (e, p) ↔
    ∃ a b, s.cl.order = a ++ e :: b ∧ s.generalWith e p
      ∧ (∀ k ∈ a, ∀ x, s.generalWith k x → x.code ≤ p.code) ∧ ∀ k ∈ b, ∀ x, s.generalWith k x → x.code < p.code := by
  rw [State.victim_eq, foldl_pickBest_some s.generalPriority (fun p q : Priority => decide (q.code ≤ p.code))
    (fun p q r h k => decide_eq_true (Nat.le_trans (of_decide_eq_true k) (of_decide_eq_true h)))
    (fun p q r h k => decide_eq_true (Nat.le_of_lt (Nat.lt_of_lt_of_le (Nat.lt_of_not_le (of_decide_eq_false k)) (of_decide_eq_true h))))]
  refine exists₂_congr fun a b => and_congr_right fun _ => and_congr (s.generalPriority_iff e p) (and_congr ?_ ?_)
  · refine forall₂_congr fun k _ => forall_congr' fun x => ?_
    rw [s.generalPriority_iff k x, decide_eq_true_iff]
  · refine forall₂_congr fun k _ => forall_congr' fun x => ?_
    rw [s.generalPriority_iff k x, decide_eq_false_iff_not, Nat.not_le]

end Sys2Proof.Machine
end

section
/-! SUPPORT. The zones' entries and the readiness of calls (R152, R156). -/

namespace Sys2Proof.Machine

open Sys2Proof

theorem allEntries_eq : allEntries = List.finRange 16 := by decide

/-! ### Entries 12 to 23 -/

/-- The priority of a zone's owner, 255 for none (R152). -/
def State.ownerCode (s : State) (z : Fin 12) : Byte :=
  ((s.ownerCall z).map fun x => BitVec.ofNat 8 x.2.priority.code).getD 255

/-- A zone's entry written. -/
def State.writeOwner (s : State) (z : Fin 12) : State := s.writeLocal (zoneEntry z) (s.ownerCode z)

theorem State.writeOwners_eq (s : State) : s.writeOwners = allZones.foldl State.writeOwner s := by
  unfold State.writeOwners
  congr 1
  funext t z
  unfold State.writeOwner State.ownerCode
  cases t.ownerCall z with
  | none => rfl
  | some x => rfl

/-- The event of a zone's entry that gets a new value (R20). -/
def ownerEvent (z : Fin 12) (old new : Byte) : Task := .imageChange ⟨12 + z.val, by omega⟩ old new

/-- The local entries and the events replaced, nothing else. -/
def State.withLocals (s : State) (locals : Tab Byte 32) (agenda : List Task) : State :=
  { s with img := { s.img with locals := locals }, agenda := agenda }

theorem State.writeOwner_withLocals (s : State) (locals : Tab Byte 32) (agenda : List Task) (z : Fin 12) :
    (s.withLocals locals agenda).writeOwner z = s.withLocals (locals.put (zoneEntry z) (s.ownerCode z))
      (agenda ++ if s.ownerCode z ≠ locals.at (zoneEntry z)
        then [ownerEvent z (locals.at (zoneEntry z)) (s.ownerCode z)] else []) := by
  have wrote := (s.withLocals locals agenda).writeLocal_locals (zoneEntry z) (s.ownerCode z)
  change State.writeLocal (s.withLocals locals agenda) (zoneEntry z) (s.ownerCode z) = _
  by_cases same : locals.at (zoneEntry z) = s.ownerCode z
  · rw [State.writeLocal_same _ _ _ same] at wrote ⊢
    rw [if_neg (not_not.mpr same.symm), List.append_nil]
    exact congrArg (s.withLocals · agenda) wrote
  · rw [State.writeLocal_other _ _ _ same, if_pos (Ne.symm same)]
    rfl

/-- The zones' entries written. -/
def State.ownerLocals (s : State) (l : List (Fin 12)) (locals : Tab Byte 32) : Tab Byte 32 :=
  l.foldl (fun t z => t.put (zoneEntry z) (s.ownerCode z)) locals

/-- The events of the zones' entries whose value changes. -/
def State.ownerEvents (s : State) (l : List (Fin 12)) (locals : Tab Byte 32) : List Task :=
  (l.filter fun z => decide (s.ownerCode z ≠ locals.at (zoneEntry z))).map fun z =>
    ownerEvent z (locals.at (zoneEntry z)) (s.ownerCode z)

theorem zoneEntry_ne {y z : Fin 12} (other : y ≠ z) : zoneEntry y ≠ zoneEntry z := fun same =>
  other (Fin.ext (Nat.add_left_cancel (congrArg Fin.val same)))

theorem State.ownerEvents_put (s : State) (l : List (Fin 12)) (locals : Tab Byte 32) (z : Fin 12) (v : Byte) (fresh : z ∉ l) :
    s.ownerEvents l (locals.put (zoneEntry z) v) = s.ownerEvents l locals := by
  have other (y : Fin 12) (mem : y ∈ l) : (locals.put (zoneEntry z) v).at (zoneEntry y) = locals.at (zoneEntry y) :=
    Tab.at_put_ne _ _ (zoneEntry_ne fun same => fresh (same ▸ mem))
  unfold State.ownerEvents
  rw [List.filter_congr fun y mem => by rw [other y mem]]
  exact List.map_congr_left fun y mem => by rw [other y (List.mem_filter.mp mem).1]

theorem State.foldl_writeOwner (l : List (Fin 12)) (once : l.Nodup) (s : State) (locals : Tab Byte 32) (agenda : List Task) :
    l.foldl State.writeOwner (s.withLocals locals agenda)
      = s.withLocals (s.ownerLocals l locals) (agenda ++ s.ownerEvents l locals) := by
  induction l generalizing locals agenda with
  | nil => rw [State.ownerEvents, List.filter_nil, List.map_nil, List.append_nil]; rfl
  | cons z l ih =>
    obtain ⟨fresh, rest⟩ := List.nodup_cons.mp once
    rw [List.foldl_cons, State.writeOwner_withLocals, ih rest, s.ownerEvents_put l locals z _ fresh, List.append_assoc]
    refine congrArg (s.withLocals _) (congrArg (agenda ++ ·) ?_)
    unfold State.ownerEvents
    by_cases changes : s.ownerCode z ≠ locals.at (zoneEntry z)
    · rw [if_pos changes, List.filter_cons_of_pos (by simpa using changes)]
      rfl
    · rw [if_neg changes, List.filter_cons_of_neg (by simpa using changes)]
      rfl

theorem State.writeOwners_frame (s : State) :
    s.writeOwners = s.withLocals (s.ownerLocals allZones s.img.locals) (s.agenda ++ s.ownerEvents allZones s.img.locals) := by
  rw [State.writeOwners_eq]
  exact State.foldl_writeOwner allZones (by decide) s s.img.locals s.agenda

theorem State.ownerLocals_zone (s : State) (l : List (Fin 12)) (locals : Tab Byte 32) (z : Fin 12) :
    (s.ownerLocals l locals).at (zoneEntry z) = if z ∈ l then s.ownerCode z else locals.at (zoneEntry z) := by
  unfold State.ownerLocals
  induction l generalizing locals with
  | nil => simp
  | cons y l ih =>
    rw [List.foldl_cons, ih]
    by_cases mem : z ∈ l
    · rw [if_pos mem, if_pos (List.mem_cons_of_mem y mem)]
    · rw [if_neg mem]
      by_cases same : y = z
      · subst same
        rw [Tab.at_put_self, if_pos List.mem_cons_self]
      · rw [Tab.at_put_ne _ _ (zoneEntry_ne same), if_neg fun h => (List.mem_cons.mp h).elim (Ne.symm same) mem]

theorem State.writeOwners_zone (s : State) (z : Fin 12) : s.writeOwners.img.locals.at (zoneEntry z) = s.ownerCode z := by
  have listed : z ∈ allZones := by
    rw [allZones_eq]
    exact List.mem_finRange z
  rw [s.writeOwners_frame]
  exact (s.ownerLocals_zone allZones s.img.locals z).trans (if_pos listed)

theorem State.writeOwners_other (s : State) (i : Fin 32) (other : i.val < 12 ∨ 23 < i.val) :
    s.writeOwners.img.locals.at i = s.img.locals.at i := by
  have apart (z : Fin 12) : zoneEntry z ≠ i := fun same => by
    have index : 12 + z.val = i.val := congrArg Fin.val same
    omega
  rw [State.writeOwners_eq]
  exact foldl_keeps (fun t : State => t.img.locals.at i) _
    (fun t z => by
      show (State.writeLocal t (zoneEntry z) (t.ownerCode z)).img.locals.at i = _
      rw [State.writeLocal_locals, Tab.at_put_ne _ _ (apart z)]) allZones s

/-! ### Readiness -/

/-- An entry that becomes ready now: every zone of its set is its own, or has been played (R156). -/
def State.becomesReady (s : State) (e : Fin 16) (c : Call) : Prop := c.ready = none ∧ ∀ z : Fin 12,
  c.zones.getLsbD z.val = true → (s.cl.zones.at z).owner = some e ∨ c.marks.at z = .done

theorem State.becomesReady_iff (s : State) (e : Fin 16) (c : Call) :
    (c.ready.isNone && s.entryReady e c) = true ↔ s.becomesReady e c := by
  unfold State.becomesReady State.entryReady
  rw [Bool.and_eq_true, Option.isNone_iff_eq_none, allZones_eq, List.all_eq_true]
  refine and_congr_right fun _ => ⟨fun all z inSet => ?_, fun all z _ => ?_⟩
  · have one := all z (List.mem_finRange z)
    rw [inSet] at one
    simpa using one
  · cases inSet : c.zones.getLsbD z.val with
    | false => rfl
    | true => simpa [inSet] using all z inSet

/-- One entry tested for readiness (R156). -/
def State.testEntry (s : State) (e : Fin 16) : State :=
  match s.cl.calls.at e with
  | none => s
  | some c => if c.ready.isNone && s.entryReady e c then s.makeReady e c else s

theorem State.testReady_eq (s : State) : s.testReady = allEntries.foldl State.testEntry s := rfl

/-- What the test makes of an entry (R156). -/
def State.readied (s : State) (e : Fin 16) (call : Option Call) : Option Call :=
  call.map fun c => if c.ready.isNone && s.entryReady e c then { c with ready := some s.now, wait := none } else c

/-- The calls and the events replaced, nothing else. -/
def State.relisted (s : State) (calls : Tab (Option Call) 16) (agenda : List Task) : State :=
  { s with cl := { s.cl with calls := calls }, agenda := agenda }

theorem State.readied_ready (s : State) (e : Fin 16) (c : Call) (ready : s.becomesReady e c) :
    s.readied e (some c) = some { c with ready := some s.now, wait := none } :=
  congrArg some (if_pos ((s.becomesReady_iff e c).mpr ready))

theorem State.readied_still (s : State) (e : Fin 16) (c : Call) (still : ¬ s.becomesReady e c) :
    s.readied e (some c) = some c := congrArg some (if_neg (mt (s.becomesReady_iff e c).mp still))

theorem Tab.put_at {α : Type} {n : Nat} (t : Tab α n) (i : Fin n) : t.put i (t.at i) = t := Vector.set_getElem_self i.isLt

theorem State.testEntry_relisted (s : State) (calls : Tab (Option Call) 16) (agenda : List Task) (e : Fin 16) :
    (s.relisted calls agenda).testEntry e = s.relisted (calls.put e (s.readied e (calls.at e)))
      (agenda ++ if e.val ≤ 6 ∧ s.readied e (calls.at e) ≠ calls.at e then [.callReady e] else []) := by
  have still (same : s.readied e (calls.at e) = calls.at e) (idle : (s.relisted calls agenda).testEntry e = s.relisted calls agenda) :
      (s.relisted calls agenda).testEntry e = s.relisted (calls.put e (s.readied e (calls.at e)))
        (agenda ++ if e.val ≤ 6 ∧ s.readied e (calls.at e) ≠ calls.at e then [.callReady e] else []) := by
    rw [same, Tab.put_at, if_neg fun h => h.2 rfl, List.append_nil]
    exact idle
  cases call : calls.at e with
  | none =>
    rw [call] at still
    refine still rfl ?_
    unfold State.testEntry
    rw [show (s.relisted calls agenda).cl.calls.at e = none from call]
  | some c =>
    rw [call] at still
    have entry : (s.relisted calls agenda).testEntry e =
        if c.ready.isNone && s.entryReady e c then (s.relisted calls agenda).makeReady e c else s.relisted calls agenda := by
      unfold State.testEntry
      rw [show (s.relisted calls agenda).cl.calls.at e = some c from call]
      rfl
    by_cases ready : s.becomesReady e c
    · have moved : ({ c with ready := some s.now, wait := none } : Call) ≠ c := fun same =>
        absurd ((congrArg Call.ready same).trans ready.1) nofun
      rw [entry, if_pos ((s.becomesReady_iff e c).mpr ready), s.readied_ready e c ready, State.makeReady_eq]
      by_cases reserved : e.val ≤ 6
      · rw [if_pos ⟨reserved, fun same => moved (Option.some.inj same)⟩, State.madeReady, if_pos reserved]
        rfl
      · rw [if_neg fun h => reserved h.1, List.append_nil, State.madeReady, if_neg reserved]
        rfl
    · exact still (s.readied_still e c ready) (entry.trans (if_neg (mt (s.becomesReady_iff e c).mp ready)))

/-- The calls after some entries were tested. -/
def State.readiedCalls (s : State) (l : List (Fin 16)) (calls : Tab (Option Call) 16) : Tab (Option Call) 16 :=
  l.foldl (fun t e => t.put e (s.readied e (t.at e))) calls

/-- The events of the reserved entries that become ready (R156). -/
def State.readyEvents (s : State) (l : List (Fin 16)) (calls : Tab (Option Call) 16) : List Task :=
  (l.filter fun e => decide (e.val ≤ 6 ∧ s.readied e (calls.at e) ≠ calls.at e)).map .callReady

theorem State.readyEvents_put (s : State) (l : List (Fin 16)) (calls : Tab (Option Call) 16) (e : Fin 16) (x : Option Call)
    (fresh : e ∉ l) : s.readyEvents l (calls.put e x) = s.readyEvents l calls := by
  unfold State.readyEvents
  rw [List.filter_congr fun k mem => by rw [Tab.at_put_ne calls x fun same : e = k => fresh (same ▸ mem)]]

theorem State.foldl_testEntry (l : List (Fin 16)) (once : l.Nodup) (s : State) (calls : Tab (Option Call) 16) (agenda : List Task) :
    l.foldl State.testEntry (s.relisted calls agenda)
      = s.relisted (s.readiedCalls l calls) (agenda ++ s.readyEvents l calls) := by
  induction l generalizing calls agenda with
  | nil => rw [State.readyEvents, List.filter_nil, List.map_nil, List.append_nil]; rfl
  | cons e l ih =>
    obtain ⟨fresh, rest⟩ := List.nodup_cons.mp once
    rw [List.foldl_cons, State.testEntry_relisted, ih rest, s.readyEvents_put l calls e _ fresh, List.append_assoc]
    refine congrArg (s.relisted _) (congrArg (agenda ++ ·) ?_)
    unfold State.readyEvents
    by_cases tells : e.val ≤ 6 ∧ s.readied e (calls.at e) ≠ calls.at e
    · rw [if_pos tells, List.filter_cons_of_pos (by rw [decide_eq_true_iff]; exact tells)]
      rfl
    · rw [if_neg tells, List.filter_cons_of_neg (by rw [decide_eq_true_iff]; exact tells)]
      rfl

theorem State.testReady_frame (s : State) :
    s.testReady = s.relisted (s.readiedCalls allEntries s.cl.calls) (s.agenda ++ s.readyEvents allEntries s.cl.calls) := by
  rw [State.testReady_eq]
  exact State.foldl_testEntry allEntries (by decide) s s.cl.calls s.agenda

theorem State.readiedCalls_at (s : State) (l : List (Fin 16)) (once : l.Nodup) (calls : Tab (Option Call) 16) (e : Fin 16) :
    (s.readiedCalls l calls).at e = if e ∈ l then s.readied e (calls.at e) else calls.at e := by
  unfold State.readiedCalls
  induction l generalizing calls with
  | nil => simp
  | cons k l ih =>
    obtain ⟨fresh, rest⟩ := List.nodup_cons.mp once
    rw [List.foldl_cons, ih rest]
    by_cases same : k = e
    · subst same
      rw [if_neg fresh, Tab.at_put_self, if_pos List.mem_cons_self]
    · rw [Tab.at_put_ne _ _ same]
      exact if_congr (by simp [Ne.symm same]) rfl rfl

theorem State.testReady_entry (s : State) (e : Fin 16) : s.testReady.cl.calls.at e = s.readied e (s.cl.calls.at e) := by
  have listed : e ∈ allEntries := by
    rw [allEntries_eq]
    exact List.mem_finRange e
  rw [s.testReady_frame]
  exact (s.readiedCalls_at allEntries (by decide) s.cl.calls e).trans (if_pos listed)

/-- The zones' entries and the readiness, as the call list's statement says them (R152, R156). -/
theorem State.writeOwners_testReady (s : State) :
    let w := s.writeOwners
    let t := s.testReady
    (∀ z : Fin 12, w.img.locals.at ⟨12 + z.val, by omega⟩
        = ((s.ownerCall z).map fun x => BitVec.ofNat 8 x.2.priority.code).getD 255)
      ∧ (∀ i : Fin 32, i.val < 12 ∨ 23 < i.val → w.img.locals.at i = s.img.locals.at i)
      ∧ w = { s with img := { s.img with locals := w.img.locals }
                     agenda := s.agenda ++ ((List.finRange 12).filter fun z => decide
                        (w.img.locals.at ⟨12 + z.val, by omega⟩ ≠ s.img.locals.at ⟨12 + z.val, by omega⟩)).map
                        fun z => .imageChange ⟨12 + z.val, by omega⟩
                          (s.img.locals.at ⟨12 + z.val, by omega⟩) (w.img.locals.at ⟨12 + z.val, by omega⟩) }
      ∧ (∀ e, s.cl.calls.at e = none → t.cl.calls.at e = none)
      ∧ (∀ e c, s.cl.calls.at e = some c →
          (s.becomesReady e c → t.cl.calls.at e = some { c with ready := some s.now, wait := none })
          ∧ (¬ s.becomesReady e c → t.cl.calls.at e = some c))
      ∧ t = { s with cl := { s.cl with calls := t.cl.calls }
                     agenda := s.agenda ++ ((List.finRange 16).filter fun e => decide
                        (e.val ≤ 6 ∧ t.cl.calls.at e ≠ s.cl.calls.at e)).map .callReady } := by
  have zone := s.writeOwners_zone
  have other := s.writeOwners_other
  have entry := s.testReady_entry
  have wrote : s.writeOwners = { s with
      img := { s.img with locals := s.writeOwners.img.locals }
      agenda := s.agenda ++ s.ownerEvents allZones s.img.locals } := by
    rw [s.writeOwners_frame]
    rfl
  have told : s.testReady = { s with
      cl := { s.cl with calls := s.testReady.cl.calls }
      agenda := s.agenda ++ s.readyEvents allEntries s.cl.calls } := by
    rw [s.testReady_frame]
    rfl
  generalize s.writeOwners = w at zone other wrote ⊢
  generalize s.testReady = t at entry told ⊢
  have owners : s.ownerEvents allZones s.img.locals = ((List.finRange 12).filter fun z => decide
      (w.img.locals.at (zoneEntry z) ≠ s.img.locals.at (zoneEntry z))).map fun z =>
        ownerEvent z (s.img.locals.at (zoneEntry z)) (w.img.locals.at (zoneEntry z)) := by
    unfold State.ownerEvents
    rw [allZones_eq]
    simp only [zone]
  have readied : s.readyEvents allEntries s.cl.calls = ((List.finRange 16).filter fun e => decide
      (e.val ≤ 6 ∧ t.cl.calls.at e ≠ s.cl.calls.at e)).map .callReady := by
    unfold State.readyEvents
    rw [allEntries_eq]
    simp only [entry]
  rw [owners] at wrote
  rw [readied] at told
  intro w' t'
  refine ⟨zone, other, wrote, fun e absent => ?_, fun e c present => ⟨fun ready => ?_, fun still => ?_⟩, told⟩
  · rw [entry, absent]
    rfl
  · rw [entry, present]
    exact s.readied_ready e c ready
  · rw [entry, present]
    exact s.readied_still e c still

end Sys2Proof.Machine
end

section
/-! SUPPORT. Calls placed, refreshed, removed and finished (R147 to R152, R157). -/

namespace Sys2Proof.Machine

open Sys2Proof

/-! ### Entries taken out -/

theorem Tab.ext_at {α : Type} {n : Nat} {t u : Tab α n} (same : ∀ i, t.at i = u.at i) : t = u :=
  Vector.ext fun i lt => same ⟨i, lt⟩

/-- The call list without some entries. -/
def CallList.without (cl : CallList) (l : List (Fin 16)) : CallList :=
  { cl with
    calls := Tab.make fun k => if k ∈ l then none else cl.calls.at k
    order := cl.order.filter fun k => !l.contains k }

theorem CallList.remove_eq (cl : CallList) (l : List (Fin 16)) : cl.remove l = cl.without l := by
  have calls : (cl.remove l).calls = (cl.without l).calls := by
    refine Tab.ext_at fun k => ?_
    rw [show (cl.without l).calls.at k = if k ∈ l then none else cl.calls.at k from Tab.at_make _ k]
    by_cases mem : k ∈ l
    · rw [if_pos mem, cl.remove_none l k (.inl mem)]
    · rw [if_neg mem, cl.remove_other l k mem]
  exact congrArg (fun c => ({ cl.without l with calls := c } : CallList)) calls

/-- The entry that a placement replaces (R147). -/
def CallList.replaced (cl : CallList) (e : Fin 16) : List (Fin 16) := if (cl.calls.at e).isSome then [e] else []

/-- The call list with an entry placed last in the order (R147). -/
def CallList.placed (cl : CallList) (e : Fin 16) (c : Call) : CallList :=
  { cl.without (cl.replaced e) with
    calls := (cl.without (cl.replaced e)).calls.put e (some c)
    order := (cl.without (cl.replaced e)).order ++ [e] }

theorem State.placeEntry_placed (s : State) (e : Fin 16) (c : Call) :
    s.placeEntry e c = State.reallocate { s with cl := s.cl.placed e c } s.cl (s.cl.replaced e) := by
  unfold State.placeEntry CallList.placed
  rw [← CallList.remove_eq]
  rfl

theorem State.removeEntries_without (s : State) (es : List (Fin 16)) :
    let there := es.filter fun k => (s.cl.calls.at k).isSome
    let t := State.reallocate { s with cl := s.cl.without there } s.cl there
    s.removeEntries es = if 6 ∈ there then { t with agenda := t.agenda ++ [.emergencyCallRemoved] } else t := by
  intro there t
  unfold State.removeEntries
  extract_lets gone before u
  have same : u = t := by
    simp only [u, t, before, gone, there, CallList.remove_eq]
  rw [same]
  exact if_congr List.contains_iff_mem rfl rfl

/-! ### Calls only age -/

/-- Every call that stays is the call it was, further on: its marks, its readiness and its wait may differ. -/
def CallsAge (s t : State) : Prop :=
  ∀ k x, t.cl.calls.at k = some x → ∃ c, s.cl.calls.at k = some c ∧ x.key = c.key

theorem CallsAge.refl (s : State) : CallsAge s s := fun _ x present => ⟨x, present, rfl⟩

theorem CallsAge.trans {s t u : State} (h : CallsAge s t) (k : CallsAge t u) : CallsAge s u := by
  intro e x present
  obtain ⟨y, here, key⟩ := k e x present
  obtain ⟨c, first, key'⟩ := h e y here
  exact ⟨c, first, key.trans key'⟩

theorem CallsAge.same {s t u : State} (h : CallsAge s t) (calls : u.cl.calls = t.cl.calls) : CallsAge s u := by
  unfold CallsAge
  rw [calls]
  exact h

theorem CallsAge.foldl {α : Type} {s : State} (f : State → α → State) (ages : ∀ t x, CallsAge t (f t x)) (l : List α) :
    CallsAge s (l.foldl f s) := by
  induction l generalizing s with
  | nil => exact .refl s
  | cons x l ih => exact (ages s x).trans ih

theorem CallsAge.setMark (s : State) (e : Fin 16) (z : Fin 12) (m : Mark) : CallsAge s (s.setMark e z m) := by
  unfold State.setMark
  split
  · exact .refl s
  · next c present =>
    intro k x has
    by_cases same : e = k
    · subst same
      have placed : (s.setCall e (some (c.setMark z m))).cl.calls.at e = some (c.setMark z m) := Tab.at_put_self _ _ _
      obtain rfl := Option.some.inj (placed.symm.trans has)
      exact ⟨c, present, rfl⟩
    · exact ⟨x, (Tab.at_put_ne s.cl.calls _ same).symm.trans has, rfl⟩

theorem CallsAge.setZone (s : State) (z : Fin 12) (x : Zone) : CallsAge s (s.setZone z x) := (CallsAge.refl s).same rfl

theorem CallsAge.advanceIssue (s : State) (z : Fin 12) : CallsAge s (s.advanceIssue z) := .setZone s z _

theorem CallsAge.buildPlay (s : State) (z : Fin 12) (node : NodeNo) (object : Byte) (c : Call) :
    CallsAge s (s.buildPlay z node object c) := by
  rw [s.buildPlay_eq]
  split
  · exact (CallsAge.refl s).same rfl
  · exact .setZone s z _

theorem CallsAge.buildCut (s : State) (z : Fin 12) (urgent : Bool) : CallsAge s (s.buildCut z urgent) := by
  cases target : s.zoneTarget z with
  | none =>
    rw [s.buildCut_unmapped z urgent target]
    exact .refl s
  | some x =>
    rw [s.buildCut_mapped z urgent x.1 x.2 target, s.cutTo_eq]
    split
    · exact (CallsAge.refl s).same rfl
    · split
      · exact .setZone s z _
      · exact .refl s

theorem CallsAge.playBegun (s : State) (z : Fin 12) (e : Fin 16) (c : Call) : CallsAge s (s.playBegun z e c) := by
  unfold State.playBegun
  split
  · exact (CallsAge.advanceIssue s z).trans (.setMark _ e z _)
  · exact .advanceIssue s z

theorem CallsAge.playOwner (s : State) (z : Fin 12) : CallsAge s (s.playOwner z) := by
  cases owned : s.ownerCall z with
  | none =>
    rw [s.playOwner_free z owned]
    exact .advanceIssue s z
  | some x =>
    cases target : s.zoneTarget z with
    | none =>
      rw [s.playOwner_unfitted z x.1 x.2 owned target]
      exact (CallsAge.advanceIssue s z).trans (.setMark _ _ z _)
    | some y =>
      rw [s.playOwner_fitted z x.1 x.2 y.1 y.2 owned target]
      exact (CallsAge.playBegun s z x.1 x.2).trans (.buildPlay _ z y.1 y.2 x.2)

theorem CallsAge.ownZone (s : State) (z : Fin 12) (new : Option (Fin 16)) : CallsAge s (s.ownZone z new) := .setZone s z _

/-- A zone that stays as it is, or is taken by the chosen entry with the loser cut off or not (R153). -/
theorem CallsAge.recomputeZone (before : CallList) (gone : List (Fin 16)) (s : State) (z : Fin 12) :
    CallsAge s (State.recomputeZone before gone s z) := by
  have taken : CallsAge s ((s.ownZone z (s.cl.choose z)).playOwner z) := (CallsAge.ownZone s z _).trans (.playOwner _ z)
  cases owner : (before.zones.at z).owner with
  | none =>
    by_cases free : s.cl.choose z = none
    · rw [s.recomputeZone_same before gone z (owner.trans free.symm) (by rw [owner]; exact nofun)]
      exact .refl s
    · rw [s.recomputeZone_free before gone z owner free]
      exact taken
  | some e =>
    by_cases moves : some e ≠ s.cl.choose z ∨ e ∈ gone
    · by_cases playing : ∃ c, s.loserOf before gone e = some c ∧ c.isPlaying z = true
      · obtain ⟨c, loser, plays⟩ := playing
        rw [s.recomputeZone_cut before gone z e c owner moves loser plays]
        have marked : CallsAge s (if e ∈ gone then s else s.setMark e z (.pending false)) := by
          split
          · exact .refl s
          · exact .setMark s e z _
        exact ((marked.trans (.ownZone _ z _)).trans (.buildCut _ z _)).trans (.playOwner _ z)
      · rw [s.recomputeZone_silent before gone z e owner moves fun c loser =>
          eq_false_of_ne_true fun plays => playing ⟨c, loser, plays⟩]
        exact taken
    · obtain ⟨same, stays⟩ := not_or.mp moves
      rw [s.recomputeZone_same before gone z (owner.trans (not_not.mp same)) fun k own => by
        rw [owner] at own
        exact Option.some.inj own ▸ stays]
      exact .refl s

theorem CallsAge.testReady (s : State) : CallsAge s s.testReady := by
  intro e x present
  rw [s.testReady_entry] at present
  cases call : s.cl.calls.at e with
  | none =>
    rw [call] at present
    exact absurd present nofun
  | some c =>
    rw [call] at present
    refine ⟨c, rfl, ?_⟩
    by_cases ready : s.becomesReady e c
    · rw [s.readied_ready e c ready] at present
      exact Option.some.inj present ▸ rfl
    · rw [s.readied_still e c ready] at present
      exact Option.some.inj present ▸ rfl

theorem CallsAge.recompute (s : State) (before : CallList) (gone : List (Fin 16)) : CallsAge s (s.recompute before gone) :=
  ((CallsAge.foldl _ (CallsAge.recomputeZone before gone) allZones).same (congrArg CallList.calls (State.writeOwners_cl _))).trans
    (.testReady _)

theorem CallsAge.removed (s : State) (l : List (Fin 16)) : CallsAge s { s with cl := s.cl.remove l } := by
  intro k x present
  by_cases mem : k ∈ l
  · exact absurd ((s.cl.remove_none l k (.inl mem)).symm.trans present) nofun
  · exact ⟨x, (s.cl.remove_other l k mem).symm.trans present, rfl⟩

theorem CallsAge.handleDone (n : Nat) (s : State) : CallsAge s (State.handleDone n s) := by
  induction n generalizing s with
  | zero => exact .refl s
  | succ n ih =>
    unfold State.handleDone
    split
    · exact ((CallsAge.removed s _).trans (.recompute _ _ _)).trans (ih _)
    · exact .refl s

theorem CallsAge.reallocate (s : State) (before : CallList) (gone : List (Fin 16)) : CallsAge s (s.reallocate before gone) := by
  unfold State.reallocate
  generalize 193 = rounds
  exact ((CallsAge.recompute s before gone).trans (.handleDone rounds _)).same
    (congrArg CallList.calls (State.formBeacons_cl _))

/-- A call that is another one further on. -/
theorem Call.key_eq_iff (x c : Call) : x.key = c.key ↔ x = { c with marks := x.marks, ready := x.ready, wait := x.wait } := by
  rw [Call.key_iff]
  constructor
  · rintro ⟨origin, zones, message, priority, reps, pattern⟩
    obtain ⟨⟩ := x
    dsimp only at origin zones message priority reps pattern
    subst origin zones message priority reps pattern
    rfl
  · intro same
    rw [same]
    exact ⟨rfl, rfl, rfl, rfl, rfl, rfl⟩

/-! ### Finished calls -/

theorem CallList.finishedEntries_eq (cl : CallList) : cl.finishedEntries =
    (List.finRange 16).filter fun e => ((cl.calls.at e).map fun c => c.reps != 0 && (List.finRange 12).all fun z =>
      c.marks.at z == .none || c.marks.at z == .done).getD false := by
  unfold CallList.finishedEntries
  rw [allEntries_eq, ← allZones_eq]
  rfl

theorem State.doneToHandle_iff (s : State) : s.doneToHandle = true ↔
    s.cl.finishedEntries ≠ [] ∨ ∃ z e c, s.ownerCall z = some (e, c) ∧ c.marks.at z = .done := by
  unfold State.doneToHandle
  rw [Bool.or_eq_true, Bool.not_eq_true', List.isEmpty_eq_false_iff, allZones_eq, List.any_eq_true]
  refine or_congr_right ?_
  constructor
  · rintro ⟨z, -, done⟩
    split at done
    · exact absurd done nofun
    · next e c owned => exact ⟨z, e, c, owned, beq_iff_eq.mp done⟩
  · rintro ⟨z, e, c, owned, done⟩
    refine ⟨z, List.mem_finRange z, ?_⟩
    rw [owned]
    exact beq_iff_eq.mpr done

theorem State.handleDone_still (n : Nat) (s : State) (still : ¬ s.doneToHandle = true) : State.handleDone (n + 1) s = s := by
  rw [State.handleDone]
  exact if_neg still

theorem State.handleDone_round (n : Nat) (s : State) (more : s.doneToHandle = true) : State.handleDone (n + 1) s =
    State.handleDone n (State.recompute { s with cl := s.cl.remove s.cl.finishedEntries } s.cl s.cl.finishedEntries) := by
  rw [State.handleDone]
  exact if_pos more

end Sys2Proof.Machine
end

section
/-! SUPPORT. PLACE and CANCEL from the bridge (R148 to R151). -/

namespace Sys2Proof.Machine

open Sys2Proof

/-! ### The form of a PLACE -/

theorem Priority.ofCode?_code (p : Priority) : Priority.ofCode? p.code = some p := by
  cases p with
  | emergency | safety | operational | information => rfl

theorem Priority.ofCode?_none (n : Nat) (high : 3 < n) : Priority.ofCode? n = none := by
  unfold Priority.ofCode?
  split
  case h_5 => rfl
  all_goals omega

/-- A PLACE of good form (R149). -/
def goodPlace (z1 z0 msg pri reps pat : Byte) : Prop := 1 ≤ word16 z1 z0 ∧ word16 z1 z0 ≤ 4095 ∧ msg.toNat ≤ 63
  ∧ pri.toNat ≤ 3 ∧ reps.toNat ≤ 15 ∧ pat.toNat ≤ 8

theorem placeForm_good {z1 z0 msg pri reps pat : Byte} (good : goodPlace z1 z0 msg pri reps pat) (p : Priority)
    (code : p.code = pri.toNat) : placeForm [z1, z0, msg, pri, reps, pat] =
      some ⟨zoneSetOf (word16 z1 z0), msg, p, reps.toNat, pat.toNat⟩ := by
  obtain ⟨low, high, message, -, repetitions, pattern⟩ := good
  unfold placeForm
  dsimp only
  rw [← code, p.ofCode?_code]
  exact if_pos ⟨by omega, by omega, message, repetitions, pattern⟩

theorem placeForm_bad {z1 z0 msg pri reps pat : Byte} (bad : ¬ goodPlace z1 z0 msg pri reps pat) :
    placeForm [z1, z0, msg, pri, reps, pat] = none := by
  unfold placeForm
  dsimp only
  by_cases known : pri.toNat ≤ 3
  · split
    · rfl
    · rw [if_neg]
      rintro ⟨some, small, message, repetitions, pattern⟩
      exact bad ⟨by omega, by omega, message, known, repetitions, pattern⟩
  · rw [Priority.ofCode?_none _ (Nat.lt_of_not_le known)]

/-! ### Searches of the general entries -/

theorem generalEntries_eq : generalEntries = (List.finRange 16).filter fun e => decide (7 ≤ e.val) := by decide

theorem generalEntries_find (f : Fin 16 → Bool) (e : Fin 16) (general : 7 ≤ e.val) (meets : f e = true)
    (first : ∀ k, k < e → 7 ≤ k.val → f k ≠ true) : generalEntries.find? f = some e := by
  rw [generalEntries_eq, List.find?_filter, List.find?_eq_some_iff_getElem]
  refine ⟨by simp [general, meets], e.val, by simp, by simp, fun k before => ?_⟩
  have inside : k < 16 := Nat.lt_trans before e.isLt
  have fails := first ⟨k, inside⟩ before
  simpa [imp_iff_not_or] using fails

theorem generalEntries_find_none (f : Fin 16 → Bool) (none : ∀ k : Fin 16, 7 ≤ k.val → f k ≠ true) :
    generalEntries.find? f = Option.none := by
  rw [generalEntries_eq, List.find?_filter, List.find?_eq_none]
  intro k _
  have fails := none k
  simpa [imp_iff_not_or] using fails

/-- A general entry with a source, a zone set and a message (R149). -/
def State.holdsCall (s : State) (src : NodeNo) (p : PlaceReq) (e : Fin 16) : Prop := 7 ≤ e.val ∧ ∃ c,
  s.cl.calls.at e = some c ∧ c.origin = .bridge src ∧ c.zones = p.zones ∧ c.message = p.message

theorem State.sameCall_found (s : State) (src : NodeNo) (p : PlaceReq) (e : Fin 16) (holds : s.holdsCall src p e)
    (first : ∀ k, k < e → ¬ s.holdsCall src p k) : s.sameCall src p = some e := by
  obtain ⟨general, c, present, origin, zones, message⟩ := holds
  refine generalEntries_find _ e general ?_ fun k before general' meets => first k before ⟨general', ?_⟩
  · rw [present]
    simp [origin, zones, message]
  · split at meets
    · exact absurd meets nofun
    · next c present => exact ⟨c, present, by simpa [and_assoc] using meets⟩

theorem State.sameCall_none (s : State) (src : NodeNo) (p : PlaceReq) (none : ∀ k, ¬ s.holdsCall src p k) :
    s.sameCall src p = Option.none := by
  refine generalEntries_find_none _ fun k general meets => none k ⟨general, ?_⟩
  split at meets
  · exact absurd meets nofun
  · next c present => exact ⟨c, present, by simpa [and_assoc] using meets⟩

theorem State.freeEntry_found (s : State) (e : Fin 16) (free : 7 ≤ e.val ∧ s.cl.calls.at e = none)
    (first : ∀ k, k < e → ¬ (7 ≤ k.val ∧ s.cl.calls.at k = none)) : s.freeEntry = some e :=
  generalEntries_find _ e free.1 (Option.isNone_iff_eq_none.mpr free.2) fun k before general absent =>
    first k before ⟨general, Option.isNone_iff_eq_none.mp absent⟩

theorem State.freeEntry_none (s : State) (full : ∀ k : Fin 16, ¬ (7 ≤ k.val ∧ s.cl.calls.at k = none)) :
    s.freeEntry = none :=
  generalEntries_find_none _ fun k general absent => full k ⟨general, Option.isNone_iff_eq_none.mp absent⟩

/-! ### PLACE judged -/

/-- The call a PLACE asks for (R147, R149). -/
def State.askedCall (s : State) (src : NodeNo) (p : PlaceReq) : Call :=
  s.newCall (.bridge src) p.zones p.message p.priority p.reps p.pattern

section
variable (s : State) (src : NodeNo) (payload : List Byte) (p : PlaceReq) (form : placeForm payload = some p)
include form

theorem State.placeCall_same (e : Fin 16) (same : s.sameCall src p = some e) :
    s.placeCall src payload = (s.reply src 16 .done).refreshCall e p := by
  unfold State.placeCall
  rw [form]
  dsimp only
  rw [same]

theorem State.placeCall_free (e : Fin 16) (new : s.sameCall src p = none) (free : s.freeEntry = some e) :
    s.placeCall src payload = (s.reply src 16 .accepted).placeEntry e (s.askedCall src p) := by
  unfold State.placeCall
  rw [form]
  dsimp only
  rw [new]
  dsimp only
  rw [free]
  rfl

theorem State.placeCall_full (new : s.sameCall src p = none) (full : s.freeEntry = none) (none : s.victim = .none) :
    s.placeCall src payload = s.reply src 16 .full := by
  unfold State.placeCall
  rw [form]
  dsimp only
  rw [new]
  dsimp only
  rw [full]
  dsimp only
  rw [none]

theorem State.placeCall_evicts (e : Fin 16) (v : Priority) (new : s.sameCall src p = none) (full : s.freeEntry = none)
    (victim : s.victim = some (e, v)) : s.placeCall src payload = if p.priority.code < v.code
      then ((s.reply src 16 .accepted).raiseFlag .callEvicted).placeEntry e (s.askedCall src p)
      else s.reply src 16 .full := by
  unfold State.placeCall
  rw [form]
  dsimp only
  rw [new]
  dsimp only
  rw [full]
  dsimp only
  rw [victim]
  rfl
end

/-! ### CANCEL judged -/

/-- A general entry with a call of a source with a message (R151). -/
def State.cancels (s : State) (src : NodeNo) (msg : Byte) (e : Fin 16) : Bool := decide (7 ≤ e.val)
  && ((s.cl.calls.at e).map fun c => c.origin == .bridge src && c.message == msg).getD false

theorem State.cancelCall_good (s : State) (src : NodeNo) (msg : Byte) (small : msg.toNat ≤ 63) :
    s.cancelCall src [msg] = (s.reply src 16 .done).removeEntries ((List.finRange 16).filter (s.cancels src msg)) := by
  unfold State.cancelCall
  refine (if_neg (Nat.not_lt.mpr small)).trans (congrArg (State.removeEntries _) ?_)
  rw [generalEntries_eq, List.filter_filter]
  refine List.filter_congr fun e _ => ?_
  rw [Bool.and_comm]
  refine congrArg (decide (7 ≤ e.val) && ·) ?_
  cases s.cl.calls.at e with
  | none => rfl
  | some c => rfl

/-! ### A call refreshed -/

/-- The zones that a refreshed entry owned and still owns (R149). -/
def State.zonesKept (s u : State) (e : Fin 16) : List (Fin 12) := (List.finRange 12).filter fun z =>
  decide ((s.cl.zones.at z).owner = some e ∧ u.cl.choose z = some e)

/-- A call placed afresh in its entry (R149). -/
def State.freshened (s : State) (c : Call) (p : PlaceReq) : Call :=
  { c with
    priority := p.priority, reps := p.reps, pattern := p.pattern, ready := none
    wait := s.timerFor s.warnwait, marks := freshMarks c.zones }

theorem State.refreshCall_present (s : State) (e : Fin 16) (p : PlaceReq) (c : Call) (present : s.cl.calls.at e = some c) :
    let u := s.setCall e (some (s.freshened c p))
    s.refreshCall e p = ((s.zonesKept u e).foldl State.playOwner u).reallocate s.cl [] := by
  intro u
  have kept : s.zonesKept u e =
      allZones.filter fun z => (s.cl.zones.at z).owner == some e && u.cl.choose z == some e := by
    unfold State.zonesKept
    rw [← allZones_eq]
    exact List.filter_congr fun z _ => (Bool.decide_and _ _).trans (by rw [beq_eq_decide, beq_eq_decide])
  rw [kept]
  unfold State.refreshCall
  rw [present]
  rfl

end Sys2Proof.Machine
end

section
/-! SUPPORT. The call list's requests and allocation, judged (R147 to R157). -/

namespace Sys2Proof.Machine

open Sys2Proof

/-! ### Requests -/

theorem State.placeCall_runs (s : State) (q : Request) (settled : Settled s) (t : State)
    (ends : s.placeCall q.source q.payload = t) : exec (.place q) s = .next t.settled :=
  s.actRequest_own _ (fun s => s.placeCall q.source q.payload) settled.1 settled.2.2.2.2 ends

theorem State.placeCall_answers (s : State) (q : Request) (c : Result) (settled : Settled s) (room : HasRoom s)
    (ends : s.placeCall q.source q.payload = s.reply q.source 16 c) : exec (.place q) s = .next (s.replied q 16 c) :=
  s.actRequest_replied (fun s => s.placeCall q.source q.payload) q 16 c [] settled room ends

/-- A cancelled call is gone from its entry, and no flag changes (R151). -/
theorem State.cancelCall_runs (s : State) (n : NodeNo) (msg : Byte) (settled : Settled s) (room : HasRoom s)
    (small : msg.toNat ≤ 63) :
    let t := (s.replied ⟨n, [msg]⟩ 16 .done).removeEntries ((List.finRange 16).filter (s.cancels n msg))
    exec (.cancel ⟨n, [msg]⟩) s = .next t.settled ∧ t.fc = s.fc
      ∧ ∀ e, s.cancels n msg e = true → t.cl.calls.at e = none := by
  have ends := s.cancelCall_good n msg small
  rw [s.reply_replied ⟨n, [msg]⟩ 16 .done [] room] at ends
  have fc := s.replied_fc ⟨n, [msg]⟩ 16 .done []
  generalize s.replied ⟨n, [msg]⟩ 16 .done = u at ends fc ⊢
  intro t
  refine ⟨s.actRequest_own _ (fun s => s.cancelCall n [msg]) settled.1 settled.2.2.2.2 ends,
    ((Silent.refl u).removeEntries _).2.trans fc, fun e mine => u.removeEntries_absent _ e ?_⟩
  exact List.mem_filter.mpr ⟨List.mem_finRange e, mine⟩

/-- A PLACE of good form: refreshed, placed, evicting or refused (R149, R150). -/
theorem State.placeCall_judged (s : State) (n : NodeNo) (payload : List Byte) (p : PlaceReq)
    (form : placeForm payload = some p) (settled : Settled s) (room : HasRoom s) :
    let q : Request := ⟨n, payload⟩
    let out := exec (.place q) s
    let u : Result → State := fun c => s.replied q 16 c
    let free : Fin 16 → Prop := fun e => 7 ≤ e.val ∧ s.cl.calls.at e = none
    (∀ e, s.holdsCall n p e → (∀ k, k < e → ¬ s.holdsCall n p k) → out = .next ((u .done).refreshCall e p).settled)
      ∧ ((∀ k, ¬ s.holdsCall n p k) → ∀ e, free e → (∀ k, k < e → ¬ free k) →
          out = .next ((u .accepted).placeEntry e (s.askedCall n p)).settled)
      ∧ ((∀ k, ¬ s.holdsCall n p k) → (∀ k, ¬ free k) → s.victim = none → out = .next (u .full))
      ∧ ((∀ k, ¬ s.holdsCall n p k) → (∀ k, ¬ free k) → ∀ e v, s.victim = some (e, v) →
          (v.code ≤ p.priority.code → out = .next (u .full))
          ∧ (p.priority.code < v.code →
            out = .next (((u .accepted).raiseFlag .callEvicted).placeEntry e (s.askedCall n p)).settled)) := by
  intro q out u free
  have reply (c : Result) : s.reply n 16 c = u c := s.reply_replied q 16 c [] room
  refine ⟨fun e holds first => ?_, fun new e empty first => ?_, fun new full none => ?_, fun new full e v victim => ?_⟩
  · refine s.placeCall_runs q settled _ ?_
    rw [s.placeCall_same n payload p form e (s.sameCall_found n p e holds first), reply]
  · refine s.placeCall_runs q settled _ ?_
    rw [s.placeCall_free n payload p form e (s.sameCall_none n p new) (s.freeEntry_found e empty first), reply]
  · exact s.placeCall_answers q .full settled room
      (s.placeCall_full n payload p form (s.sameCall_none n p new) (s.freeEntry_none full) none)
  · have judged := s.placeCall_evicts n payload p form e v (s.sameCall_none n p new) (s.freeEntry_none full) victim
    refine ⟨fun low => s.placeCall_answers q .full settled room (judged.trans (if_neg (Nat.not_lt.mpr low))), fun high => ?_⟩
    refine s.placeCall_runs q settled _ (judged.trans ((if_pos high).trans ?_))
    rw [reply]

/-! ### Placements -/

theorem State.placeEntry_call (s : State) (e : Fin 16) (c : Call) :
    (∀ x, (s.placeEntry e c).cl.calls.at e = some x → x = { c with marks := x.marks, ready := x.ready, wait := x.wait })
      ∧ (c.reps = 0 → (s.placeEntry e c).cl.calls.at e ≠ none) := by
  refine ⟨fun x present => ?_, fun endless absent => ?_⟩
  · rw [s.placeEntry_placed] at present
    obtain ⟨y, placed, key⟩ := CallsAge.reallocate _ s.cl (s.cl.replaced e) e x present
    have own : (s.cl.placed e c).calls.at e = some c := Tab.at_put_self _ _ _
    exact (x.key_eq_iff c).mp (key.trans (congrArg Call.key (Option.some.inj (placed.symm.trans own))))
  · obtain ⟨x, present, -⟩ := s.placeEntry_listed e c endless
    exact absurd (present.symm.trans absent) nofun

theorem State.refreshCall_call (s : State) (e : Fin 16) (p : PlaceReq) (c : Call) (present : s.cl.calls.at e = some c) :
    (∀ x, (s.refreshCall e p).cl.calls.at e = some x →
        x = { s.freshened c p with marks := x.marks, ready := x.ready, wait := x.wait })
      ∧ (p.reps = 0 → (s.refreshCall e p).cl.calls.at e ≠ none) := by
  have fresh : (s.setCall e (some (s.freshened c p))).cl.calls.at e = some (s.freshened c p) := Tab.at_put_self _ _ _
  rw [s.refreshCall_present e p c present]
  dsimp only
  generalize s.setCall e (some (s.freshened c p)) = u at fresh ⊢
  have ages : CallsAge u (((s.zonesKept u e).foldl State.playOwner u).reallocate s.cl []) :=
    (CallsAge.foldl _ (fun t z => .playOwner t z) _).trans (.reallocate _ _ _)
  have kept : Kept e u (((s.zonesKept u e).foldl State.playOwner u).reallocate s.cl []) :=
    (Kept.foldl _ (fun t z k => k.playOwner z) _ (Kept.refl e u)).reallocate _ _
  generalize ((s.zonesKept u e).foldl State.playOwner u).reallocate s.cl [] = t at ages kept ⊢
  refine ⟨fun x here => ?_, fun endless absent => ?_⟩
  · obtain ⟨y, first, key⟩ := ages e x here
    exact (x.key_eq_iff _).mp (key.trans (congrArg Call.key (Option.some.inj (first.symm.trans fresh))))
  · obtain ⟨x, here, -⟩ := kept.2 _ fresh endless
    exact absurd (here.symm.trans absent) nofun

/-! ### Allocation -/

theorem State.reallocate_only (s : State) (before : CallList) (gone : List (Fin 16)) :
    CallsOnly s (s.reallocate before gone) ∧ Silent s (s.reallocate before gone) :=
  ⟨(CallsOnly.refl s).reallocate before gone, (Silent.refl s).reallocate before gone⟩

theorem State.refreshCall_only (s : State) (e : Fin 16) (p : PlaceReq) :
    CallsOnly s (s.refreshCall e p) ∧ Silent s (s.refreshCall e p) :=
  ⟨(CallsOnly.refl s).refreshCall e p, (Silent.refl s).refreshCall e p⟩

theorem State.reallocate_calls (s : State) (before : CallList) (gone : List (Fin 16)) :
    (∀ k x, (s.reallocate before gone).cl.calls.at k = some x → ∃ c, s.cl.calls.at k = some c
        ∧ x = { c with marks := x.marks, ready := x.ready, wait := x.wait })
      ∧ (∀ k c, s.cl.calls.at k = some c → c.reps = 0 → (s.reallocate before gone).cl.calls.at k ≠ none) := by
  refine ⟨fun k x here => ?_, fun k c present endless absent => ?_⟩
  · obtain ⟨c, present, key⟩ := CallsAge.reallocate s before gone k x here
    exact ⟨c, present, (x.key_eq_iff c).mp key⟩
  · obtain ⟨x, here, -⟩ := ((Kept.refl k s).reallocate before gone).2 c present endless
    exact absurd (here.symm.trans absent) nofun

end Sys2Proof.Machine
end

section
/-! SUPPORT. The call list's allocation, settled (R147 to R157). -/

namespace Sys2Proof.Machine

open Sys2Proof

theorem State.reallocate_formed (s : State) (before : CallList) (gone : List (Fin 16)) :
    s.reallocate before gone = (State.handleDone 193 (s.recompute before gone)).formBeacons := by
  rw [State.reallocate]

/-- A zone that changes hands with nothing to cut off (R153). -/
theorem State.recomputeZone_taken (s : State) (before : CallList) (gone : List (Fin 16)) (z : Fin 12)
    (moves : (before.zones.at z).owner ≠ s.cl.choose z ∨ ∃ e, (before.zones.at z).owner = some e ∧ e ∈ gone)
    (silent : ∀ e c, (before.zones.at z).owner = some e → s.loserOf before gone e = some c → c.isPlaying z = false) :
    State.recomputeZone before gone s z = (s.ownZone z (s.cl.choose z)).playOwner z := by
  cases owner : (before.zones.at z).owner with
  | none =>
    refine s.recomputeZone_free before gone z owner fun free => ?_
    obtain other | ⟨e, own, -⟩ := moves
    · exact other (owner.trans free.symm)
    · exact absurd (owner.symm.trans own) nofun
  | some e =>
    refine s.recomputeZone_silent before gone z e owner ?_ fun c loser => silent e c owner loser
    rw [owner] at moves
    exact moves.imp_right fun ⟨k, own, mem⟩ => Option.some.inj own ▸ mem

/-- Settles O55: PLACE and CANCEL; the refreshed, placed and removed entries; the rounds of the allocation; the
owner chosen, the call evicted; one zone recomputed; its frames; the zones' entries and the readiness. -/
theorem placeAndCancelJudged : Obligations.PlaceAndCancelJudged := by
  refine ⟨fun s n z1 z0 msg pri reps pat settled room => ?_, fun s e p c present => ?_, fun s e c es => ?_,
    fun s before gone => ?_, fun s z e => ?_, fun s before gone z => ?_, fun s z => ?_, fun s => s.writeOwners_testReady⟩
  · intro q out good set same free u becomes
    refine ⟨fun bad => ?_, fun well p code => ?_, fun small => s.cancelCall_runs n msg settled room small⟩
    · exact s.placeCall_answers q .badRequest settled room (s.placeCall_badForm n _ (placeForm_bad bad))
    · exact s.placeCall_judged n _ _ (placeForm_good well p code) settled room
  · intro wait fresh u kept t
    obtain ⟨only, silent⟩ := s.refreshCall_only e p
    obtain ⟨call, listed⟩ := s.refreshCall_call e p c present
    exact ⟨s.refreshCall_present e p c present, only, silent.2, silent.1, call, listed⟩
  · intro there drop old placed
    obtain ⟨call, listed⟩ := s.placeEntry_call e c
    exact ⟨s.placeEntry_placed e c, s.removeEntries_without es, call, listed⟩
  · have done : s.doneToHandle = true ↔ _ := s.doneToHandle_iff
    have round (n : Nat) := s.handleDone_round n
    rw [s.cl.finishedEntries_eq] at done round
    obtain ⟨only, silent⟩ := s.reallocate_only before gone
    obtain ⟨ages, stay⟩ := s.reallocate_calls before gone
    have formed := s.reallocate_formed before gone
    generalize s.reallocate before gone = placed at only silent ages stay formed ⊢
    generalize 193 = rounds at formed ⊢
    intro t zones finished follow
    exact ⟨only, silent.2, silent.1, ages, stay, formed, rfl, fun n => ⟨fun idle => s.handleDone_still n (mt done.mp idle),
      fun more => round n (done.mpr more)⟩⟩
  · exact ⟨s.choose_none z, s.choose_some z e, s.victim_none, s.victim_some e⟩
  · intro old new removed loser t own
    have lost (e : Fin 16) (owner : old = some e) : loser = s.loserOf before gone e := by
      simp only [loser, owner]
      rfl
    refine ⟨fun same stays => s.recomputeZone_same before gone z same fun e owner mem => stays ⟨e, owner, mem⟩,
      fun moves => ⟨fun silent => s.recomputeZone_taken before gone z moves fun e c owner had =>
        silent c ((lost e owner).trans had), fun e c owner had plays => ?_⟩⟩
    have cuts := s.recomputeZone_cut before gone z e c owner
      (by
        obtain other | ⟨k, own, mem⟩ := moves
        · exact .inl (owner ▸ other)
        · exact .inr (Option.some.inj (owner.symm.trans own) ▸ mem))
      ((lost e owner).symm.trans had) plays
    intro a cause
    refine ⟨fun unmapped => cuts.trans ?_, fun node object target => cuts.trans ?_⟩
    · exact congrArg (·.playOwner z) (a.buildCut_unmapped z _ unmapped)
    · exact congrArg (·.playOwner z) (a.buildCut_mapped z _ node object target)
  · intro zn a
    refine ⟨s.playOwner_free z, fun e c owned => ⟨s.playOwner_unfitted z e c owned,
      fun node object => s.playOwner_frame z e c node object owned⟩, s.cutTo_eq z, s.zoneTarget_mapped z, s.zoneTarget_unfitted z⟩

end Sys2Proof.Machine
end
